-- ==== Sys2Proof/Word.lean ====
section
/-! DEFINITION. The word types of the Q9 and their plainest arithmetic (00_scope R10, R11; 01_state R20). -/

namespace Sys2Proof

/-- A 32-bit register value of one lane (R20). -/
abbrev Word := BitVec 32

/-- A 64-bit pair value, address or system register (R20). -/
abbrev DWord := BitVec 64

/-- One bit per lane, lane 0 in bit 0 (R32, R43); the widest group has 128 lanes (R5). -/
abbrev Mask := BitVec 128

/-- One byte of memory. -/
abbrev Byte := BitVec 8

/-- An operand code of an instruction word (R75). -/
abbrev RegCode := BitVec 8

/-- The 64-bit value of a pair: low half in vk, high half in vk+1 (R20). -/
def pairOf (lo hi : Word) : DWord := hi ++ lo

/-- The low half of a pair value. -/
def loHalf (x : DWord) : Word := x.extractLsb' 0 32

/-- The high half of a pair value. -/
def hiHalf (x : DWord) : Word := x.extractLsb' 32 32

end Sys2Proof
end

