-- ==== Sys2Proof/Machine/Codes.lean ====
section
/-! DEFINITION. Which words are instructions: the opcodes, selector codes and reserved fields of R77 to R83. -/

namespace Sys2Proof

/-- The assigned primary opcodes of the map of R79. -/
def assignedOpcode (op : Nat) : Bool :=
  (0x01 ≤ op && op ≤ 0x3D) || (0x40 ≤ op && op ≤ 0x4E) || (0x50 ≤ op && op ≤ 0x59) ||
  (0x60 ≤ op && op ≤ 0x7D) || (0x80 ≤ op && op ≤ 0x87) || (0x90 ≤ op && op ≤ 0x99) ||
  (0xA0 ≤ op && op ≤ 0xA3) || (0xB0 ≤ op && op ≤ 0xB3)

/-- R77, check 2: a code that selects an operation is unassigned. -/
def selectorUnassigned (w : BitVec 32) : Bool :=
  let x := (w.extractLsb' 0 8).toNat
  let d5 := (w.extractLsb' 19 5).toNat
  match (w.extractLsb' 24 8).toNat with
  | 0x34 => 8 ≤ d5
  | 0x35 => 5 ≤ d5
  | 0x55 => 3 ≤ d5
  | 0x3C => 7 ≤ x
  | 0x3D => 2 ≤ x
  | 0x48 => 11 ≤ x
  | 0x49 => 15 ≤ x
  | 0x56 => 6 ≤ x
  | 0x57 => (6 ≤ x && x < 8) || 14 ≤ x
  | 0x72 => (w.extractLsb' 22 2).toNat == 3
  | 0x73 => (w.extractLsb' 3 2).toNat == 3 || 5 ≤ (w.extractLsb' 0 3).toNat
  | _ => false

/-- The reserved bits of a word by its opcode and its selector code: those that R80 to R83 mark 0 or give no field. -/
def reservedBits (w : BitVec 32) : BitVec 32 :=
  match (w.extractLsb' 24 8).toNat with
  | 0x57 => 0xF0#32
  | 0x56 => 0xF8#32
  | 0x19 | 0x59 | 0x94 | 0x95 | 0xA0 | 0xA2 | 0xA3 => 0xFF#32
  | 0x35 => 0xF8F8#32
  | 0x54 | 0x55 => 0xF8FF#32
  | 0x11 => 0xFFFC#32
  | 0x10 | 0x14 | 0x98 => 0xFFFF#32
  | 0x03 | 0x0C | 0x0E => 0xF00000#32
  | 0x1C => 0xF8FFFF#32
  | 0x07 | 0x08 | 0x09 | 0x0A | 0x15 | 0x18 | 0x1A | 0x1B | 0x1D | 0x1F | 0x83 => 0xFF0000#32
  | 0x16 => 0xFF001F#32
  | 0x04 | 0x05 | 0x1E | 0x84 | 0x86 | 0x99 => 0xFF00FF#32
  | 0x17 => 0xFFFF1F#32
  | 0x73 => 0xFFFFE0#32
  | 0x12 => 0xFFFFF0#32
  | 0x96 => 0xFFFFFC#32
  | 0x01 | 0x06 | 0x0D | 0x87 | 0xB2 | 0xB3 => 0xFFFFFF#32
  | 0x3D => if w.extractLsb' 0 8 == 0 then 0xF800#32 else 0xF80000#32
  | 0x72 => if w.extractLsb' 22 2 == 2 then 0x380000#32 else 0x3F0000#32
  | _ => 0

/-- A word of an assigned opcode that is no instruction (R77, checks 2 and 3). -/
def codeUnassigned (w : BitVec 32) : Bool :=
  selectorUnassigned w || w &&& reservedBits w != 0

end Sys2Proof
end

