-- ==== Sys2Proof/Syntax.lean ====
section
/-! DEFINITION. The steps of the Q9, one constructor per row of spec/opcode_table.json: the instruction words of
03_encoding R79 to R83, and the events of spec/95 that have no encoding. An event carries what the outside world
(another package, the host, the environment) supplies, or names the unit that acts. -/

namespace Sys2Proof

/-- The full/empty operations of R165. -/
inductive FeKind where
  | ldwt | ldcn | stfl | stfu | fefull | feempty | fetest
  deriving DecidableEq, Repr

/-- The atomics of R172. -/
inductive AtomOp where
  | add | min | max | and | or | xor | swp | cas | inc | dec
  deriving DecidableEq, Repr

/-- A PCI Express AtomicOp of the host (R368, R370). -/
inductive HostAtom where
  | fetchAdd | swap | cas
  deriving DecidableEq, Repr

/-- The PCI Express function that a host access names: the physical function, or context c's virtual function (R346). -/
inductive HostFn where
  | physical
  | virtual (ctx : Nat)
  deriving DecidableEq, Repr

/-- What a remote operation record asks of its target (R288). -/
inductive RemKind where
  | load
  | store
  | strl
  | atomic (op : AtomOp)
  | fe (k : FeKind)
  | prel (count : Word)
  | pull (size : Nat) (feMode : BitVec 2)
  | completion (land : Option Nat) (size : Nat)
  | withdraw (tag : Nat)
  deriving DecidableEq, Repr

/-- One operation record of a data flit (R288, R249): one lane's remote operation, or a copy's completion record. -/
structure OpRecord where
  src   : Nat
  ctx   : Nat
  part  : Nat
  core  : Nat
  slot  : Nat
  lane  : Nat
  tag   : Nat
  kind  : RemKind
  off   : Nat
  size  : Nat
  ty    : BitVec 4
  round : BitVec 3
  data  : BitVec 512
  data2 : BitVec 64
  chan  : Option Nat
  spin  : Nat
  park  : Nat
  scope : BitVec 3
  instr : Nat := 0
  deriving DecidableEq, Repr

/-- One reply record: the returned value, or the failure cause code (R288, R300). -/
structure Reply where
  tag  : Nat
  lane : Nat
  data : BitVec 512
  fail : Option (BitVec 8)
  deriving DecidableEq, Repr

/-- The bytes of one copy parcel that one data flit carries (R288): destination package and window offset, the copy's issuer, the
parcel's name at its source, by its entry's tag and the entry's place in the ring of its barrow, full/empty bits under FE copy, the poison marks of its 64-byte units, whether the flit is the parcel's first
or last, and whether it holds the copy's last byte. -/
structure ParcelFlit where
  src     : Nat
  dst     : Nat
  ctx     : Nat
  part    : Nat
  core    : Nat
  slot    : Nat
  entry   : Nat
  place   : BitVec 14
  num     : Nat
  off     : Nat
  bytes   : List Byte
  feMode  : BitVec 2
  feBits  : List Bool
  poison  : List Bool
  first   : Bool
  last    : Bool
  final   : Bool
  relayed : Bool
  pull    : Option Nat
  deriving DecidableEq, Repr

/-- An end-to-end acknowledgement entry of a header: the place of the source's barrow entry, and the parcel's number within it (R287). -/
structure E2EAck where
  refused : Bool
  place   : BitVec 14
  num     : Nat
  deriving DecidableEq, Repr

/-- A pod-barrier token (R298). -/
structure Token where
  ctx  : Nat
  bar  : Nat
  ep   : Nat
  hash : Word
  deriving DecidableEq, Repr

/-- What a data flit carries (R288); tier is a piece of a record for the checkpoint tier, with its poison marks (R391, R412). -/
inductive FlitBody where
  | tier (bytes : List Byte) (poison : List Bool)
  | parcel (p : ParcelFlit)
  | ops (l : List OpRecord)
  | replies (l : List Reply)
  | overflow (toks : List Token) (acks : List E2EAck)
  | idle
  deriving DecidableEq, Repr

/-- A data flit on the wire: its position in the slot, its first 264 bytes and what they say, the trailer fields of R375, and the codewords in which
it has a beat, each by its wavelength and its number there, with its symbol errors (R372, R373). -/
structure DataFlit where
  pos   : Nat
  bytes : List Byte
  crc   : BitVec 32
  seq   : Nat
  rstr  : Bool
  ack   : Option Nat
  body  : FlitBody
  words : List (Nat × Nat × Nat)
  deriving DecidableEq, Repr

/-- A header flit on the wire (R287, R375, R377): its 8-byte flit header, its CRC, the codewords in which it has a beat, the lane map of
the slot's lane markers where the receiver has read them (R372), the slots whose headers its sender has discarded (R378, log entry 27),
SEQ of the slot's first new data flit, and the fields of its data; overflow counts the data flits of tokens and acknowledgements that
follow it. -/
structure HeaderFlit where
  front  : List Byte
  crc    : BitVec 32
  words  : List (Nat × Nat × Nat)
  marker : Option (BitVec 16)
  missed : List Nat
  seq    : Nat
  src    : Nat
  slot   : Nat
  cycle  : Nat
  map    : BitVec 16
  high   : Nat
  gaps   : List (Nat × Nat)
  room   : Nat
  overflow : Nat
  tokens : List Token
  acks   : List E2EAck
  deriving DecidableEq, Repr

/-- A 64-byte management command packet of R347, as eight little-endian 8-byte words. -/
structure MgmtPacket where
  w0 : DWord
  w1 : DWord
  w2 : DWord
  w3 : DWord
  w4 : DWord
  w5 : DWord
  w6 : DWord
  w7 : DWord
  deriving DecidableEq, Repr

/-- The register a device-register write reaches: a steward system register by number (R95, R96), a register at a
byte offset of the physical function's BAR0 (R369), or the registers of a format window, which the steward's format-window service writes
for the tensor header record at an address of a context (R61 to R63); or the size that the host gives a function's BAR2, as log2 (R369). -/
inductive RegTarget where
  | sr (n : BitVec 16)
  | bar0 (off : Nat)
  | window (n : Nat) (ctx : Nat) (rcd : DWord)
  | resize (fn : HostFn) (lg : Nat)
  deriving DecidableEq, Repr

/-- What the runner reads from a laser source module (R386). -/
structure Telemetry where
  present : Bool
  power   : BitVec 16
  bias    : BitVec 16
  temp    : BitVec 16
  hours   : BitVec 32
  deriving DecidableEq, Repr

/-- What the cryptography over an image's bytes gives (R428), which is the environment's: the SHA-384 of the payload, the SHA-384 of keys, and the
signatures that verify, each as its scheme (0 Ed25519, 1 ML-DSA-65), key, signed bytes and signature. -/
structure ImageChecks where
  payload  : BitVec 384
  hashes   : List (List Byte × BitVec 384)
  verified : List (Nat × List Byte × List Byte × List Byte)
  deriving DecidableEq, Repr

/-- A firmware image as the ROM sees it (R427, R428): the bytes of its header, of which those beyond the list are 0, and what the cryptography gives. -/
structure FwImage where
  header : List Byte
  checks : ImageChecks
  deriving DecidableEq, Repr

/-- The steps of the Q9. -/
inductive Instr where
  /-- R110: Does nothing. -/
  | nop
  /-- R111: Conditional branch on a predicate; it may split the strand. -/
  | br (n : BitVec 1) (p : BitVec 3) (o : BitVec 20)
  /-- R112: Writes pc+4 to v238:v239 and jumps to a PC-relative target; the group must have a single strand. -/
  | call (o : BitVec 20)
  /-- R113: Jumps to a per-lane 64-bit target and forms one strand for each distinct target. -/
  | jmpr (a : BitVec 8)
  /-- R112: Register-indirect call with a uniform target. -/
  | callr (a : BitVec 8)
  /-- R114: Retires the enabled lanes of the strand. -/
  | exit
  /-- R116: Marks a safe point and begins a save when the group is pre-empt-pending. -/
  | safe (i : BitVec 16)
  /-- R117: Opens an idempotent region, closing any region already open. -/
  | idem (i : BitVec 16)
  /-- R402: Compares the control-flow signature with imm16 and clears it. -/
  | sigck (i : BitVec 16)
  /-- R115: Raises the TRAP_INSTR class G trap. -/
  | trap (i : BitVec 16)
  /-- R115: Raises the BREAKPOINT class G trap. -/
  | brk (c : BitVec 24)
  /-- R197: Opens a remote region with a handler and a register checkpoint. -/
  | rbegin (o : BitVec 20)
  /-- R197: Waits for the region's remote operations to be acknowledged, then closes the region. -/
  | rcommit
  /-- R119: The group issues nothing until C is 0, then the strand jumps to the label. -/
  | cyld (o : BitVec 20)
  /-- R119: The group waits until the outstanding-operation counters are at or below the given limits. -/
  | waitc (l : BitVec 6) (s : BitVec 6) (c : BitVec 6) (t : BitVec 6)
  /-- R126: Divides the group into two groups of half the width, or reports a result code. -/
  | gdiv (d : BitVec 8)
  /-- R127: Waits for the buddy group and fuses with it at double the width, or reports a result code. -/
  | gfuse (d : BitVec 8) (c : BitVec 2)
  /-- R123: Sets kmask from a predicate, optionally inverted. -/
  | kmask (n : BitVec 1) (p : BitVec 3)
  /-- R35: Writes a selected field of the GM mode word. -/
  | setm (s : BitVec 8) (v : BitVec 16)
  /-- R121: Writes GM into a register as U. -/
  | getm (d : BitVec 8)
  /-- R122: Sets the index register xi to a U register plus imm8. -/
  | xset (a : BitVec 8) (i : BitVec 8)
  /-- R124: Translates a U pointer and loads a translation register. -/
  | txl (a : BitVec 8) (t : BitVec 3)
  /-- R124: Restores a translation register to its start state. -/
  | txi (t : BitVec 3)
  /-- R189: Initialises a scratchpad barrier object. -/
  | bari (a : BitVec 8) (b : BitVec 8)
  /-- R189: Arrives at a barrier object and returns its phase. -/
  | bara (d : BitVec 8) (a : BitVec 8)
  /-- R189: Holds the strand until the barrier phase differs from the given value. -/
  | barw (a : BitVec 8) (b : BitVec 8)
  /-- R119: The group issues nothing for the given number of ns. -/
  | sleep (i : BitVec 16)
  /-- R120: Sets a predicate in the lowest enabled lane only. -/
  | elect (p : BitVec 3)
  /-- R190: Places one thread per enabled lane into the spawn bin keyed by a header address. -/
  | spawn (a : BitVec 8) (b : BitVec 8)
  /-- R191: Team-collective launch of a child gang; the team waits until the child completes. -/
  | fork (a : BitVec 8)
  /-- R192: Places a 64-byte packet into a queue of the context. -/
  | enq (a : BitVec 8) (b : BitVec 8)
  /-- R102: Integer add under the GM type. -/
  | add (d : BitVec 8) (a : BitVec 8) (b : BitVec 8)
  /-- R102: Integer subtract. -/
  | sub (d : BitVec 8) (a : BitVec 8) (b : BitVec 8)
  /-- R102: Integer multiply. -/
  | mul (d : BitVec 8) (a : BitVec 8) (b : BitVec 8)
  /-- R102: High half of the exact integer product. -/
  | mulh (d : BitVec 8) (a : BitVec 8) (b : BitVec 8)
  /-- R102: Integer multiply-add into d. -/
  | mad (d : BitVec 8) (a : BitVec 8) (b : BitVec 8)
  /-- R102: Integer divide, truncating toward zero. -/
  | div (d : BitVec 8) (a : BitVec 8) (b : BitVec 8)
  /-- R102: Integer remainder. -/
  | rem (d : BitVec 8) (a : BitVec 8) (b : BitVec 8)
  /-- R102: Integer minimum. -/
  | min (d : BitVec 8) (a : BitVec 8) (b : BitVec 8)
  /-- R102: Integer maximum. -/
  | max (d : BitVec 8) (a : BitVec 8) (b : BitVec 8)
  /-- R102: Absolute difference. -/
  | absd (d : BitVec 8) (a : BitVec 8) (b : BitVec 8)
  /-- R102: Bitwise AND. -/
  | and (d : BitVec 8) (a : BitVec 8) (b : BitVec 8)
  /-- R102: Bitwise OR. -/
  | or (d : BitVec 8) (a : BitVec 8) (b : BitVec 8)
  /-- R102: Bitwise XOR. -/
  | xor (d : BitVec 8) (a : BitVec 8) (b : BitVec 8)
  /-- R102: Bitwise a AND NOT b. -/
  | andn (d : BitVec 8) (a : BitVec 8) (b : BitVec 8)
  /-- R102: Shift left. -/
  | shl (d : BitVec 8) (a : BitVec 8) (b : BitVec 8)
  /-- R102: Arithmetic or logical shift right. -/
  | shr (d : BitVec 8) (a : BitVec 8) (b : BitVec 8)
  /-- R102: Rotate left within each element. -/
  | rol (d : BitVec 8) (a : BitVec 8) (b : BitVec 8)
  /-- R105: Bit-field extract. -/
  | bfx (d : BitVec 8) (a : BitVec 8) (b : BitVec 8)
  /-- R105: Bit-field insert. -/
  | bfi (d : BitVec 8) (a : BitVec 8) (b : BitVec 8)
  /-- R106: Per-lane select between a and b, controlled by d. -/
  | sel (d : BitVec 8) (a : BitVec 8) (b : BitVec 8)
  /-- R107: Compares under a condition and writes a predicate. -/
  | cmp (c : BitVec 5) (p : BitVec 3) (a : BitVec 8) (b : BitVec 8)
  /-- R108: Logical function of two predicates. -/
  | plog (f : BitVec 5) (p : BitVec 3) (q : BitVec 3) (r : BitVec 3)
  /-- R103: Loads a zero-extended 16-bit immediate. -/
  | li (d : BitVec 8) (i : BitVec 16)
  /-- R103: Loads the high 16 bits of a register. -/
  | lih (d : BitVec 8) (i : BitVec 16)
  /-- R103: Adds a sign-extended imm8. -/
  | addi (d : BitVec 8) (a : BitVec 8) (i : BitVec 8)
  /-- R103: Shift left by an immediate. -/
  | shli (d : BitVec 8) (a : BitVec 8) (i : BitVec 8)
  /-- R103: Shift right by an immediate. -/
  | shri (d : BitVec 8) (a : BitVec 8) (i : BitVec 8)
  /-- R103: AND with a zero-extended immediate. -/
  | andi (d : BitVec 8) (a : BitVec 8) (i : BitVec 8)
  /-- R104: Population count. -/
  | popc (d : BitVec 8) (a : BitVec 8)
  /-- R104: Count of leading zero bits. -/
  | clz (d : BitVec 8) (a : BitVec 8)
  /-- R104: Bit reverse within each element. -/
  | brev (d : BitVec 8) (a : BitVec 8)
  /-- R104: Bitwise NOT. -/
  | not (d : BitVec 8) (a : BitVec 8)
  /-- R104: Integer negate. -/
  | neg (d : BitVec 8) (a : BitVec 8)
  /-- R104: Integer absolute value. -/
  | abs (d : BitVec 8) (a : BitVec 8)
  /-- R104: Register move that keeps the source's shape. -/
  | mov (d : BitVec 8) (a : BitVec 8)
  /-- R109: Writes a predicate to a register as 1 or 0 per lane. -/
  | movpToRegister (d : BitVec 8) (p : BitVec 3)
  /-- R109: Sets a predicate where a register is non-zero. -/
  | movpToPredicate (p : BitVec 3) (a : BitVec 8)
  /-- R137: Floating-point add. -/
  | fadd (d : BitVec 8) (a : BitVec 8) (b : BitVec 8)
  /-- R137: Floating-point subtract. -/
  | fsub (d : BitVec 8) (a : BitVec 8) (b : BitVec 8)
  /-- R137: Floating-point multiply. -/
  | fmul (d : BitVec 8) (a : BitVec 8) (b : BitVec 8)
  /-- R137: Fused multiply-add. -/
  | fma (d : BitVec 8) (a : BitVec 8) (b : BitVec 8)
  /-- R137: Fused multiply-subtract. -/
  | fms (d : BitVec 8) (a : BitVec 8) (b : BitVec 8)
  /-- R138: Floating-point minimum. -/
  | fmin (d : BitVec 8) (a : BitVec 8) (b : BitVec 8)
  /-- R138: Floating-point maximum. -/
  | fmax (d : BitVec 8) (a : BitVec 8) (b : BitVec 8)
  /-- R137: Correctly rounded floating-point divide. -/
  | fdiv (d : BitVec 8) (a : BitVec 8) (b : BitVec 8)
  /-- R139: Correctly rounded square root. -/
  | fsqrt (d : BitVec 8) (a : BitVec 8)
  /-- R140: Reciprocal approximation within 1 ulp. -/
  | frcp (d : BitVec 8) (a : BitVec 8)
  /-- R140: Reciprocal square-root approximation. -/
  | frsq (d : BitVec 8) (a : BitVec 8)
  /-- R140: Base-2 exponential approximation. -/
  | fex2 (d : BitVec 8) (a : BitVec 8)
  /-- R140: Base-2 logarithm approximation. -/
  | flg2 (d : BitVec 8) (a : BitVec 8)
  /-- R140: Sine approximation. -/
  | fsin (d : BitVec 8) (a : BitVec 8)
  /-- R140: Cosine approximation. -/
  | fcos (d : BitVec 8) (a : BitVec 8)
  /-- R139: Clears the sign bit. -/
  | fabs (d : BitVec 8) (a : BitVec 8)
  /-- R139: Inverts the sign bit. -/
  | fneg (d : BitVec 8) (a : BitVec 8)
  /-- R139: Rounds to an integral value in the GM mode. -/
  | frnd (d : BitVec 8) (a : BitVec 8)
  /-- R141: Writes a one-hot class mask. -/
  | fcls (d : BitVec 8) (a : BitVec 8)
  /-- R143: Converts elements from the GM type to a destination type. -/
  | cvt (d : BitVec 8) (a : BitVec 8) (x : BitVec 8)
  /-- R145: Adds the exact dot product of packed elements into the accumulator. -/
  | dot4 (d : BitVec 8) (a : BitVec 8) (b : BitVec 8)
  /-- R142: Scales by a power of two. -/
  | fscl (d : BitVec 8) (a : BitVec 8) (b : BitVec 8)
  /-- R146: Quantises eight binary32 values to a block of E2M1 with a block scale. -/
  | qnt8 (d : BitVec 8) (a : BitVec 8) (b : BitVec 8)
  /-- R147: Dequantises an E2M1 block to eight binary32 values. -/
  | dqn8 (d : BitVec 8) (a : BitVec 8) (b : BitVec 8)
  /-- R148: Keyed Hadamard transform across lanes. -/
  | hadm (d : BitVec 8) (a : BitVec 8) (b : BitVec 8)
  /-- R130: Reads a from a source lane indexed by b. -/
  | shfl (d : BitVec 8) (a : BitVec 8) (b : BitVec 8)
  /-- R130: XOR-indexed shuffle. -/
  | shfx (d : BitVec 8) (a : BitVec 8) (b : BitVec 8)
  /-- R130: Exchange within a quad, using helper lanes. -/
  | qxch (d : BitVec 8) (a : BitVec 8) (s : BitVec 8)
  /-- R130: Broadcasts a from a U-selected lane. -/
  | bcst (d : BitVec 8) (a : BitVec 8) (b : BitVec 8)
  /-- R131: Writes the mask of enabled lanes in which a predicate is set. -/
  | ballot (d : BitVec 8) (p : BitVec 3)
  /-- R132: All, any or uni vote of a predicate over the enabled lanes. -/
  | vote (k : BitVec 5) (p : BitVec 3) (q : BitVec 3)
  /-- R133: Reduction over the member lanes. -/
  | gred (d : BitVec 8) (a : BitVec 8) (x : BitVec 3)
  /-- R133: Inclusive or exclusive scan over the member lanes. -/
  | gscan (d : BitVec 8) (a : BitVec 8) (e : BitVec 1) (x : BitVec 3)
  /-- R206: Grouped top-k expert selection, one rank per lane. -/
  | ktop (d : BitVec 8) (a : BitVec 8) (b : BitVec 8)
  /-- R130: Writes the mask of lanes that hold an equal value. -/
  | matchLanes (d : BitVec 8) (a : BitVec 8)
  /-- R159: Loads 1 byte. -/
  | ld1 (d : BitVec 8) (a : BitVec 8) (t : BitVec 3) (i : BitVec 5)
  /-- R159: Loads 2 bytes. -/
  | ld2 (d : BitVec 8) (a : BitVec 8) (t : BitVec 3) (i : BitVec 5)
  /-- R159: Loads 4 bytes. -/
  | ld4 (d : BitVec 8) (a : BitVec 8) (t : BitVec 3) (i : BitVec 5)
  /-- R159: Loads 8 bytes into a pair. -/
  | ld8 (d : BitVec 8) (a : BitVec 8) (t : BitVec 3) (i : BitVec 5)
  /-- R159: Loads 16 bytes. -/
  | ld16 (d : BitVec 8) (a : BitVec 8) (t : BitVec 3) (i : BitVec 5)
  /-- R159: Loads 64 bytes. -/
  | ld64 (d : BitVec 8) (a : BitVec 8) (t : BitVec 3) (i : BitVec 5)
  /-- R162: Acquire load of 8 bytes. -/
  | ldaq (d : BitVec 8) (a : BitVec 8) (t : BitVec 3) (i : BitVec 5)
  /-- R165: Waits for the word to be full and reads it, leaving it full. -/
  | ldwt (d : BitVec 8) (a : BitVec 8) (t : BitVec 3) (i : BitVec 5)
  /-- R165: Waits for the word to be full, reads it and sets it empty. -/
  | ldcn (d : BitVec 8) (a : BitVec 8) (t : BitVec 3) (i : BitVec 5)
  /-- R159: Stores 1 byte. -/
  | st1 (d : BitVec 8) (a : BitVec 8) (t : BitVec 3) (i : BitVec 5)
  /-- R159: Stores 2 bytes. -/
  | st2 (d : BitVec 8) (a : BitVec 8) (t : BitVec 3) (i : BitVec 5)
  /-- R159: Stores 4 bytes. -/
  | st4 (d : BitVec 8) (a : BitVec 8) (t : BitVec 3) (i : BitVec 5)
  /-- R159: Stores 8 bytes. -/
  | st8 (d : BitVec 8) (a : BitVec 8) (t : BitVec 3) (i : BitVec 5)
  /-- R159: Stores 16 bytes. -/
  | st16 (d : BitVec 8) (a : BitVec 8) (t : BitVec 3) (i : BitVec 5)
  /-- R159: Stores 64 bytes. -/
  | st64 (d : BitVec 8) (a : BitVec 8) (t : BitVec 3) (i : BitVec 5)
  /-- R162: Release store of 8 bytes. -/
  | strl (d : BitVec 8) (a : BitVec 8) (t : BitVec 3) (i : BitVec 5)
  /-- R165: Waits for the word to be empty, writes it and sets it full. -/
  | stfl (d : BitVec 8) (a : BitVec 8) (t : BitVec 3) (i : BitVec 5)
  /-- R165: Writes the word and sets it full unconditionally. -/
  | stfu (d : BitVec 8) (a : BitVec 8) (t : BitVec 3) (i : BitVec 5)
  /-- R165: Sets the full/empty bit to full. -/
  | fefull (a : BitVec 8) (t : BitVec 3) (i : BitVec 5)
  /-- R165: Sets the full/empty bit to empty. -/
  | feempty (a : BitVec 8) (t : BitVec 3) (i : BitVec 5)
  /-- R165: Writes the full/empty bit into a predicate. -/
  | fetest (p : BitVec 3) (a : BitVec 8) (t : BitVec 3) (i : BitVec 5)
  /-- R163: Acquire, release or full fence at a scope. -/
  | fence (k : BitVec 2) (s : BitVec 3)
  /-- R172: Atomic add. -/
  | aadd (d : BitVec 8) (a : BitVec 8) (t : BitVec 3) (i : BitVec 5)
  /-- R172: Atomic minimum. -/
  | amin (d : BitVec 8) (a : BitVec 8) (t : BitVec 3) (i : BitVec 5)
  /-- R172: Atomic maximum. -/
  | amax (d : BitVec 8) (a : BitVec 8) (t : BitVec 3) (i : BitVec 5)
  /-- R172: Atomic AND. -/
  | aand (d : BitVec 8) (a : BitVec 8) (t : BitVec 3) (i : BitVec 5)
  /-- R172: Atomic OR. -/
  | aor (d : BitVec 8) (a : BitVec 8) (t : BitVec 3) (i : BitVec 5)
  /-- R172: Atomic XOR. -/
  | axor (d : BitVec 8) (a : BitVec 8) (t : BitVec 3) (i : BitVec 5)
  /-- R172: Atomic swap. -/
  | aswp (d : BitVec 8) (a : BitVec 8) (t : BitVec 3) (i : BitVec 5)
  /-- R173: Atomic compare-and-swap. -/
  | acas (d : BitVec 8) (a : BitVec 8) (t : BitVec 3) (i : BitVec 5)
  /-- R172: Atomic wrapping increment. -/
  | ainc (d : BitVec 8) (a : BitVec 8) (t : BitVec 3) (i : BitVec 5)
  /-- R172: Atomic wrapping decrement. -/
  | adec (d : BitVec 8) (a : BitVec 8) (t : BitVec 3) (i : BitVec 5)
  /-- R184: Starts an engine copy, with optional full/empty treatment, landing word, binding and relay. -/
  | xcp (d : BitVec 8) (a : BitVec 8) (b : BitVec 8)
  /-- R185: Starts an engine fill with a 64-bit pattern. -/
  | xfill (d : BitVec 8) (a : BitVec 8) (b : BitVec 8)
  /-- R186: Starts an engine gather of indexed rows. -/
  | xgath (d : BitVec 8) (a : BitVec 8) (b : BitVec 8)
  /-- R187: Prefetches a local range into L2. -/
  | xpref (a : BitVec 8) (b : BitVec 8)
  /-- R193: Opens the counted channel to a package. -/
  | popen (a : BitVec 8)
  /-- R194: Counted release store to the channel's package. -/
  | prel (d : BitVec 8) (a : BitVec 8) (t : BitVec 3) (i : BitVec 5)
  /-- R196: Arrives at a pod barrier and holds the strand until the episode completes. -/
  | pbar (a : BitVec 8)
  /-- R195: Holds the strand until earlier remote operations are acknowledged end to end. -/
  | pdrain
  /-- R200: Matrix multiply into an accumulator tile. -/
  | tmm (d : BitVec 8) (a : BitVec 8) (b : BitVec 8)
  /-- R202: Matrix multiply that keeps A in the reuse latch. -/
  | tmmr (d : BitVec 8) (a : BitVec 8) (b : BitVec 8)
  /-- R203: Matrix multiply with a row count read from a count word. -/
  | tmmi (d : BitVec 8) (a : BitVec 8) (b : BitVec 8)
  /-- R203: TMMI with the reuse latch. -/
  | tmmir (d : BitVec 8) (a : BitVec 8) (b : BitVec 8)
  /-- R204: Loads tile elements from memory. -/
  | tlda (d : BitVec 8) (a : BitVec 8)
  /-- R204: Stores tile elements to memory. -/
  | tsta (d : BitVec 8) (a : BitVec 8)
  /-- R204: Zeroes a tile on both cores. -/
  | tzra (t : BitVec 2)
  /-- R204: Stores tile elements with conversion. -/
  | tcvt (d : BitVec 8) (a : BitVec 8) (b : BitVec 8)
  /-- R205: Closes the open tile batch and returns its number. -/
  | tfen (d : BitVec 8)
  /-- R205: Holds the strand until the tile batches up to a number have retired. -/
  | twt (a : BitVec 8)
  /-- R208: Configures an auction on the issuing core. -/
  | acfg (d : BitVec 8) (a : BitVec 8)
  /-- R209: Offers (score, token) entries to an auction and returns a reply. -/
  | bid (d : BitVec 8) (a : BitVec 8) (b : BitVec 8)
  /-- R210: Takes and empties an auction heap and writes it to memory. -/
  | aread (d : BitVec 8) (a : BitVec 8)
  /-- R210: Reads and clears an auction's takings. -/
  | take (d : BitVec 8) (a : BitVec 8)
  /-- R211: Reads a system register. -/
  | srd (d : BitVec 8) (n : BitVec 16)
  /-- R211: Writes a system register. -/
  | swr (d : BitVec 8) (n : BitVec 16)
  /-- R212: Returns from the trap handler, replaying a held mask if one is held. -/
  | rett
  /-- R213: Completes a save and hands the group's resources back. -/
  | park
  /-- R77: a word whose opcode is 0x00, 0xFF or reserved. -/
  | illegalWord (w : BitVec 32)
  /-- R77: a word of an assigned opcode with an unassigned selector code or a non-zero reserved field. -/
  | unassignedCodeWord (w : BitVec 32)
  /-- R157: the outstanding operation k of group g returns its value, and L falls. -/
  | loadReturn (g k : Nat)
  /-- R40: the outstanding write k of group g is accepted by its home slice or barrow, and S falls. -/
  | storeAccept (g k : Nat)
  /-- R429: management command COMMIT. -/
  | commit (m : MgmtPacket)
  /-- R247: the waiting lane of wait record k makes a further spin attempt. -/
  | feSpinRetry (k : Nat)
  /-- R166: the lane of wait record k, in retry mode, attempts again. -/
  | feBucketRetry (k : Nat)
  /-- R166: the park limit of wait record k expires. -/
  | feBudgetExpiry (k : Nat)
  /-- R183: the next n bytes of engine operation e land. -/
  | engineBytesLand (e n : Nat)
  /-- R183: engine operation e fills its landing word, or parks. -/
  | engineLandingFill (e : Nat)
  /-- R179: engine operation e completes. -/
  | engineComplete (e : Nat)
  /-- R180: engine operation e fails after issue. -/
  | engineFailure (e : Nat)
  /-- R234: the matrix engine starts the head of stream k of team tm. -/
  | tileOpStart (tm k : Nat)
  /-- R203: the waiting read of the count word at the head of stream k of team tm. -/
  | tmmiCountRead (tm k : Nat)
  /-- R199, R201: the started operation of stream k of team tm retires; a mirror comparison names its first difference. -/
  | tileOpRetire (tm k : Nat) (mismatch : Option (Nat × Nat))
  /-- R114: group g retires. -/
  | groupRetire (g : Nat)
  /-- R227: two live strands of group g at one PC merge. -/
  | strandMerge (g : Nat)
  /-- R226: the rotation swap of group g. -/
  | strandRotation (g : Nat)
  /-- R228: a Ready strand of group g has aged and becomes its candidate. -/
  | strandAging (g : Nat)
  /-- R228: group g becomes starved. -/
  | groupStarved (g : Nat)
  /-- R119: the SLEEP of group g ends. -/
  | sleepWake (g : Nat)
  /-- R127: the GFUSE timeout of group g expires. -/
  | gfuseTimeout (g : Nat)
  /-- R339: the timer of spawn bin b expires. -/
  | binTimerExpiry (b : Nat)
  /-- R339: the oldest formed group of bin b is placed on a core, in a quarter and a slot. -/
  | spawnGroupPlace (b core quarter slot : Nat)
  /-- R192: the wait of group g's ENQ exceeds the park limit. -/
  | enqTimeout (g : Nat)
  /-- R194: the held PREL k is performed. -/
  | prelPerform (k : Nat)
  /-- R198: the remote region of group g is rolled back with a cause code. -/
  | regionRollback (g : Nat) (cause : BitVec 8)
  /-- R399: poison at an address restarts group g at SR_IDPC. -/
  | idempotentRestart (g : Nat) (addr : DWord)
  /-- R407: the progress timer of group g reaches the limit. -/
  | watchdog (g : Nat)
  /-- R404: gang g is aborted. -/
  | gangAbort (g : Nat)
  /-- R280, R369: a host write through a plain alias. -/
  | hostPlainWrite (fn : HostFn) (off : Nat) (bytes : List Byte)
  /-- R370: a host write through a fill alias. -/
  | hostFillWrite (fn : HostFn) (off : Nat) (bytes : List Byte)
  /-- R369: a host read of n bytes through BAR2, or of the registers in BAR0. -/
  | hostRead (fn : HostFn) (bar0 : Bool) (off n : Nat)
  /-- R370: a host AtomicOp on z bytes, through the fill alias or the plain alias. -/
  | hostAtomicop (fn : HostFn) (fillAlias : Bool) (op : HostAtom) (z off : Nat) (val cmp : DWord)
  /-- R408: no header from peer p for 4 joined slots. -/
  | peerRecovering (p : Nat)
  /-- R408: RECOV expires for peer p. -/
  | peerLost (p : Nat)
  /-- R385: source s has qualified. -/
  | sourceQualified (s : Nat)
  /-- R410: the start time of context c's checkpoint is reached. -/
  | checkpointStart (c : Nat)
  /-- R336: a core kept clocked and empty goes idle. -/
  | rampDownIdle (part core : Nat)
  /-- R291, R293: a slot starts; for each parcel that relay takes, the broker drawn. -/
  | slotStart (brokers : List Nat)
  /-- R285: the header contents of the coming slot's port p are fixed. -/
  | headerFix (p : Nat)
  /-- R421: a dip of 64 cycles lowers pair p's clock target. -/
  | droopStepDown (p : Nat)
  /-- R421: 10 µs without a droop raise pair p's clock target. -/
  | droopStepUp (p : Nat)
  /-- R296: the service of arrived operation k completes and its reply is queued. -/
  | remoteServiceComplete (k : Nat)
  /-- R325: the front end consumes the next full slot of queue q of context c. -/
  | packetConsume (c q : Nat)
  /-- R333: the current LAUNCH packet of queue q of context c starts reserving. -/
  | launch (c q : Nat)
  /-- R327: the current COPY packet of the queue starts. -/
  | copyPacket (c q : Nat)
  /-- R327: the current SIGNAL packet of the queue is carried out. -/
  | signal (c q : Nat)
  /-- R327: the current WAITVAL packet of the queue begins to wait. -/
  | waitval (c q : Nat)
  /-- R327: the WAITVAL word is read again. -/
  | waitvalPoll (c q : Nat)
  /-- R327: the WAITVAL timeout expires. -/
  | waitvalTimeout (c q : Nat)
  /-- R327: the current QBARRIER completes when every earlier packet has. -/
  | qbarrier (c q : Nat)
  /-- R327: the current TIMESTAMP writes SR_TIME. -/
  | timestamp (c q : Nat)
  /-- R327: the current NOP packet completes. -/
  | nopPacket (c q : Nat)
  /-- R334: the last answer for gang g arrives; the cores the dispatchers propose for its teams, in team order. -/
  | reservationAnswer (g : Nat) (cores : List Nat)
  /-- R334: a partition fails to answer for gang g. -/
  | reservationTimeout (g : Nat)
  /-- R334: waiting gang g is offered again. -/
  | reservationRetry (g : Nat)
  /-- R335, R336: the next team of gang g on a partition starts on a core, its lane blocks from a quarter on. -/
  | teamStart (g part core quarter : Nat)
  /-- R335: a committed partition cannot start gang g's first team. -/
  | gangStartFailure (g : Nat)
  /-- R337: the gang counter of g is zero. -/
  | gangComplete (g : Nat)
  /-- R405: the front end polls the status of a held queue. -/
  | queueAbtPoll (c q : Nat)
  /-- R324: the held host fill k is dropped. -/
  | hostFillTimeout (k : Nat)
  /-- R244: a core's carve-out becomes code c. -/
  | carveOutChange (part core c : Nat)
  /-- R364: the save of team tm is cancelled. -/
  | saveCancel (tm : Nat)
  /-- R366: the saved team tm is placed on a core and restored; none: no core fits. -/
  | teamRestore (tm : Nat) (core : Option Nat)
  /-- R348: management command CTX_CREATE. -/
  | ctxCreate (m : MgmtPacket)
  /-- R349: management command CTX_DESTROY. -/
  | ctxDestroy (m : MgmtPacket)
  /-- R322: management command QUEUE_REG. -/
  | queueReg (m : MgmtPacket)
  /-- R347: management command QUEUE_UNREG. -/
  | queueUnreg (m : MgmtPacket)
  /-- R343: management command HANDLE_NEW. -/
  | handleNew (m : MgmtPacket)
  /-- R347: management command HANDLE_FREE. -/
  | handleFree (m : MgmtPacket)
  /-- R355: management command INVAL. -/
  | inval (m : MgmtPacket)
  /-- R359: management command MIGRATE. -/
  | migrate (m : MgmtPacket)
  /-- R359: the running migration (or page-out) of context c freezes its unit and ends. -/
  | migrateFreeze (c : Nat)
  /-- R361: management command PAGEOUT. -/
  | pageout (m : MgmtPacket)
  /-- R362: the steward pages a unit of context c in to a device frame; none: no frame is free. -/
  | pageIn (c va : Nat) (frame : Option Nat)
  /-- R357: management command FAULT_REPLY. -/
  | faultReply (m : MgmtPacket)
  /-- R411: management command CKPT, mode 0. -/
  | ckptFull (m : MgmtPacket)
  /-- R411: management command CKPT, mode 1. -/
  | ckptIncremental (m : MgmtPacket)
  /-- R412: management command CKPT, mode 2, with the units and records the tier returns. -/
  | ckptRestore (m : MgmtPacket) (units : List (Nat × List Byte × List Byte × List Bool))
  /-- R411: the rounds of context c's checkpoint end and it quiesces. -/
  | ckptQuiesce (c : Nat)
  /-- R411: a quiesce limit of context c is missed. -/
  | ckptQuiesceTimeout (c : Nat)
  /-- R411: context c is drained; the final copy runs and the teams resume. -/
  | ckptDrainComplete (c : Nat)
  /-- R176: the host answers the AtomicOp of operation k of group g, with support or without. -/
  | hostAtomicopCompletion (g k : Nat) (supported : Bool)
  /-- R349, R368: Function Level Reset of a context's virtual function, or with 32 of the physical function. -/
  | functionLevelReset (c : Nat)
  /-- R13: a write to a device register that has no row of its own, by the steward or by another agent. -/
  | registerWrite (steward : Bool) (r : RegTarget) (val : DWord)
  /-- R395: the scrub of every HBM burst. -/
  | hbmScrub
  /-- R406: a core of a partition fails. -/
  | coreFail (part core : Nat)
  /-- R414: a DRAM row is replaced; its units are moved away and back. -/
  | hbmRowRepair (units : List Nat)
  /-- R408: the fabric manager writes pod health entry p. -/
  | podHealthWrite (p : Nat) (st : BitVec 2)
  /-- R382: source s loses its light. -/
  | sourceLoss (s : Nat)
  /-- R383: port p's receiver loses the wavelengths of a mask. What the event names beside it (the first flit lost, their number, the position
  of the first flit under the new map) the receiver finds itself (log entry 76). -/
  | rxLoss (p : Nat) (lost : BitVec 16) (first count rstr : Nat)
  /-- R385: light returns to source s. -/
  | sourceLightReturn (s : Nat)
  /-- R385: a write of RETIRE. -/
  | sourceRetireWrite (s : Nat) (retire : Bool)
  /-- R386: telemetry of source s. -/
  | sourceTelemetry (s : Nat) (t : Telemetry)
  /-- R387: the hourly update of source s, with the hour's mean POWER. -/
  | sourceHourlyUpdate (s : Nat) (mean : BitVec 16)
  /-- R389: a write of CLR of port p. -/
  | portCounterClear (p : Nat)
  /-- R388: a sideband write of the register offset. -/
  | quiperOffsetWrite (off : BitVec 24)
  /-- R388: a sideband read of n bytes. -/
  | quiperDataRead (n : Nat)
  /-- R388: a sideband write. -/
  | quiperDataWrite (bytes : List Byte)
  /-- R432: I3C dynamic address assignment. -/
  | entdaa (addr : BitVec 7)
  /-- R432: I3C GETPID. -/
  | getpid
  /-- R432: I3C GETBCR. -/
  | getbcr
  /-- R432: I3C GETDCR. -/
  | getdcr
  /-- R432: I3C GETSTATUS. -/
  | getstatus
  /-- R431: SPDM GET_VERSION. -/
  | getVersion
  /-- R431: SPDM GET_CAPABILITIES. -/
  | getCapabilities
  /-- R431: SPDM NEGOTIATE_ALGORITHMS. -/
  | negotiateAlgorithms
  /-- R431: SPDM GET_DIGESTS. -/
  | getDigests
  /-- R431: SPDM GET_CERTIFICATE of a slot. -/
  | getCertificate (slot : Nat)
  /-- R431: SPDM CHALLENGE with the verifier's nonce. -/
  | challenge (nonce : BitVec 256)
  /-- R431: SPDM GET_MEASUREMENTS of an index (0 all), signed or not. -/
  | getMeasurements (index : Nat) (signed : Bool) (nonce : BitVec 256)
  /-- R416: a marked edge with its carried pod time, the phase error in 0.01 ns, and whether its duty pattern is whole. -/
  | referenceMarker (carried : DWord) (err : BitVec 16) (good : Bool)
  /-- R419: four consecutive edges are missing. -/
  | referenceLoss
  /-- R419: HOLDNS reaches 0. -/
  | holdoverExpiry
  /-- R417: a write of JOIN. -/
  | rotaJoinWrite (join : Bool)
  /-- R420: the package enters the rota. -/
  | rotaEntry
  /-- R417: the package leaves the rota. -/
  | rotaLeave
  /-- R421: the detector of core pair p changes: a dip begins, or the dip has ended (log entry 76). -/
  | droopDetect (p : Nat)
  /-- R288: a data flit from a peer is decoded. -/
  | dataFlitReceive (peer : Nat) (f : DataFlit)
  /-- R287: a header flit from a peer is decoded. -/
  | headerFlitReceive (peer : Nat) (h : HeaderFlit)
  /-- R423: the power runner acts on the measured power and the hottest junction of each die. -/
  | powerControl (pnow : BitVec 16) (t0 t1 t2 t3 : BitVec 8)
  /-- R423: the junction reaches 115 °C. -/
  | thermalShutdown
  /-- R426: runner r is reset and restarted. -/
  | runnerRestart (r : Nat)
  /-- R426: 100 ms without service of the hardware watchdog. -/
  | stewardWatchdogExpiry
  /-- R426: warm reset; the register banks that the steward removes at it, by partition and core (R414). -/
  | warmReset (banks : List (Nat × Nat))
  /-- R15, R350, R428: cold reset; the two copies of the steward image in flash, and the ordering code, the pod size and the package id
  that boot finds. -/
  | coldReset (a b : FwImage) (code : BitVec 8) (lgpod pkg : Nat)
  /-- R428: the recovery image that has been written through the window, with what the cryptography over its bytes gives. -/
  | recoveryImage (chk : ImageChecks)
  /-- R416: reference edges appear in FREE. -/
  | referenceAcquire
  deriving DecidableEq, Repr

end Sys2Proof
end

