-- ==== Sys2Proof/WellFormed.lean ====
section
/-! DEFINITION. Which terms of Instr stand for a word the spec gives, or for an event of a unit the package has. -/

namespace Sys2Proof

/-- The check of each constructor: selector codes within R81 to R83, the opcode of an illegal word, and unit numbers
within what the package has (32 calendar ports and 4 anchor ports, 16 sources, 4 partitions of 92 cores, 32 contexts of
64 queues, 6 runners, 1,024 pod entries). Register codes, predicates and immediates take every value of their field. -/
def wellFormed : Instr → Bool
  | .cmp c _ _ _ => c.toNat < 8
  | .plog f _ _ _ => f.toNat < 5
  | .vote k _ _ => k.toNat < 3
  | .cvt _ _ x => x.toNat < 15
  | .gred _ _ x => x.toNat < 6
  | .gscan _ _ _ x => x.toNat < 6
  | .fence k s => k.toNat < 3 && s.toNat < 5
  | .illegalWord w => !assignedOpcode (w.extractLsb' 24 8).toNat
  | .unassignedCodeWord w => assignedOpcode (w.extractLsb' 24 8).toNat && codeUnassigned w
  | .tileOpStart _ k | .tmmiCountRead _ k => k < 4
  | .tileOpRetire _ k m => k < 4 && (match m with | none => true | some (r, c) => r < 128 && c < 128)
  | .spawnGroupPlace _ core quarter slot => core < 92 && quarter < 4 && slot < 32
  | .headerFix p => p < 36
  | .dataFlitReceive p f => p < 1028 && f.seq < 16384
  | .headerFlitReceive p h => p < 1028 && h.slot < 32
  | .packetConsume c q | .launch c q | .copyPacket c q | .signal c q | .waitval c q | .waitvalPoll c q
  | .waitvalTimeout c q | .qbarrier c q | .timestamp c q | .nopPacket c q | .queueAbtPoll c q => c < 32 && q < 64
  | .teamStart _ part core quarter => part < 4 && core < 92 && quarter < 4
  | .carveOutChange part core c => part < 4 && core < 92 && c < 6
  | .teamRestore _ (some core) => core < 92
  | .migrateFreeze c | .ckptQuiesce c | .ckptQuiesceTimeout c | .ckptDrainComplete c
  | .checkpointStart c => c < 32
  | .functionLevelReset c => c ≤ 32
  | .pageIn c va _ => c < 32 && va < 2 ^ 49
  | .hostAtomicop _ _ _ z _ _ _ => z == 4 || z == 8
  | .hostPlainWrite _ _ l | .hostFillWrite _ _ l => l.length ≤ 512
  | .hostRead _ _ _ n => n ≤ 4096
  | .registerWrite _ (.resize _ lg) _ => 30 ≤ lg && lg ≤ 40
  | .coreFail part core | .rampDownIdle part core => part < 4 && core < 92
  | .peerRecovering p | .peerLost p | .podHealthWrite p _ => p < 1024
  | .sourceLoss s | .sourceLightReturn s | .sourceQualified s | .sourceRetireWrite s _ | .sourceTelemetry s _
  | .sourceHourlyUpdate s _ => s < 16
  | .rxLoss p _ _ _ _ | .portCounterClear p => p < 36
  | .droopDetect p | .droopStepDown p | .droopStepUp p => p < 184
  | .runnerRestart r => r < 6
  | .getMeasurements index _ _ => index < 5
  | _ => true

end Sys2Proof
end

