-- ==== Sys2Proof/Decode.lean ====
section
/-! DEFINITION. From a 32-bit word to the instruction it stands for (R74 to R83), total, and back. A word that is no
instruction decodes to the step that R77 gives it: illegalWord or unassignedCodeWord. -/

namespace Sys2Proof

/-- The decoder: every word has one fate (R77), its checks 1 to 3 in their order. -/
def decode (w : BitVec 32) : Instr :=
  if !assignedOpcode (w.extractLsb' 24 8).toNat then .illegalWord w
  else if codeUnassigned w then .unassignedCodeWord w
  else match (w.extractLsb' 24 8).toNat with
  | 0x01 => .nop
  | 0x02 => .br (w.extractLsb' 23 1) (w.extractLsb' 20 3) (w.extractLsb' 0 20)
  | 0x03 => .call (w.extractLsb' 0 20)
  | 0x04 => .jmpr (w.extractLsb' 8 8)
  | 0x05 => .callr (w.extractLsb' 8 8)
  | 0x06 => .exit
  | 0x07 => .safe (w.extractLsb' 0 16)
  | 0x08 => .idem (w.extractLsb' 0 16)
  | 0x09 => .sigck (w.extractLsb' 0 16)
  | 0x0A => .trap (w.extractLsb' 0 16)
  | 0x0B => .brk (w.extractLsb' 0 24)
  | 0x0C => .rbegin (w.extractLsb' 0 20)
  | 0x0D => .rcommit
  | 0x0E => .cyld (w.extractLsb' 0 20)
  | 0x0F => .waitc (w.extractLsb' 18 6) (w.extractLsb' 12 6) (w.extractLsb' 6 6) (w.extractLsb' 0 6)
  | 0x10 => .gdiv (w.extractLsb' 16 8)
  | 0x11 => .gfuse (w.extractLsb' 16 8) (w.extractLsb' 0 2)
  | 0x12 => .kmask (w.extractLsb' 3 1) (w.extractLsb' 0 3)
  | 0x13 => .setm (w.extractLsb' 16 8) (w.extractLsb' 0 16)
  | 0x14 => .getm (w.extractLsb' 16 8)
  | 0x15 => .xset (w.extractLsb' 8 8) (w.extractLsb' 0 8)
  | 0x16 => .txl (w.extractLsb' 8 8) (w.extractLsb' 5 3)
  | 0x17 => .txi (w.extractLsb' 5 3)
  | 0x18 => .bari (w.extractLsb' 8 8) (w.extractLsb' 0 8)
  | 0x19 => .bara (w.extractLsb' 16 8) (w.extractLsb' 8 8)
  | 0x1A => .barw (w.extractLsb' 8 8) (w.extractLsb' 0 8)
  | 0x1B => .sleep (w.extractLsb' 0 16)
  | 0x1C => .elect (w.extractLsb' 16 3)
  | 0x1D => .spawn (w.extractLsb' 8 8) (w.extractLsb' 0 8)
  | 0x1E => .fork (w.extractLsb' 8 8)
  | 0x1F => .enq (w.extractLsb' 8 8) (w.extractLsb' 0 8)
  | 0x20 => .add (w.extractLsb' 16 8) (w.extractLsb' 8 8) (w.extractLsb' 0 8)
  | 0x21 => .sub (w.extractLsb' 16 8) (w.extractLsb' 8 8) (w.extractLsb' 0 8)
  | 0x22 => .mul (w.extractLsb' 16 8) (w.extractLsb' 8 8) (w.extractLsb' 0 8)
  | 0x23 => .mulh (w.extractLsb' 16 8) (w.extractLsb' 8 8) (w.extractLsb' 0 8)
  | 0x24 => .mad (w.extractLsb' 16 8) (w.extractLsb' 8 8) (w.extractLsb' 0 8)
  | 0x25 => .div (w.extractLsb' 16 8) (w.extractLsb' 8 8) (w.extractLsb' 0 8)
  | 0x26 => .rem (w.extractLsb' 16 8) (w.extractLsb' 8 8) (w.extractLsb' 0 8)
  | 0x27 => .min (w.extractLsb' 16 8) (w.extractLsb' 8 8) (w.extractLsb' 0 8)
  | 0x28 => .max (w.extractLsb' 16 8) (w.extractLsb' 8 8) (w.extractLsb' 0 8)
  | 0x29 => .absd (w.extractLsb' 16 8) (w.extractLsb' 8 8) (w.extractLsb' 0 8)
  | 0x2A => .and (w.extractLsb' 16 8) (w.extractLsb' 8 8) (w.extractLsb' 0 8)
  | 0x2B => .or (w.extractLsb' 16 8) (w.extractLsb' 8 8) (w.extractLsb' 0 8)
  | 0x2C => .xor (w.extractLsb' 16 8) (w.extractLsb' 8 8) (w.extractLsb' 0 8)
  | 0x2D => .andn (w.extractLsb' 16 8) (w.extractLsb' 8 8) (w.extractLsb' 0 8)
  | 0x2E => .shl (w.extractLsb' 16 8) (w.extractLsb' 8 8) (w.extractLsb' 0 8)
  | 0x2F => .shr (w.extractLsb' 16 8) (w.extractLsb' 8 8) (w.extractLsb' 0 8)
  | 0x30 => .rol (w.extractLsb' 16 8) (w.extractLsb' 8 8) (w.extractLsb' 0 8)
  | 0x31 => .bfx (w.extractLsb' 16 8) (w.extractLsb' 8 8) (w.extractLsb' 0 8)
  | 0x32 => .bfi (w.extractLsb' 16 8) (w.extractLsb' 8 8) (w.extractLsb' 0 8)
  | 0x33 => .sel (w.extractLsb' 16 8) (w.extractLsb' 8 8) (w.extractLsb' 0 8)
  | 0x34 => .cmp (w.extractLsb' 19 5) (w.extractLsb' 16 3) (w.extractLsb' 8 8) (w.extractLsb' 0 8)
  | 0x35 => .plog (w.extractLsb' 19 5) (w.extractLsb' 16 3) (w.extractLsb' 8 3) (w.extractLsb' 0 3)
  | 0x36 => .li (w.extractLsb' 16 8) (w.extractLsb' 0 16)
  | 0x37 => .lih (w.extractLsb' 16 8) (w.extractLsb' 0 16)
  | 0x38 => .addi (w.extractLsb' 16 8) (w.extractLsb' 8 8) (w.extractLsb' 0 8)
  | 0x39 => .shli (w.extractLsb' 16 8) (w.extractLsb' 8 8) (w.extractLsb' 0 8)
  | 0x3A => .shri (w.extractLsb' 16 8) (w.extractLsb' 8 8) (w.extractLsb' 0 8)
  | 0x3B => .andi (w.extractLsb' 16 8) (w.extractLsb' 8 8) (w.extractLsb' 0 8)
  | 0x3C => if (w.extractLsb' 0 8) == 0x0#8 then .popc (w.extractLsb' 16 8) (w.extractLsb' 8 8)
      else if (w.extractLsb' 0 8) == 0x1#8 then .clz (w.extractLsb' 16 8) (w.extractLsb' 8 8)
      else if (w.extractLsb' 0 8) == 0x2#8 then .brev (w.extractLsb' 16 8) (w.extractLsb' 8 8)
      else if (w.extractLsb' 0 8) == 0x3#8 then .not (w.extractLsb' 16 8) (w.extractLsb' 8 8)
      else if (w.extractLsb' 0 8) == 0x4#8 then .neg (w.extractLsb' 16 8) (w.extractLsb' 8 8)
      else if (w.extractLsb' 0 8) == 0x5#8 then .abs (w.extractLsb' 16 8) (w.extractLsb' 8 8)
      else if (w.extractLsb' 0 8) == 0x6#8 then .mov (w.extractLsb' 16 8) (w.extractLsb' 8 8) else .unassignedCodeWord w
  | 0x3D => if (w.extractLsb' 0 8) == 0x0#8 then .movpToRegister (w.extractLsb' 16 8) (w.extractLsb' 8 3)
      else if (w.extractLsb' 0 8) == 0x1#8 then .movpToPredicate (w.extractLsb' 16 3) (w.extractLsb' 8 8) else .unassignedCodeWord w
  | 0x40 => .fadd (w.extractLsb' 16 8) (w.extractLsb' 8 8) (w.extractLsb' 0 8)
  | 0x41 => .fsub (w.extractLsb' 16 8) (w.extractLsb' 8 8) (w.extractLsb' 0 8)
  | 0x42 => .fmul (w.extractLsb' 16 8) (w.extractLsb' 8 8) (w.extractLsb' 0 8)
  | 0x43 => .fma (w.extractLsb' 16 8) (w.extractLsb' 8 8) (w.extractLsb' 0 8)
  | 0x44 => .fms (w.extractLsb' 16 8) (w.extractLsb' 8 8) (w.extractLsb' 0 8)
  | 0x45 => .fmin (w.extractLsb' 16 8) (w.extractLsb' 8 8) (w.extractLsb' 0 8)
  | 0x46 => .fmax (w.extractLsb' 16 8) (w.extractLsb' 8 8) (w.extractLsb' 0 8)
  | 0x47 => .fdiv (w.extractLsb' 16 8) (w.extractLsb' 8 8) (w.extractLsb' 0 8)
  | 0x48 => if (w.extractLsb' 0 8) == 0x0#8 then .fsqrt (w.extractLsb' 16 8) (w.extractLsb' 8 8)
      else if (w.extractLsb' 0 8) == 0x1#8 then .frcp (w.extractLsb' 16 8) (w.extractLsb' 8 8)
      else if (w.extractLsb' 0 8) == 0x2#8 then .frsq (w.extractLsb' 16 8) (w.extractLsb' 8 8)
      else if (w.extractLsb' 0 8) == 0x3#8 then .fex2 (w.extractLsb' 16 8) (w.extractLsb' 8 8)
      else if (w.extractLsb' 0 8) == 0x4#8 then .flg2 (w.extractLsb' 16 8) (w.extractLsb' 8 8)
      else if (w.extractLsb' 0 8) == 0x5#8 then .fsin (w.extractLsb' 16 8) (w.extractLsb' 8 8)
      else if (w.extractLsb' 0 8) == 0x6#8 then .fcos (w.extractLsb' 16 8) (w.extractLsb' 8 8)
      else if (w.extractLsb' 0 8) == 0x7#8 then .fabs (w.extractLsb' 16 8) (w.extractLsb' 8 8)
      else if (w.extractLsb' 0 8) == 0x8#8 then .fneg (w.extractLsb' 16 8) (w.extractLsb' 8 8)
      else if (w.extractLsb' 0 8) == 0x9#8 then .frnd (w.extractLsb' 16 8) (w.extractLsb' 8 8)
      else if (w.extractLsb' 0 8) == 0xA#8 then .fcls (w.extractLsb' 16 8) (w.extractLsb' 8 8) else .unassignedCodeWord w
  | 0x49 => .cvt (w.extractLsb' 16 8) (w.extractLsb' 8 8) (w.extractLsb' 0 8)
  | 0x4A => .dot4 (w.extractLsb' 16 8) (w.extractLsb' 8 8) (w.extractLsb' 0 8)
  | 0x4B => .fscl (w.extractLsb' 16 8) (w.extractLsb' 8 8) (w.extractLsb' 0 8)
  | 0x4C => .qnt8 (w.extractLsb' 16 8) (w.extractLsb' 8 8) (w.extractLsb' 0 8)
  | 0x4D => .dqn8 (w.extractLsb' 16 8) (w.extractLsb' 8 8) (w.extractLsb' 0 8)
  | 0x4E => .hadm (w.extractLsb' 16 8) (w.extractLsb' 8 8) (w.extractLsb' 0 8)
  | 0x50 => .shfl (w.extractLsb' 16 8) (w.extractLsb' 8 8) (w.extractLsb' 0 8)
  | 0x51 => .shfx (w.extractLsb' 16 8) (w.extractLsb' 8 8) (w.extractLsb' 0 8)
  | 0x52 => .qxch (w.extractLsb' 16 8) (w.extractLsb' 8 8) (w.extractLsb' 0 8)
  | 0x53 => .bcst (w.extractLsb' 16 8) (w.extractLsb' 8 8) (w.extractLsb' 0 8)
  | 0x54 => .ballot (w.extractLsb' 16 8) (w.extractLsb' 8 3)
  | 0x55 => .vote (w.extractLsb' 19 5) (w.extractLsb' 16 3) (w.extractLsb' 8 3)
  | 0x56 => .gred (w.extractLsb' 16 8) (w.extractLsb' 8 8) (w.extractLsb' 0 3)
  | 0x57 => .gscan (w.extractLsb' 16 8) (w.extractLsb' 8 8) (w.extractLsb' 3 1) (w.extractLsb' 0 3)
  | 0x58 => .ktop (w.extractLsb' 16 8) (w.extractLsb' 8 8) (w.extractLsb' 0 8)
  | 0x59 => .matchLanes (w.extractLsb' 16 8) (w.extractLsb' 8 8)
  | 0x60 => .ld1 (w.extractLsb' 16 8) (w.extractLsb' 8 8) (w.extractLsb' 5 3) (w.extractLsb' 0 5)
  | 0x61 => .ld2 (w.extractLsb' 16 8) (w.extractLsb' 8 8) (w.extractLsb' 5 3) (w.extractLsb' 0 5)
  | 0x62 => .ld4 (w.extractLsb' 16 8) (w.extractLsb' 8 8) (w.extractLsb' 5 3) (w.extractLsb' 0 5)
  | 0x63 => .ld8 (w.extractLsb' 16 8) (w.extractLsb' 8 8) (w.extractLsb' 5 3) (w.extractLsb' 0 5)
  | 0x64 => .ld16 (w.extractLsb' 16 8) (w.extractLsb' 8 8) (w.extractLsb' 5 3) (w.extractLsb' 0 5)
  | 0x65 => .ld64 (w.extractLsb' 16 8) (w.extractLsb' 8 8) (w.extractLsb' 5 3) (w.extractLsb' 0 5)
  | 0x66 => .ldaq (w.extractLsb' 16 8) (w.extractLsb' 8 8) (w.extractLsb' 5 3) (w.extractLsb' 0 5)
  | 0x67 => .ldwt (w.extractLsb' 16 8) (w.extractLsb' 8 8) (w.extractLsb' 5 3) (w.extractLsb' 0 5)
  | 0x68 => .ldcn (w.extractLsb' 16 8) (w.extractLsb' 8 8) (w.extractLsb' 5 3) (w.extractLsb' 0 5)
  | 0x69 => .st1 (w.extractLsb' 16 8) (w.extractLsb' 8 8) (w.extractLsb' 5 3) (w.extractLsb' 0 5)
  | 0x6A => .st2 (w.extractLsb' 16 8) (w.extractLsb' 8 8) (w.extractLsb' 5 3) (w.extractLsb' 0 5)
  | 0x6B => .st4 (w.extractLsb' 16 8) (w.extractLsb' 8 8) (w.extractLsb' 5 3) (w.extractLsb' 0 5)
  | 0x6C => .st8 (w.extractLsb' 16 8) (w.extractLsb' 8 8) (w.extractLsb' 5 3) (w.extractLsb' 0 5)
  | 0x6D => .st16 (w.extractLsb' 16 8) (w.extractLsb' 8 8) (w.extractLsb' 5 3) (w.extractLsb' 0 5)
  | 0x6E => .st64 (w.extractLsb' 16 8) (w.extractLsb' 8 8) (w.extractLsb' 5 3) (w.extractLsb' 0 5)
  | 0x6F => .strl (w.extractLsb' 16 8) (w.extractLsb' 8 8) (w.extractLsb' 5 3) (w.extractLsb' 0 5)
  | 0x70 => .stfl (w.extractLsb' 16 8) (w.extractLsb' 8 8) (w.extractLsb' 5 3) (w.extractLsb' 0 5)
  | 0x71 => .stfu (w.extractLsb' 16 8) (w.extractLsb' 8 8) (w.extractLsb' 5 3) (w.extractLsb' 0 5)
  | 0x72 => if (w.extractLsb' 22 2) == 0x0#2 then .fefull (w.extractLsb' 8 8) (w.extractLsb' 5 3) (w.extractLsb' 0 5)
      else if (w.extractLsb' 22 2) == 0x1#2 then .feempty (w.extractLsb' 8 8) (w.extractLsb' 5 3) (w.extractLsb' 0 5)
      else if (w.extractLsb' 22 2) == 0x2#2 then .fetest (w.extractLsb' 16 3) (w.extractLsb' 8 8) (w.extractLsb' 5 3) (w.extractLsb' 0 5) else .unassignedCodeWord w
  | 0x73 => .fence (w.extractLsb' 3 2) (w.extractLsb' 0 3)
  | 0x74 => .aadd (w.extractLsb' 16 8) (w.extractLsb' 8 8) (w.extractLsb' 5 3) (w.extractLsb' 0 5)
  | 0x75 => .amin (w.extractLsb' 16 8) (w.extractLsb' 8 8) (w.extractLsb' 5 3) (w.extractLsb' 0 5)
  | 0x76 => .amax (w.extractLsb' 16 8) (w.extractLsb' 8 8) (w.extractLsb' 5 3) (w.extractLsb' 0 5)
  | 0x77 => .aand (w.extractLsb' 16 8) (w.extractLsb' 8 8) (w.extractLsb' 5 3) (w.extractLsb' 0 5)
  | 0x78 => .aor (w.extractLsb' 16 8) (w.extractLsb' 8 8) (w.extractLsb' 5 3) (w.extractLsb' 0 5)
  | 0x79 => .axor (w.extractLsb' 16 8) (w.extractLsb' 8 8) (w.extractLsb' 5 3) (w.extractLsb' 0 5)
  | 0x7A => .aswp (w.extractLsb' 16 8) (w.extractLsb' 8 8) (w.extractLsb' 5 3) (w.extractLsb' 0 5)
  | 0x7B => .acas (w.extractLsb' 16 8) (w.extractLsb' 8 8) (w.extractLsb' 5 3) (w.extractLsb' 0 5)
  | 0x7C => .ainc (w.extractLsb' 16 8) (w.extractLsb' 8 8) (w.extractLsb' 5 3) (w.extractLsb' 0 5)
  | 0x7D => .adec (w.extractLsb' 16 8) (w.extractLsb' 8 8) (w.extractLsb' 5 3) (w.extractLsb' 0 5)
  | 0x80 => .xcp (w.extractLsb' 16 8) (w.extractLsb' 8 8) (w.extractLsb' 0 8)
  | 0x81 => .xfill (w.extractLsb' 16 8) (w.extractLsb' 8 8) (w.extractLsb' 0 8)
  | 0x82 => .xgath (w.extractLsb' 16 8) (w.extractLsb' 8 8) (w.extractLsb' 0 8)
  | 0x83 => .xpref (w.extractLsb' 8 8) (w.extractLsb' 0 8)
  | 0x84 => .popen (w.extractLsb' 8 8)
  | 0x85 => .prel (w.extractLsb' 16 8) (w.extractLsb' 8 8) (w.extractLsb' 5 3) (w.extractLsb' 0 5)
  | 0x86 => .pbar (w.extractLsb' 8 8)
  | 0x87 => .pdrain
  | 0x90 => .tmm (w.extractLsb' 16 8) (w.extractLsb' 8 8) (w.extractLsb' 0 8)
  | 0x91 => .tmmr (w.extractLsb' 16 8) (w.extractLsb' 8 8) (w.extractLsb' 0 8)
  | 0x92 => .tmmi (w.extractLsb' 16 8) (w.extractLsb' 8 8) (w.extractLsb' 0 8)
  | 0x93 => .tmmir (w.extractLsb' 16 8) (w.extractLsb' 8 8) (w.extractLsb' 0 8)
  | 0x94 => .tlda (w.extractLsb' 16 8) (w.extractLsb' 8 8)
  | 0x95 => .tsta (w.extractLsb' 16 8) (w.extractLsb' 8 8)
  | 0x96 => .tzra (w.extractLsb' 0 2)
  | 0x97 => .tcvt (w.extractLsb' 16 8) (w.extractLsb' 8 8) (w.extractLsb' 0 8)
  | 0x98 => .tfen (w.extractLsb' 16 8)
  | 0x99 => .twt (w.extractLsb' 8 8)
  | 0xA0 => .acfg (w.extractLsb' 16 8) (w.extractLsb' 8 8)
  | 0xA1 => .bid (w.extractLsb' 16 8) (w.extractLsb' 8 8) (w.extractLsb' 0 8)
  | 0xA2 => .aread (w.extractLsb' 16 8) (w.extractLsb' 8 8)
  | 0xA3 => .take (w.extractLsb' 16 8) (w.extractLsb' 8 8)
  | 0xB0 => .srd (w.extractLsb' 16 8) (w.extractLsb' 0 16)
  | 0xB1 => .swr (w.extractLsb' 16 8) (w.extractLsb' 0 16)
  | 0xB2 => .rett
  | 0xB3 => .park
  | _ => .illegalWord w

/-- The encoder, from the same tables: the word of an instruction; an event has none. -/
def encode : Instr → Option (BitVec 32)
  | .nop => some (0x1#8 ++ 0x0#24)
  | .br n p o => some (0x2#8 ++ n ++ p ++ o)
  | .call o => some (0x3#8 ++ 0x0#4 ++ o)
  | .jmpr a => some (0x4#8 ++ 0x0#8 ++ a ++ 0x0#8)
  | .callr a => some (0x5#8 ++ 0x0#8 ++ a ++ 0x0#8)
  | .exit => some (0x6#8 ++ 0x0#24)
  | .safe i => some (0x7#8 ++ 0x0#8 ++ i)
  | .idem i => some (0x8#8 ++ 0x0#8 ++ i)
  | .sigck i => some (0x9#8 ++ 0x0#8 ++ i)
  | .trap i => some (0xA#8 ++ 0x0#8 ++ i)
  | .brk c => some (0xB#8 ++ c)
  | .rbegin o => some (0xC#8 ++ 0x0#4 ++ o)
  | .rcommit => some (0xD#8 ++ 0x0#24)
  | .cyld o => some (0xE#8 ++ 0x0#4 ++ o)
  | .waitc l s c t => some (0xF#8 ++ l ++ s ++ c ++ t)
  | .gdiv d => some (0x10#8 ++ d ++ 0x0#16)
  | .gfuse d c => some (0x11#8 ++ d ++ 0x0#14 ++ c)
  | .kmask n p => some (0x12#8 ++ 0x0#20 ++ n ++ p)
  | .setm s v => some (0x13#8 ++ s ++ v)
  | .getm d => some (0x14#8 ++ d ++ 0x0#16)
  | .xset a i => some (0x15#8 ++ 0x0#8 ++ a ++ i)
  | .txl a t => some (0x16#8 ++ 0x0#8 ++ a ++ t ++ 0x0#5)
  | .txi t => some (0x17#8 ++ 0x0#16 ++ t ++ 0x0#5)
  | .bari a b => some (0x18#8 ++ 0x0#8 ++ a ++ b)
  | .bara d a => some (0x19#8 ++ d ++ a ++ 0x0#8)
  | .barw a b => some (0x1A#8 ++ 0x0#8 ++ a ++ b)
  | .sleep i => some (0x1B#8 ++ 0x0#8 ++ i)
  | .elect p => some (0x1C#8 ++ 0x0#5 ++ p ++ 0x0#16)
  | .spawn a b => some (0x1D#8 ++ 0x0#8 ++ a ++ b)
  | .fork a => some (0x1E#8 ++ 0x0#8 ++ a ++ 0x0#8)
  | .enq a b => some (0x1F#8 ++ 0x0#8 ++ a ++ b)
  | .add d a b => some (0x20#8 ++ d ++ a ++ b)
  | .sub d a b => some (0x21#8 ++ d ++ a ++ b)
  | .mul d a b => some (0x22#8 ++ d ++ a ++ b)
  | .mulh d a b => some (0x23#8 ++ d ++ a ++ b)
  | .mad d a b => some (0x24#8 ++ d ++ a ++ b)
  | .div d a b => some (0x25#8 ++ d ++ a ++ b)
  | .rem d a b => some (0x26#8 ++ d ++ a ++ b)
  | .min d a b => some (0x27#8 ++ d ++ a ++ b)
  | .max d a b => some (0x28#8 ++ d ++ a ++ b)
  | .absd d a b => some (0x29#8 ++ d ++ a ++ b)
  | .and d a b => some (0x2A#8 ++ d ++ a ++ b)
  | .or d a b => some (0x2B#8 ++ d ++ a ++ b)
  | .xor d a b => some (0x2C#8 ++ d ++ a ++ b)
  | .andn d a b => some (0x2D#8 ++ d ++ a ++ b)
  | .shl d a b => some (0x2E#8 ++ d ++ a ++ b)
  | .shr d a b => some (0x2F#8 ++ d ++ a ++ b)
  | .rol d a b => some (0x30#8 ++ d ++ a ++ b)
  | .bfx d a b => some (0x31#8 ++ d ++ a ++ b)
  | .bfi d a b => some (0x32#8 ++ d ++ a ++ b)
  | .sel d a b => some (0x33#8 ++ d ++ a ++ b)
  | .cmp c p a b => some (0x34#8 ++ c ++ p ++ a ++ b)
  | .plog f p q r => some (0x35#8 ++ f ++ p ++ 0x0#5 ++ q ++ 0x0#5 ++ r)
  | .li d i => some (0x36#8 ++ d ++ i)
  | .lih d i => some (0x37#8 ++ d ++ i)
  | .addi d a i => some (0x38#8 ++ d ++ a ++ i)
  | .shli d a i => some (0x39#8 ++ d ++ a ++ i)
  | .shri d a i => some (0x3A#8 ++ d ++ a ++ i)
  | .andi d a i => some (0x3B#8 ++ d ++ a ++ i)
  | .popc d a => some (0x3C#8 ++ d ++ a ++ 0x0#8)
  | .clz d a => some (0x3C#8 ++ d ++ a ++ 0x1#8)
  | .brev d a => some (0x3C#8 ++ d ++ a ++ 0x2#8)
  | .not d a => some (0x3C#8 ++ d ++ a ++ 0x3#8)
  | .neg d a => some (0x3C#8 ++ d ++ a ++ 0x4#8)
  | .abs d a => some (0x3C#8 ++ d ++ a ++ 0x5#8)
  | .mov d a => some (0x3C#8 ++ d ++ a ++ 0x6#8)
  | .movpToRegister d p => some (0x3D#8 ++ d ++ 0x0#5 ++ p ++ 0x0#8)
  | .movpToPredicate p a => some (0x3D#8 ++ 0x0#5 ++ p ++ a ++ 0x1#8)
  | .fadd d a b => some (0x40#8 ++ d ++ a ++ b)
  | .fsub d a b => some (0x41#8 ++ d ++ a ++ b)
  | .fmul d a b => some (0x42#8 ++ d ++ a ++ b)
  | .fma d a b => some (0x43#8 ++ d ++ a ++ b)
  | .fms d a b => some (0x44#8 ++ d ++ a ++ b)
  | .fmin d a b => some (0x45#8 ++ d ++ a ++ b)
  | .fmax d a b => some (0x46#8 ++ d ++ a ++ b)
  | .fdiv d a b => some (0x47#8 ++ d ++ a ++ b)
  | .fsqrt d a => some (0x48#8 ++ d ++ a ++ 0x0#8)
  | .frcp d a => some (0x48#8 ++ d ++ a ++ 0x1#8)
  | .frsq d a => some (0x48#8 ++ d ++ a ++ 0x2#8)
  | .fex2 d a => some (0x48#8 ++ d ++ a ++ 0x3#8)
  | .flg2 d a => some (0x48#8 ++ d ++ a ++ 0x4#8)
  | .fsin d a => some (0x48#8 ++ d ++ a ++ 0x5#8)
  | .fcos d a => some (0x48#8 ++ d ++ a ++ 0x6#8)
  | .fabs d a => some (0x48#8 ++ d ++ a ++ 0x7#8)
  | .fneg d a => some (0x48#8 ++ d ++ a ++ 0x8#8)
  | .frnd d a => some (0x48#8 ++ d ++ a ++ 0x9#8)
  | .fcls d a => some (0x48#8 ++ d ++ a ++ 0xA#8)
  | .cvt d a x => some (0x49#8 ++ d ++ a ++ x)
  | .dot4 d a b => some (0x4A#8 ++ d ++ a ++ b)
  | .fscl d a b => some (0x4B#8 ++ d ++ a ++ b)
  | .qnt8 d a b => some (0x4C#8 ++ d ++ a ++ b)
  | .dqn8 d a b => some (0x4D#8 ++ d ++ a ++ b)
  | .hadm d a b => some (0x4E#8 ++ d ++ a ++ b)
  | .shfl d a b => some (0x50#8 ++ d ++ a ++ b)
  | .shfx d a b => some (0x51#8 ++ d ++ a ++ b)
  | .qxch d a s => some (0x52#8 ++ d ++ a ++ s)
  | .bcst d a b => some (0x53#8 ++ d ++ a ++ b)
  | .ballot d p => some (0x54#8 ++ d ++ 0x0#5 ++ p ++ 0x0#8)
  | .vote k p q => some (0x55#8 ++ k ++ p ++ 0x0#5 ++ q ++ 0x0#8)
  | .gred d a x => some (0x56#8 ++ d ++ a ++ 0x0#5 ++ x)
  | .gscan d a e x => some (0x57#8 ++ d ++ a ++ 0x0#4 ++ e ++ x)
  | .ktop d a b => some (0x58#8 ++ d ++ a ++ b)
  | .matchLanes d a => some (0x59#8 ++ d ++ a ++ 0x0#8)
  | .ld1 d a t i => some (0x60#8 ++ d ++ a ++ t ++ i)
  | .ld2 d a t i => some (0x61#8 ++ d ++ a ++ t ++ i)
  | .ld4 d a t i => some (0x62#8 ++ d ++ a ++ t ++ i)
  | .ld8 d a t i => some (0x63#8 ++ d ++ a ++ t ++ i)
  | .ld16 d a t i => some (0x64#8 ++ d ++ a ++ t ++ i)
  | .ld64 d a t i => some (0x65#8 ++ d ++ a ++ t ++ i)
  | .ldaq d a t i => some (0x66#8 ++ d ++ a ++ t ++ i)
  | .ldwt d a t i => some (0x67#8 ++ d ++ a ++ t ++ i)
  | .ldcn d a t i => some (0x68#8 ++ d ++ a ++ t ++ i)
  | .st1 d a t i => some (0x69#8 ++ d ++ a ++ t ++ i)
  | .st2 d a t i => some (0x6A#8 ++ d ++ a ++ t ++ i)
  | .st4 d a t i => some (0x6B#8 ++ d ++ a ++ t ++ i)
  | .st8 d a t i => some (0x6C#8 ++ d ++ a ++ t ++ i)
  | .st16 d a t i => some (0x6D#8 ++ d ++ a ++ t ++ i)
  | .st64 d a t i => some (0x6E#8 ++ d ++ a ++ t ++ i)
  | .strl d a t i => some (0x6F#8 ++ d ++ a ++ t ++ i)
  | .stfl d a t i => some (0x70#8 ++ d ++ a ++ t ++ i)
  | .stfu d a t i => some (0x71#8 ++ d ++ a ++ t ++ i)
  | .fefull a t i => some (0x72#8 ++ 0x0#8 ++ a ++ t ++ i)
  | .feempty a t i => some (0x72#8 ++ 0x40#8 ++ a ++ t ++ i)
  | .fetest p a t i => some (0x72#8 ++ 0x10#5 ++ p ++ a ++ t ++ i)
  | .fence k s => some (0x73#8 ++ 0x0#19 ++ k ++ s)
  | .aadd d a t i => some (0x74#8 ++ d ++ a ++ t ++ i)
  | .amin d a t i => some (0x75#8 ++ d ++ a ++ t ++ i)
  | .amax d a t i => some (0x76#8 ++ d ++ a ++ t ++ i)
  | .aand d a t i => some (0x77#8 ++ d ++ a ++ t ++ i)
  | .aor d a t i => some (0x78#8 ++ d ++ a ++ t ++ i)
  | .axor d a t i => some (0x79#8 ++ d ++ a ++ t ++ i)
  | .aswp d a t i => some (0x7A#8 ++ d ++ a ++ t ++ i)
  | .acas d a t i => some (0x7B#8 ++ d ++ a ++ t ++ i)
  | .ainc d a t i => some (0x7C#8 ++ d ++ a ++ t ++ i)
  | .adec d a t i => some (0x7D#8 ++ d ++ a ++ t ++ i)
  | .xcp d a b => some (0x80#8 ++ d ++ a ++ b)
  | .xfill d a b => some (0x81#8 ++ d ++ a ++ b)
  | .xgath d a b => some (0x82#8 ++ d ++ a ++ b)
  | .xpref a b => some (0x83#8 ++ 0x0#8 ++ a ++ b)
  | .popen a => some (0x84#8 ++ 0x0#8 ++ a ++ 0x0#8)
  | .prel d a t i => some (0x85#8 ++ d ++ a ++ t ++ i)
  | .pbar a => some (0x86#8 ++ 0x0#8 ++ a ++ 0x0#8)
  | .pdrain => some (0x87#8 ++ 0x0#24)
  | .tmm d a b => some (0x90#8 ++ d ++ a ++ b)
  | .tmmr d a b => some (0x91#8 ++ d ++ a ++ b)
  | .tmmi d a b => some (0x92#8 ++ d ++ a ++ b)
  | .tmmir d a b => some (0x93#8 ++ d ++ a ++ b)
  | .tlda d a => some (0x94#8 ++ d ++ a ++ 0x0#8)
  | .tsta d a => some (0x95#8 ++ d ++ a ++ 0x0#8)
  | .tzra t => some (0x96#8 ++ 0x0#22 ++ t)
  | .tcvt d a b => some (0x97#8 ++ d ++ a ++ b)
  | .tfen d => some (0x98#8 ++ d ++ 0x0#16)
  | .twt a => some (0x99#8 ++ 0x0#8 ++ a ++ 0x0#8)
  | .acfg d a => some (0xA0#8 ++ d ++ a ++ 0x0#8)
  | .bid d a b => some (0xA1#8 ++ d ++ a ++ b)
  | .aread d a => some (0xA2#8 ++ d ++ a ++ 0x0#8)
  | .take d a => some (0xA3#8 ++ d ++ a ++ 0x0#8)
  | .srd d n => some (0xB0#8 ++ d ++ n)
  | .swr d n => some (0xB1#8 ++ d ++ n)
  | .rett => some (0xB2#8 ++ 0x0#24)
  | .park => some (0xB3#8 ++ 0x0#24)
  | .illegalWord w => some w
  | .unassignedCodeWord w => some w
  | _ => none

/-- The word of an instruction, as SR_TVAL reports it (R77); 0 for an event. -/
def wordOf (i : Instr) : BitVec 32 := (encode i).getD 0

/-- Whether a step is an instruction word; the others are events. -/
def isWord (i : Instr) : Bool := (encode i).isSome

/-- Bits [31:24] of an instruction's word (R74). -/
def opcodeOf (i : Instr) : Nat := ((wordOf i).extractLsb' 24 8).toNat

/-- The little-endian word of four bytes (R11). -/
def wordOfBytes (b0 b1 b2 b3 : BitVec 8) : BitVec 32 := b3 ++ b2 ++ b1 ++ b0

/-- Decodes the instruction at the head of a list of bytes, and returns the rest. -/
def decodeBytes : List (BitVec 8) → Option (Instr × List (BitVec 8))
  | b0 :: b1 :: b2 :: b3 :: rest => some (decode (wordOfBytes b0 b1 b2 b3), rest)
  | _ => none

/-- The four bytes of a word at increasing addresses (R11). -/
def bytesOfWord (w : BitVec 32) : List (BitVec 8) :=
  [w.extractLsb' 0 8, w.extractLsb' 8 8, w.extractLsb' 16 8, w.extractLsb' 24 8]

/-- The instruction of a row of the opcode table: every word of Fecor has 32 bits (R74). -/
def decodeTableWord (nbits w : Nat) : Option Instr :=
  if nbits = 32 then (decodeBytes (bytesOfWord (BitVec.ofNat 32 w))).map (·.1) else none

end Sys2Proof
end

