-- ==== Sys2Proof/Config.lean ====
section
/-! DEFINITION. What is fixed for the machine: the package's sizes, and the free values of the spec. A free value is an
opaque constant: no proof can see what it is, and a statement that meets it holds for every value. -/

namespace Sys2Proof.Config

/-- Partitions of a package (R3). -/
def partitions : Nat := 4

/-- Enabled cores of a die before any repair (R3, R413). -/
def coresPerDie : Nat := 92

/-- First-level TLB entries of a core (R3, R354). -/
def coreTlb : Nat := 1024

/-- Second-level TLB entries of a die (R3, R354). -/
def dieTlb : Nat := 65536

/-- Usable register words of an unrepaired core (R22). -/
def coreWords : Nat := 98304

/-- The scratchpad window's first byte (R151). -/
def window : Nat := 0x1FFFFFFFC0000

/-- The nominal period of the core clock target in units of 62.5 MHz: 2.0 GHz is 32 steps (R3, R421). -/
def nominalClockSteps : Nat := 32

/-- FREE VALUE (log entry 3): ns that pass on the time counter during the n-th step. -/
opaque elapsedNs : Nat → Nat

/-- FREE VALUE (log entry 3): cycles that pass during the n-th step on the clock of the core with a key. -/
opaque elapsedCycles : Nat → Nat → Nat

/-- FREE VALUE (log entry 4): which of several groups with a Ready candidate issues at the n-th step (R228, R229). -/
opaque pickGroup : Nat → Nat

/-- FREE VALUE (log entry 38): whether, in the n-th step, the strand at a PC waits in the collector for a source, where its group has other
Ready strands (R220, R222). -/
opaque sourceWaits : Nat → Nat → Bool

/-- FREE VALUE (log entry 36): which of the places that fit is taken at the n-th step: the core of a team, of a restored team or of
a spawned group (R333, R339, R366). -/
opaque pickPlace : Nat → Nat

/-- FREE VALUE (log entry 37): the draws of a relay selector at the n-th step (R293). -/
opaque brokerDraws : Nat → List Nat

/-- FREE VALUE (log entry 85): the one-way fibre delay of a port to a peer, in 0.1 ns (R379). -/
opaque fibreDelay : Nat → Nat → Nat

/-- FREE VALUE (log entry 100): the bytes of a data flit that the spec lays out nowhere: its flit header, and its records (R288). -/
opaque flitByte : FlitBody → Nat → BitVec 8

/-- FREE VALUE (log entry 33): the bytes of a tier record's header, whose layout the spec leaves open (R412): by context, epoch, address, round,
whether the unit is paged or poisoned, and place. -/
opaque tierByte : Nat → Nat → Nat → Nat → Bool → Nat → BitVec 8

/-- FREE VALUE (log entry 6): whether a TLB keeps the result of the n-th step's walk (R354). -/
opaque tlbKeeps : Nat → Bool

/-- FREE VALUE (log entry 6): which entry of a full TLB gives way to the one that the n-th step's walk brings (R354). -/
opaque tlbVictim : Nat → Nat

/-- FREE VALUE (log entry 98): which superblock of a full set of an L1 gives way to the one that the n-th step brings (R241). -/
opaque l1Victim : Nat → Nat

/-- FREE VALUE (log entry 99): the addresses of the bursts that a scrub in the n-th step corrects (R394, R395). -/
opaque corrected : Nat → List (BitVec 64)

/-- FREE VALUE (log entry 99): the errors that ECC corrects in the n-th step, each with its unit and its address (R394, R409). -/
opaque correctedIn : Nat → List (Nat × BitVec 64)

/-- FREE VALUE (log entry 99): the register values of a group that an uncorrectable error meets in the n-th step, a register and its lanes (R394). -/
opaque hardValues : Nat → Nat → List (Nat × BitVec 128)

/-- FREE VALUE (log entry 99): the words of a team's scratchpad on its leader or its follower that an uncorrectable error meets in the n-th step. -/
opaque hardWords : Nat → Nat → Bool → List Nat

/-- FREE VALUE (log entry 99): the tile words of a team that an uncorrectable error meets in the n-th step. -/
opaque hardTiles : Nat → Nat → List Nat

/-- FREE VALUE (log entry 99): the 64-byte units of device memory that an uncorrectable error meets in the n-th step. -/
opaque hardBursts : Nat → List Nat

/-- FREE VALUE (log entry 99): whether a clean line of a core's L1 meets an uncorrectable error in the n-th step. -/
opaque lineFails : Nat → Nat → Nat → Bool

/-- FREE VALUE (log entry 7): whether the upper of the two neighbours of R140 is returned by an approximation, a fixed
function of the operation and the operand. -/
opaque upperNeighbour : Nat → BitVec 32 → Bool

/-- FREE VALUE (log entry 9): the I3C provisional identifier, which the spec does not give (R432). -/
opaque i3cPid : BitVec 48

/-- FREE VALUE (log entry 9): the I3C bus characteristics register. -/
opaque i3cBcr : BitVec 8

/-- FREE VALUE (log entry 9): the I3C device characteristics register. -/
opaque i3cDcr : BitVec 8

/-- FREE VALUE (log entry 9): the I3C status word. -/
opaque i3cStatus : Nat → BitVec 16

/-- FREE VALUE (log entry 34): the bytes of a virtual function's BAR0, whose layout the spec does not give (R369): by context, offset
and step. -/
opaque vfByte : Nat → Nat → Nat → BitVec 8

/-- FREE VALUE (log entry 10): the answers' bytes that the spec leaves to SPDM 1.2 and to the keys, by request code. -/
opaque spdmBody : Nat → Nat → List (BitVec 8)

/-- FREE VALUE (log entry 10): signature bytes of a scheme (0 Ed25519, 1 ML-DSA-65) over a transcript. -/
opaque signature : Nat → Nat → List (BitVec 8)

/-- FREE VALUE (log entry 10): SHA-384 of the ROM, of the fuse configuration with the repair store. -/
opaque romHash : BitVec 384

/-- FREE VALUE (log entry 10): SHA-384 of the fuse configuration and the repair store. -/
opaque fuseHash : List Nat → BitVec 384

/-- FREE VALUE (log entry 11): the certificates of the identity keys of a scheme (0 Ed25519, 1 ML-DSA-65), held in flash (R430, R431). -/
opaque certificates : Nat → List (BitVec 8)

/-- FREE VALUE (log entry 11): the 256-bit fused device secret (R430). -/
opaque deviceSecret : BitVec 256

/-- FREE VALUE (log entry 11): the key of a scheme that HKDF with SHA-384 derives from the device secret and further input (R430). -/
opaque hkdf : Nat → BitVec 256 → List (BitVec 384) → BitVec 256

/-- FREE VALUE (log entry 11): the certificate that a key of a scheme gives another key of it (R430). -/
opaque certify : Nat → BitVec 256 → BitVec 256 → List (BitVec 8)

/-- The identity key of a scheme: from the secret alone (R430). -/
def identityKey (k : Nat) : BitVec 256 := hkdf k deviceSecret []

/-- The alias key of a scheme: from the secret and the digest of the accepted image (R430). -/
def aliasKey (k : Nat) (digest : BitVec 384) : BitVec 256 := hkdf k deviceSecret [digest]

/-- FREE VALUE (log entry 33): the units that the tier returns for an epoch of a context, as a restore that is taken from the management queue gets
them (R412). -/
opaque tierUnits : Nat → Nat → List (Nat × List (BitVec 8) × List (BitVec 8) × List Bool)

/-- FREE VALUE (log entry 24): the heartbeats that a core has missed when the steward finds it failed (R406, R409). -/
opaque coreMisses : Nat → Nat

/-- FREE VALUE (log entry 12): hourly or dynamic quantities the spec does not define by a formula: the new clock target
of a die in 62.5 MHz steps when the power runner acts, from the measured power, the limit and the die's junction. -/
opaque cappedClock : Nat → Nat → Nat → Nat

end Sys2Proof.Config
end

