-- ==== Sys2Proof/Machine/State.lean ====
section
/-! DEFINITION. The state of one package as plain data: the groups and their registers, teams, cores and gangs, memory,
contexts, queues, engines, the pod, the optical link, time, power and firmware; and the reasons a step can stop.
The docstrings name the rule of spec/ that gives each field. -/

namespace Sys2Proof.Machine

/-- The machine stops with a fault. Every instruction and event of the spec has an effect, so no meaning raises one. Safe. -/
inductive Fault where
  /-- Named for completeness of the interface: raised by nothing. Safe. -/
  | unused
  deriving DecidableEq, Repr

/-- No meaning for the instruction. Safe: a run stops where the hardware goes on. -/
inductive Refusal where
  /-- The instruction has no meaning yet. Raised by exec's dispatch only. Safe. -/
  | notModelled (mnemonic : String)
  deriving DecidableEq, Repr

/-- A sparse map: keys rising, no entry equal to the default; a key not listed has the default. -/
abbrev Sparse (α : Type) := List (Nat × α)

/-- The trap causes of R214. -/
inductive Cause where
  | illegalOpcode | reservedField | specialDest | regIndex | shape | modeField | regPair | align | page | protect
  | rangeLock | feBudget | feSpace | width | tileOperand | sigMismatch | poison | mirrorMismatch | regionNest
  | peerLost | remoteDenied | remotePoison | enqTimeout | hostAtomic | auctionConfig | placement | trapInstr
  | breakpoint | watchdog
  deriving DecidableEq, Repr

/-- How the last exec ended, for the signature rule R401: the instruction issued, trapped, or stalled at issue.
The model's own field. -/
inductive IssueMark where
  | ok | trapped | stalled
  deriving DecidableEq, Repr

/-- A vector register with its shape tag (R24). -/
inductive RegVal where
  | u (v : Word)
  | a (base stride : Word)
  | g (lanes : List Word)
  deriving DecidableEq, Repr

/-- Memory types of R352. -/
inductive MemType where
  | device | hostSnooped | hostStreaming
  deriving DecidableEq, Repr

/-- Permissions of a translation (R352). -/
structure Perm where
  rd : Bool
  wr : Bool
  at_ : Bool
  fe : Bool
  x  : Bool
  deriving DecidableEq, Repr

/-- A translation register (R38); dirty is the D bit at load (R358). -/
structure TReg where
  frame : DWord
  base  : DWord
  limit : Nat
  perm  : Perm
  mtype : MemType
  dirty : Bool
  stale : Bool
  deriving DecidableEq, Repr

/-- The start state of a translation register (R29). -/
def TReg.start : TReg :=
  { frame := 0, base := 0, limit := 0, perm := ⟨false, false, false, false, false⟩, mtype := .device, dirty := false, stale := false }

/-- Where an access is performed: device memory by physical address, the scratchpad of the team (leader or follower
core), host memory by host-link address, or another package (R161, R152). -/
inductive Loc where
  | dev (pa : Nat)
  | scr (follower : Bool) (off : Nat)
  | host (ha : Nat)
  | pod (pkg off : Nat)
  deriving DecidableEq, Repr

/-- The counter an operation raises (R157). -/
inductive Ctr where
  | l | s | none
  deriving DecidableEq, Repr

/-- What an outstanding memory operation does (R157, R162, R163). -/
inductive OpKind where
  | load
  | ldaq
  | store
  | strl
  | atomic (op : AtomOp)
  | fe (k : FeKind)
  | fence (kind : BitVec 2)
  | prel (count : Word)
  | bid
  deriving DecidableEq, Repr

/-- One lane of an outstanding operation: its address, place, data operands, whether it is held at a page fault (it has no place
then, R154), and whether it has been performed. -/
structure LaneAcc where
  lane  : Nat
  va    : DWord
  loc   : Loc
  data  : BitVec 512
  data2 : DWord
  held  : Bool
  done  : Bool
  ret   : BitVec 512
  deriving DecidableEq, Repr

/-- How an operation that cannot complete ends once none of its lanes is under way at another package (R154, R166, R169, R176, R407):
with a trap that names a lane, with the watchdog's trap, executed again for its open lanes, dropped, or backed out to the SAFE before
it. The model's own field. -/
inductive OpEnd where
  | trap (c : Cause) (lane : Nat) (va : DWord)
  | watchdog (us : DWord)
  | again
  | drop
  | backOut
  deriving DecidableEq, Repr

/-- An outstanding operation of a group, in issue order in Group.outs (R157, R257). Registers from d receive the result; uni says that
it is U (R25). spins and limit are its budget (R166), captured at issue as all group state is (R48); again says that lanes of the
instruction have completed before (R154, R169); ending is how it is being brought to its end. -/
structure MemOp where
  id    : Nat
  kind  : OpKind
  z     : Nat
  d     : Nat
  ret   : Bool
  pred  : Option Nat
  uni   : Bool
  ctr   : Ctr
  scope : Nat
  hint  : Nat
  ty    : Nat
  round : Nat
  spins : Nat
  limit : Nat
  again : Bool
  via   : Bool
  ending : Option OpEnd
  lanes : List LaneAcc
  deriving DecidableEq, Repr

/-- Why a strand does not issue (R157, R177, R225, R119). op names an operation that must complete, lanes one of which lanes are held
at a page fault (R154), fault an address that the instruction itself reads (its word, a header, a descriptor), all that the whole
group waits for it (R186); barw and pbar carry the
operation number that was next when they began; drain, rcommit and the members of an episode name barrow entries. cyld, waitc, sleep,
gfuse, fork and safe hold the whole group. -/
inductive Hold where
  | none
  | split
  | op (id : Nat)
  | lanes (id : Nat)
  | fault (all : Bool) (va : DWord)
  | barw (off : Nat) (bit : Bool) (since : Nat)
  | bara (off d : Nat)
  | drain (ids : List Nat)
  | rcommit (ids : List Nat)
  | pbar (ctx bar ep since : Nat)
  | twt (stream batch : Nat)
  | bin (hdr : DWord) (args : List Word)
  | enq (q : Nat) (index : Nat) (pkt : List Byte) (deadline : Option DWord)
  | auction
  | cyld (target : DWord)
  | waitc (l s c t : Nat)
  | sleep (till : DWord)
  | gfuse (d : Nat) (cls : Nat) (since : DWord)
  | forkGather (rcd : DWord)
  | forkTeam (rcd : DWord)
  | forkChild (gang : Nat)
  | safe (id : Nat)
  deriving DecidableEq, Repr

/-- What a group that was swapped out at a FORK or an ENQ owes to the instruction after its SAFE when it comes back (R191, R342):
the child gang still to complete, a FORK that has completed, or the index that an ENQ took; and what a PBAR waits for when a
watchdog trap has withdrawn its wait (R407). -/
inductive Resume where
  | none
  | child (gang : Nat)
  | forked
  | enq (q : Nat) (index : Nat) (pkt : List Byte) (deadline : Option DWord)
  | pbar (ctx bar ep : Nat)
  deriving DecidableEq, Repr

/-- A strand (R6, R222): PC, active lanes, MRG (R401), its hold, lanes of an instruction not yet finished (R223), the
lanes to re-execute (R154), whether it runs handler code (R212), the cycles at which it last issued and became live, and the index of its
shelf entry while it is shelved (R224). -/
structure Strand where
  pc     : DWord
  mask   : Mask
  mrg    : Bool
  hold   : Hold
  pend   : Mask
  replay : Option Mask
  hand   : Bool
  issued : Nat
  liveAt : Nat
  entry  : Nat
  deriving DecidableEq, Repr

/-- No strand: a strand with no lanes. -/
def Strand.none : Strand :=
  { pc := 0, mask := 0, mrg := false, hold := .none, pend := 0, replay := Option.none, hand := false, issued := 0, liveAt := 0,
    entry := 0 }

/-- An open idempotent region (R117, R398); operations numbered from `first` on were issued since the IDEM. -/
structure IdemRegion where
  first      : Nat
  pc         : DWord
  id         : Nat
  lanes      : Mask
  sig        : Word
  steady     : Bool
  mrg        : Bool
  count      : Nat
  last       : Option DWord
  restarting : Bool
  due        : Option DWord
  deriving DecidableEq, Repr

/-- An open remote region (R197): handler, lanes, the header part saved, the registers saved at their first write with their
poison, the first operation number issued inside it, and the cause of a failure whose rollback waits (R198). -/
structure RemoteRegion where
  handler : DWord
  lanes   : Mask
  gm      : Word
  xi      : BitVec 8
  cchn    : Word
  ccnt    : Word
  kmask   : Mask
  preds   : Sparse Mask
  saved   : Sparse RegVal
  spoison : Sparse Mask
  seen    : List Nat
  firstOp : Nat
  failing : Option (BitVec 8)
  deriving DecidableEq, Repr

/-- A safe-point table entry (R91). -/
structure SafePoint where
  id      : Nat
  bytes   : Nat
  site    : DWord
  save    : DWord
  restore : DWord
  deriving DecidableEq, Repr

/-- The fields of a kernel header (R89) with its safe-point table (R91), as the front end read them. -/
structure KHeader where
  n        : Nat
  ng       : Nat
  lgw      : Nat
  pair     : Bool
  cores    : Bool
  sigck    : Bool
  idem     : Bool
  team     : Nat
  scratch  : Nat
  carve    : Nat
  tiles    : Nat
  minwords : Nat
  entry    : DWord
  handler  : DWord
  table    : List SafePoint
  fallback : DWord
  budgets  : List Word
  shelf    : Nat
  rckpt    : Nat
  codesize : Nat
  deriving DecidableEq, Repr

/-- The header of no kernel: two general registers, width 32, no handler. -/
def KHeader.none : KHeader :=
  { n := 2, ng := 2, lgw := 5, pair := false, cores := false, sigck := false, idem := false, team := 32, scratch := 0,
    carve := 0xFF, tiles := 0, minwords := 0, entry := 0, handler := 0, table := [], fallback := 0,
    budgets := [0, 0, 0, 0], shelf := 16, rckpt := 0, codesize := 0 }

/-- What stalls a whole group at issue (R40, R179, R289, R359): a counter at its limit (0 L, 1 S, 2 C, 3 T), n range-lock entries that its
core lacks, n entries that the barrow of package p lacks, or the remapping of a range that its instruction touches. -/
inductive Stall where
  | ctr (k : Nat)
  | locks (n : Nat)
  | barrow (p n : Nat)
  | moving
  deriving DecidableEq, Repr

/-- A group (R5, R48): its place, its kernel header, the per-lane registers and predicates, the per-group registers, its
strands, and its outstanding operations. `strand` is the strand that issues; a mask of 0 there means none. rpoison holds
the poisoned values of each register (R395), noProg the progress timer in ns (R407), stall what stalls the group at issue, with
the PC of the instruction that waits; inherits names the barrow entries that the group from which it was divided had left. -/
structure Group where
  live     : Bool
  id       : Nat
  team     : Nat
  gang     : Nat
  ctx      : Nat
  part     : Nat
  core     : Nat
  follower : Bool
  quarter  : Nat
  slot     : Nat
  base     : Nat
  lgw      : Nat
  teamIdx  : Word
  hdr      : KHeader
  strand   : Strand
  rest     : List Strand
  shelf    : List Strand
  exited   : Mask
  regs     : Sparse RegVal
  rpoison  : Sparse Mask
  preds    : Sparse Mask
  gm       : Word
  xi       : BitVec 8
  tregs    : Sparse TReg
  cntL     : BitVec 6
  cntS     : BitVec 6
  cntC     : BitVec 6
  cntT     : BitVec 6
  sig      : Word
  steady   : Bool
  idemr    : Option IdemRegion
  region   : Option RemoteRegion
  rckp     : Word
  kmask    : Mask
  cchn     : Word
  ccnt     : Word
  tcause   : Word
  tval     : DWord
  tpc      : DWord
  inTrap   : Bool
  trapMask : Mask
  trapMrg  : Bool
  replay   : Option (DWord × Mask)
  pgrp     : Sparse DWord
  feb      : List Word
  outs     : List MemOp
  stall    : Option (Stall × DWord)
  efails   : List (Cause × DWord)
  stopped  : Bool
  preempt  : Bool
  saveArea : DWord
  restoreArea : DWord
  saving   : Option (Nat × DWord)
  parked   : Bool
  cont     : Option (DWord × Resume)
  restoring : Option DWord
  lastSwap : Nat
  waited   : Nat
  starved  : Option Nat
  aged     : Option DWord
  noProg   : Nat
  inherits : List Nat
  deriving DecidableEq, Repr

/-- A vacant group slot: every register as R29 gives a group at start, with no arguments and no strand. -/
def Group.vacant : Group :=
  { live := false, id := 0, team := 0, gang := 0, ctx := 0, part := 0, core := 0, follower := false, quarter := 0, slot := 0,
    base := 0, lgw := 5, teamIdx := 0, hdr := KHeader.none, strand := Strand.none, rest := [], shelf := [], exited := 0,
    regs := [], rpoison := [], preds := [], gm := 0, xi := 0, tregs := [], cntL := 0, cntS := 0, cntC := 0, cntT := 0, sig := 0,
    steady := true, idemr := none, region := none, rckp := 0, kmask := 0xFFFFFFFF, cchn := 0, ccnt := 0, tcause := 0, tval := 0,
    tpc := 0, inTrap := false, trapMask := 0, trapMrg := false, replay := none, pgrp := [], feb := [0, 0, 0, 0],
    outs := [], stall := none, efails := [], stopped := false, preempt := false, saveArea := 0, restoreArea := 0, saving := none, parked := false, cont := none, restoring := none, lastSwap := 0,
    waited := 0, starved := none, aged := none, noProg := 0, inherits := [] }

/-- One core's part of a team's scratchpad allocation (R218, R245, R246): bytes (0 where not listed), full/empty bits by
word (full where not listed), and poisoned words (R395). -/
structure Scratch where
  bytes  : List Host.Cell
  fe     : Sparse Bool
  poison : Sparse Bool
  deriving DecidableEq, Repr

/-- A cleared allocation (R245). -/
def Scratch.clear : Scratch := { bytes := [], fe := [], poison := [] }

/-- What a tile operation does (R200 to R204). -/
inductive TileKind where
  | mul
  | load
  | store
  | zero
  | convert (ty round : Nat) (sat : Bool) (src : Nat)
  deriving DecidableEq, Repr

/-- An operation of a tile stream: descriptor fields, the captured rows of A with their scales, B's place, the count word
of TMMI, its batch, and its progress; staged are the elements of a mover, with their poison, in the order in which it moves them: those
that have arrived for TLDA, those taken from the tile at the start for TSTA and TCVT. -/
structure TileOp where
  id      : Nat
  gid     : Nat
  kind    : TileKind
  tile    : Nat
  m       : Nat
  n       : Nat
  k       : Nat
  acc     : Bool
  chk     : Bool
  band    : Bool
  fmtA    : Nat
  fmtB    : Nat
  aRows   : List (List Word)
  bOff    : Nat
  bPitch  : Nat
  bScale  : Nat
  base    : DWord
  pitch   : Nat
  count   : Option DWord
  counted : Bool
  spin    : Nat
  park    : Nat
  scope   : Nat
  batch   : Nat
  started : Bool
  staged  : List (Word × Bool)
  eng     : Option Nat
  deriving DecidableEq, Repr

/-- A tile stream (R205): queued operations in issue order, and the open batch's number. -/
structure TileStream where
  ops   : List TileOp
  batch : BitVec 16
  deriving DecidableEq, Repr

/-- The progress of a team (R337, R191, R364). -/
inductive TeamStatus where
  | free | running | saved
  deriving DecidableEq, Repr

/-- The save record of one group (R363). -/
structure SaveRecord where
  base   : Nat
  lgw    : Nat
  exited : Mask
  safe   : Nat
  area   : DWord
  cont   : Resume
  deriving DecidableEq, Repr

/-- A team (R5): its place, the header in force, the header of its launch and the fallback read with it (R78), where its allocation lies in the scratchpad ways of its
leader and its follower (R243), the allocation's contents, its tiles, streams and save records; booked says that its place is reserved
for its restore while its leader alone is clocked (R336). -/
structure Team where
  status  : TeamStatus
  id      : Nat
  gang    : Nat
  ctx     : Nat
  index   : Word
  part    : Nat
  core    : Nat
  quarter : Nat
  spawned : Bool
  hdr     : KHeader
  main    : KHeader
  fallback : Option KHeader
  scrAt   : Nat
  scrAtF  : Nat
  args    : DWord
  scrL    : Scratch
  scrF    : Scratch
  tilesL  : Sparse Word
  tilesF  : Sparse Word
  tpoison : Sparse Bool
  streams : Sparse TileStream
  saves   : List SaveRecord
  saveAt  : Option DWord
  booked  : Bool
  deriving DecidableEq, Repr

/-- A stream with nothing queued, at batch 0 (R205). -/
def TileStream.start : TileStream := { ops := [], batch := 0 }

/-- No team. -/
def Team.vacant : Team :=
  { status := .free, id := 0, gang := 0, ctx := 0, index := 0, part := 0, core := 0, quarter := 0, spawned := false,
    hdr := KHeader.none, main := KHeader.none, fallback := none, scrAt := 0, scrAtF := 0, args := 0, scrL := Scratch.clear, scrF := Scratch.clear, tilesL := [], tilesF := [], tpoison := [],
    streams := [], saves := [], saveAt := none, booked := false }

/-- What an engine operation does (R182 to R187, R210, R204). -/
inductive EngKind where
  | copy
  | fill (pattern : DWord)
  | gather (index : DWord) (count rowbytes : Nat) (pitch : DWord) (wide : Bool)
  | prefetch
  | aread (bytes : List Byte)
  | tile (team stream op : Nat)
  deriving DecidableEq, Repr

/-- An engine operation (R178 to R187): who issued it, the half of a pair team and the core on which (R233), its ranges, flags, how many
bytes have landed, the bytes that have been read or have come back from another package and are still to land (R178, R179) with the bits of
their words, the bytes of source words that a parcel has read beside its own (R179), and its failure. -/
structure EngOp where
  id     : Nat
  gid    : Option Nat
  pkt    : Option (Nat × Nat)
  ctx    : Nat
  team   : Nat
  part   : Nat
  core   : Nat
  half   : Bool
  kind   : EngKind
  dst    : DWord
  src    : DWord
  size   : Nat
  fe     : Nat
  land   : Option DWord
  bind   : Option Nat
  relay  : Bool
  chan   : Option Nat
  landed : Nat
  ahead  : List (Byte × Bool)
  bits   : List Bool
  edges  : List (Nat × Byte × Bool)
  filled : Bool
  parked : Bool
  held   : Option Nat
  remote : Bool
  fail   : Option (Cause × DWord)
  deriving DecidableEq, Repr

/-- A range-lock entry of a core (R179, R254); dst tells a destination range from a source range. -/
structure RangeLock where
  eng  : Nat
  part : Nat
  core : Nat
  team : Nat
  ctx  : Nat
  lo   : Nat
  len  : Nat
  dst  : Bool
  deriving DecidableEq, Repr

/-- An auction (R207 to R210): its slot, storage, replica, heap best first, and takings. -/
structure Auction where
  part    : Nat
  core    : Nat
  slot    : Nat
  team    : Nat
  cap     : Nat
  off     : Nat
  replica : Option (Nat × Nat × Nat)
  expert  : Nat
  heap    : List (Word × Word)
  offers  : Word
  accepts : Word
  evicts  : Word
  sum     : Word
  deriving DecidableEq, Repr

/-- Who waits in a wait record: a lane of a group, a remote lane, the landing fill of an engine operation, or the count
word of a tile operation (R166, R170, R433, R203). -/
inductive Waiter where
  | lane (gid op lane : Nat)
  | remote (r : OpRecord)
  | engine (e : Nat)
  | tile (team stream : Nat)
  deriving DecidableEq, Repr

/-- How a waiter waits (R166): n spins made, parked, or in retry mode. -/
inductive WaitMode where
  | spin (n : Nat)
  | parked
  | retry
  deriving DecidableEq, Repr

/-- A waiting full/empty operation (R166, R249), with when it first parked and when it was last attempted (R247): the parked ones, in the order of this list, are the bench's records. -/
structure FeWait where
  id    : Nat
  ctx   : Nat
  team  : Nat
  who   : Waiter
  kind  : FeKind
  va    : DWord
  loc   : Loc
  data  : DWord
  spins : Nat
  limit : Nat
  mode  : WaitMode
  since : Option DWord
  tried : DWord
  entry : Option Nat
  deriving DecidableEq, Repr

/-- A valid line of an L1 superblock (R241): its place there, whether it is dirty or owned, whether it arrived under hint 2,
and the gangs that have written it since it was last clean (R344). Its data and its 16
full/empty bits are those of memory (R239, log entry 21). -/
structure L1Line where
  at_    : Nat
  dirty  : Bool
  owned  : Bool
  stream : Bool
  gangs  : List Nat
  deriving DecidableEq, Repr

/-- A valid superblock of a core's L1 (R241): its way, its set, its tag, and its valid lines. -/
structure L1Block where
  way   : Nat
  set_  : Nat
  tag   : Nat
  lines : List L1Line
  deriving DecidableEq, Repr

/-- A line of host memory that L2 keeps under hint 3 for a group until its next acquire at system scope (R160, R161). -/
structure HostLine where
  gid  : Nat
  line : Nat
  deriving DecidableEq, Repr

/-- The state of one core (R241, R243, R336, R406, R414, R45): in service, scheduled for retirement, its carve-out code, clocked or idle,
its usable register words, its cycle counter, and its L1. -/
structure Core where
  service  : Bool
  retire   : Bool
  carve    : Nat
  clocked  : Bool
  words    : Nat
  clk      : DWord
  l1       : List L1Block
  deriving DecidableEq, Repr

/-- A core at reset: in service, not clocked, no scratchpad carved out, all register words. -/
def Core.start : Core :=
  { service := true, retire := false, carve := 0, clocked := false, words := Config.coreWords, clk := 0, l1 := [] }

/-- The fields of a launch record (R93) with its handle list (R343). -/
structure LaunchRec where
  kernel  : DWord
  teams   : Nat
  parts   : BitVec 4
  expl    : Bool
  prio    : Nat
  cores   : Bool
  counts  : List Nat
  args    : DWord
  done    : DWord
  value   : DWord
  rscope  : Nat
  acq     : BitVec 3
  handles : List (Nat × Nat × Bool)
  deriving DecidableEq, Repr

/-- The progress of a gang (R334, R337, R404). -/
inductive GangStatus where
  | none | dep | reserving | waiting | committed | aborting | complete
  deriving DecidableEq, Repr

/-- A place that a dispatcher has reserved for a team (R333): its core's key, the quarter of its first lane block, and where its
allocation lies in the scratchpad ways of its leader and its follower (R243), and the windows that the dispatcher has assigned to the
activation of its idle cores (R336). -/
structure Place where
  key     : Nat
  quarter : Nat
  scrAt   : Nat
  scrAtF  : Nat
  wins    : List (Nat × Nat)
  deriving DecidableEq, Repr

/-- A gang (R5, R325, R333 to R341); refused names the partitions that refused it last (R334), owes the
remote operations of its completed children that are not yet acknowledged (R278). -/
structure Gang where
  status   : GangStatus
  seq      : Nat
  ctx      : Nat
  queue    : Option (Nat × Nat)
  irq      : Bool
  irqs     : Bool
  rcd      : LaunchRec
  hdr      : KHeader
  fallback : Option KHeader
  t0       : DWord
  refusals : Nat
  tried    : DWord
  freed    : Bool
  next     : List Nat
  holders  : List Nat
  refused  : List Nat
  owes     : List Nat
  places   : List Place
  spawnNo  : Sparse Word
  parent   : Option Nat
  depth    : Nat
  cause    : BitVec 8
  deriving DecidableEq, Repr

/-- A launch record of nothing. -/
def LaunchRec.none : LaunchRec :=
  { kernel := 0, teams := 0, parts := 0, expl := false, prio := 0, cores := false, counts := [0, 0, 0, 0], args := 0,
    done := 0, value := 0, rscope := 2, acq := 0, handles := [] }

/-- No gang. -/
def Gang.vacant : Gang :=
  { status := .none, seq := 0, ctx := 0, queue := Option.none, irq := false, irqs := false, rcd := LaunchRec.none,
    hdr := KHeader.none, fallback := Option.none, t0 := 0, refusals := 0, tried := 0, freed := false, next := [0, 0, 0, 0], holders := [], refused := [], owes := [], places := [], spawnNo := [],
    parent := Option.none, depth := 1, cause := 0 }

/-- A spawn bin (R339): its key, the header it read, the threads with their entry times, and the groups formed. -/
structure Bin where
  used    : Bool
  part    : Nat
  ctx     : Nat
  gang    : Nat
  key     : DWord
  lgw     : Nat
  timer   : Nat
  hdr     : KHeader
  fallback : Option KHeader
  entry   : DWord
  threads : List (Word × DWord)
  formed  : List (List Word)
  deriving DecidableEq, Repr

/-- A free bin. -/
def Bin.free : Bin :=
  { used := false, part := 0, ctx := 0, gang := 0, key := 0, lgw := 3, timer := 2000, hdr := KHeader.none, fallback := none, entry := 0, threads := [], formed := [] }

/-- A buffer handle (R343). -/
structure Handle where
  id      : Nat
  base    : DWord
  len     : Nat
  mtype   : Nat
  writers : List Nat
  readers : List Nat
  deriving DecidableEq, Repr

/-- An outstanding fault of a context (R356). -/
structure FaultRec where
  id   : Nat
  va   : DWord
  kind : Nat
  src  : Nat
  pkg  : Nat
  time : DWord
  deriving DecidableEq, Repr

/-- A TLB entry (R354): one page's translation, held by a core, or by the die where core is none. -/
structure TlbEntry where
  part  : Nat
  core  : Option Nat
  va    : Nat
  size  : Nat
  pa    : Nat
  perm  : Perm
  mtype : MemType
  dirty : Bool
  deriving DecidableEq, Repr

/-- A migration or page-out in progress (R359, R361): the unit, its frame, the new frame or the backing slot, the status word's address, the
copy rounds that have run, the lines that the last one copied, and the rewrite map: the lines written since it began. -/
structure Migration where
  va      : DWord
  old     : Nat
  frame   : Nat
  toHost  : Bool
  status  : Nat
  round   : Nat
  last    : Nat
  marked  : List Nat
  deriving DecidableEq, Repr

/-- The phase of a checkpoint (R410, R411); in the last the firmware barrier of the pod is awaited. -/
inductive CkptPhase where
  | armed | rounds | quiesce | meet
  deriving DecidableEq, Repr

/-- A checkpoint in progress, or with `units` a restore that waits for its start time (R410, R411). -/
structure Ckpt where
  phase  : CkptPhase
  full   : Bool
  epoch  : DWord
  start  : DWord
  status : Nat
  round  : Nat
  marked : DWord
  units  : Option (List (Nat × List Byte × List Byte × List Bool)) := none
  deriving DecidableEq, Repr

/-- An INVAL whose status waits (R355): its context, its range, its status word, and the operations under way when it began, each with its
group. -/
structure Inval where
  ctx    : Nat
  base   : Nat
  len    : Nat
  status : Nat
  ops    : List (Nat × Nat)
  deriving DecidableEq, Repr

/-- What the steward keeps for a paged-out unit (R362, R395): its leaf, and the poison of its 64-byte units. -/
structure PageRec where
  va     : DWord
  leaf   : DWord
  poison : List Bool
  deriving DecidableEq, Repr

/-- A context (R346 to R348). -/
structure Ctx where
  live     : Bool
  root     : Nat
  affinity : BitVec 4
  lgbench  : Nat
  local_   : Bool
  dirtyOn  : Bool
  share    : Nat
  expbase  : DWord
  explen   : Nat
  savebase : Nat
  savelen  : Nat
  areas    : List (Nat × Nat)
  hwin     : DWord
  bench    : Nat
  arrivals : Sparse Word
  handles  : List Handle
  faults   : List FaultRec
  faultNo  : Nat
  faultIdx : Nat
  ring     : List FaultRec
  waiting  : List (Bool × FaultRec)
  tlb      : List TlbEntry
  tables   : Nat
  pages    : List PageRec
  mig      : Option Migration
  ckpt     : Option Ckpt
  deriving DecidableEq, Repr

/-- No context. -/
def Ctx.vacant : Ctx :=
  { live := false, root := 0, affinity := 0, lgbench := 20, local_ := false, dirtyOn := false, share := 1, expbase := 0,
    explen := 0, savebase := 0, savelen := 0, areas := [], hwin := 0, bench := 0, arrivals := [], handles := [], faults := [],
    faultNo := 1, faultIdx := 0, ring := [], waiting := [], tlb := [], tables := 0, pages := [], mig := none, ckpt := none }

/-- A consumed packet (R325, R326): whether it was consumed while ABT was set (R405), the page its words or records wait for, and
whether a fault reply denied it (R357). -/
structure Packet where
  index   : Nat
  seq     : Nat
  inAbt   : Bool
  words   : List DWord
  since   : DWord
  gang    : Option Nat
  held    : Option DWord
  denied  : Bool
  deriving DecidableEq, Repr

/-- What the checkpoint tier holds of a context's work beside its units (R411, R412): the saved teams with their save records, the gangs
that run, and the save areas with their bytes. -/
structure Kept where
  ctx   : Nat
  epoch : DWord
  teams : List (Nat × Team)
  gangs : List (Nat × Gang)
  areas : List (Nat × Nat)
  bytes : List (List Byte)
  leaves : List (Nat × Nat)
  deriving DecidableEq, Repr

/-- A registered queue (R322 to R325, R405): cons, last, whether an abort holds it, the packet that has not started, the WAITVAL,
QBARRIER or TIMESTAMP that has started (R330), and in `open_` the started packets that have not completed; what the front end owes to absent pages: writes of the queue record (offset,
size, value), status flags, and slots whose first word is to become empty (R178, R322). -/
structure Queue where
  live    : Bool
  rcd     : DWord
  base    : DWord
  lgslots : Nat
  vector  : Nat
  cons    : DWord
  last    : DWord
  abt     : Bool
  skip    : List Nat
  stopped : Bool
  cur     : Option Packet
  busy    : Option Packet
  open_   : List Packet
  owed    : List (Nat × Nat × Nat)
  flags   : Nat
  slots   : List Nat
  deriving DecidableEq, Repr

/-- No queue. -/
def Queue.vacant : Queue :=
  { live := false, rcd := 0, base := 0, lgslots := 4, vector := 0, cons := 0, last := 0, abt := false,
    skip := [], stopped := false, cur := none, busy := none, open_ := [], owed := [], flags := 0, slots := [] }

/-- A host fill held at a full word (R324, R433). -/
structure HostFill where
  ctx   : Option Nat
  va    : DWord
  pa    : Nat
  val   : DWord
  since : DWord
  deriving DecidableEq, Repr

/-- An entry of a barrow (R289, R290): an operation record, sent once `sent` is 1; or a copy by engine number with its number of
parcels, the parcel under way on the direct path and its bytes sent, the parcels that need no more sending, the parcels assigned to
brokers with the bytes sent, those that have been refused, and whether its completion record has been sent. `since` is the number of the last slot to its package that had begun when it was queued (R316). `reply` says that the
operation ends with a reply, `answered` that the reply has come while a flit of the entry is still unacknowledged; `left` is the group
that has abandoned the operation (R276), `queued` that it stands in the order of its barrow, and `place` where in the ring (R287, R289). -/
structure Barrow where
  id      : Nat
  dst     : Nat
  gid     : Option Nat
  gang    : Option Nat
  op      : Nat
  rcd     : OpRecord
  copy    : Option Nat
  total   : Nat
  cur     : Option Nat
  sent    : Nat
  gone    : List Nat
  relayed : List (Nat × Nat × Nat)
  refused : List Nat
  since   : Nat
  reply   : Bool
  answered : Bool
  doneQ   : Bool
  left    : Option Nat := none
  queued  : Bool := false
  place   : BitVec 14 := 0
  deriving DecidableEq, Repr

/-- An arrived remote operation in service, or held at the fault of an address, with its source (R296, R356); or a parcel that waits
behind one of its group (R274). -/
structure Served where
  src    : Nat
  rcd    : OpRecord
  held   : Option Nat
  parcel : Option ParcelFlit := none
  deriving DecidableEq, Repr

/-- A parcel that this package holds as a broker (R294), its destination, and whether its last flit has come. -/
structure Brokered where
  src   : Nat
  entry : Nat
  num   : Nat
  dst   : Nat
  whole : Bool
  deriving DecidableEq, Repr

/-- The bytes of an 8-byte destination word of a copy of another package that have come in one of the flits that share the word, by place
in the word, with their poison; whether the copy's first or last byte is among them (R261), and the partition, core and slot of the issuer
where some of them came on the direct path (R274). -/
structure SplitWord where
  src   : Nat
  ctx   : Nat
  entry : Nat
  word  : Nat
  parts : List (Nat × Byte × Bool)
  first : Bool
  final : Bool
  direct : Option (Nat × Nat × Nat)
  deriving DecidableEq, Repr

/-- A PREL held at its target (R194). -/
structure HeldPrel where
  src   : Nat
  rcd   : OpRecord
  count : Word
  deriving DecidableEq, Repr

/-- A pod-barrier episode this package has arrived at (R196, R298); one that has failed stays until its tokens have been sent. -/
structure Episode where
  ctx     : Nat
  bar     : Nat
  ep      : Nat
  members : List Nat
  hash    : Word
  cover   : List Nat
  sentTo  : List Nat
  got     : List Nat
  failed  : Bool := false
  deriving DecidableEq, Repr

/-- A laser source block (R386), with the hourly means the runner keeps (R387), and the time of its last change of
state. -/
structure Source where
  present : Bool
  st      : BitVec 2
  retire  : Bool
  power   : BitVec 16
  bias    : BitVec 16
  temp    : BitVec 16
  hours   : BitVec 32
  slope   : BitVec 16
  eol     : BitVec 32
  limit   : BitVec 16
  base    : BitVec 16
  means   : List (BitVec 16)
  ageing  : Bool
  since   : DWord
  deriving DecidableEq, Repr

/-- A source block at reset (R386). -/
def Source.start : Source :=
  { present := false, st := 0, retire := false, power := 0x8000, bias := 0, temp := 0, hours := 0, slope := 0,
    eol := 0xFFFFFFFF, limit := 0xFE0C, base := 0x8000, means := [], ageing := false, since := 0 }

/-- A loss of light that a receiver has detected and not yet aligned to (R383): when, the receive maps before it and after it, and the
`where` of its record (R390). -/
structure RxLoss where
  time   : DWord
  before : BitVec 16
  after  : BitVec 16
  place  : DWord
  deriving DecidableEq, Repr

/-- A port's counters (R389) and lane maps (R381), the header fixed for the coming slot (R285), the beats dealt since the slot or the
map began (R374), when the next flit of the running slot begins, in 1/75 ns from the start of its payload, how many data flits of it have begun
and whether its header is still to go (R285, R286), whether the next flit is the first under a new map (R382), in how many slots running its
count of uncorrectable codewords rose (R390), the position in the slot after the last flit judged and the losses of light not yet aligned to
(R383), the codewords of the slot that have been counted (R389), and on an anchor port what waits to go to the checkpoint tier (R391). -/
structure Port where
  txflit   : DWord
  txreplay : DWord
  rxgood   : DWord
  rxbad    : DWord
  rxdup    : DWord
  cwcorr   : DWord
  cwunc    : DWord
  symcorr  : DWord
  restripe : BitVec 16
  txmap    : BitVec 16
  rxmap    : BitVec 16
  lanesym  : Sparse Word
  header   : Option (Nat × HeaderFlit)
  beat     : Nat
  next     : Nat
  sent     : Nat
  head     : Bool
  rstr     : Bool
  unc      : Bool
  uncRun   : Nat
  rxpos    : Nat
  rxwords  : List (Nat × Nat)
  rxloss   : List RxLoss
  tier     : List (List Byte × List Bool)
  deriving DecidableEq, Repr

/-- A port at reset. -/
def Port.start : Port :=
  { txflit := 0, txreplay := 0, rxgood := 0, rxbad := 0, rxdup := 0, cwcorr := 0, cwunc := 0, symcorr := 0, restripe := 0,
    txmap := 0, rxmap := 0, lanesym := [], header := none, beat := 0, next := 0, sent := 0, head := false, rstr := false,
    unc := false, uncRun := 0, rxpos := 0, rxwords := [], rxloss := [], tier := [] }

/-- What the package keeps for one peer, or from 1,024 on for the tier's peer of an anchor port (R391): the sequence numbers, the next place in
the ring of its barrow (R289), the joined slots begun and the brokered flits sent in the last (R291), the flits not yet acknowledged and those to replay with the slot that carried them (R376), flits received ahead of a gap and a fault that
holds the first (R356), acknowledgements owed and those that wait for a record to be performed, what is owed to the peer (R287, R291),
tokens to send again, what the headers of the last slots carried and the slots in which the peer's headers were discarded (R378), its relay room with the slot whose header told it and the parcels given since (R293), how much of
each parcel has been applied (R295), and how many joined slots passed without or with its header (R408). -/
structure Peer where
  txseq    : Nat
  tail     : Nat
  slots    : Nat
  passed   : Nat
  unacked  : List (Nat × Nat × FlitBody)
  replay   : List (Nat × Nat × FlitBody)
  rxnext   : Nat
  rxheld   : List (Nat × FlitBody)
  fault    : Option (Nat × Nat)
  owedAcks : List Nat
  lateAcks : List (Nat × List Nat)
  replies  : List Reply
  parcels  : List ParcelFlit
  e2e      : List E2EAck
  redoT    : List Token
  overT    : List Token
  overE    : List E2EAck
  sentH    : List (Nat × List Token × List E2EAck)
  room     : Nat
  roomAt   : Nat
  given    : List Nat
  landed   : List (Nat × Nat × Nat)
  heard    : Bool
  missed   : List Nat
  quiet    : Nat
  seen     : Nat
  byFabric : Bool
  deriving DecidableEq, Repr

/-- A peer before any flit (R375). -/
def Peer.start : Peer :=
  { txseq := 0, tail := 0, slots := 0, passed := 0, unacked := [], replay := [], rxnext := 0, rxheld := [], fault := none, owedAcks := [],
    lateAcks := [], replies := [], parcels := [], e2e := [], redoT := [], overT := [], overE := [], sentH := [], room := 0, roomAt := 0,
    given := [], landed := [], heard := false, missed := [], quiet := 0, seen := 0, byFabric := false }

/-- A link event record (R390). -/
structure LinkEvent where
  time   : DWord
  kind   : Nat
  source : Nat
  port   : Nat
  before : BitVec 16
  after  : BitVec 16
  place  : DWord
  first  : Nat
  lost   : Nat
  rstr   : Nat
  ports  : BitVec 16
  power  : BitVec 16
  deriving DecidableEq, Repr

/-- A day book record (R409). -/
structure DayRecord where
  time : DWord
  kind : Nat
  ctx  : Nat
  part : Nat
  core : Nat
  slot : Nat
  code : Nat
  id   : Nat
  val  : DWord
  aux  : DWord
  deriving DecidableEq, Repr

/-- A field repair in the repair store (R414). -/
inductive Repair where
  | core (part core : Nat)
  | bank (part core : Nat)
  | row (units : List Nat)
  | lane (source : Nat)
  deriving DecidableEq, Repr

/-- What the package has sent to the outside: interrupts, answers to reads and requests, flits and headers sent, each with the wavelengths
of its beats, notices of refused accesses, pairs of the pod that are not formed, and tensor header records that are rejected (R62, R369 to R371, R286, R374, R379, R431, R432). -/
inductive Output where
  | interrupt (fn vector : Nat)
  | hostData (off : Nat) (bytes : List Byte)
  | unsupported (off : Nat)
  | aerDrop (off : Nat)
  | flit (port peer : Nat) (lanes : List Nat) (f : DataFlit)
  | filler (port peer count : Nat)
  | marker (port : Nat) (lanes : List Nat) (map : BitVec 16) (slot cycle : Nat)
  | header (port peer : Nat) (lanes : List Nat) (h : HeaderFlit)
  | notFormed (port peer : Nat)
  | storeFull
  | badTensorHeader (ctx : Nat) (rcd : DWord)
  | hostAtomic (off : Nat) (op : AtomOp) (z : Nat) (val cmp : DWord)
  | spdm (request : Nat) (body : List Byte)
  | i3c (bytes : List Byte)
  deriving DecidableEq, Repr

/-- The time-discipline block (R417) but for HOLDNS, which counts from when HOLD began; the last marker's time, by how many ns the time counter is
ahead of the reference outside the rota, the error that is being slewed away in the rota and the ns of the slew under way (R416), how many markers were ignored or accepted in a row (R415, R416), when JOIN was written (R420), and the slot in which leaving the rota was decided (R417, R419). -/
structure TimeBase where
  join     : Bool
  inrota   : Bool
  losses   : BitVec 8
  st       : BitVec 2
  refdly   : BitVec 24
  terr     : BitVec 16
  origin   : DWord
  marker   : Option DWord
  ahead    : Nat
  err      : Int
  slew     : Nat
  ignored  : Nat
  accepted : Nat
  joinAt   : DWord
  holdAt   : DWord
  leaving  : Option Nat
  deriving DecidableEq, Repr

/-- The power block (R423). -/
structure Power where
  plim   : BitVec 16
  pnow   : BitVec 16
  tmax   : BitVec 8
  capped : BitVec 4
  limits : List Nat
  off    : Bool
  deriving DecidableEq, Repr

/-- The clock of a core pair (R421): whether its periods are stretched, its target in 62.5 MHz steps, the cycle counter of its lower core when the dip
began, whether the dip has lowered the target, and when the last dip ended or the target last rose. -/
structure Clock where
  stretch : Bool
  steps   : Nat
  since   : DWord
  lowered : Bool
  quiet   : DWord
  deriving DecidableEq, Repr

/-- The firmware complex (R425 to R432): whether the steward runs, the image in force, the rollback counter, the runners'
missed heartbeats and restarts, the fused hashes of the image's keys (R428), the alias keys of the two schemes as the ROM derived them at boot (R430),
whether runner 5 has started (R432), the bytes of the private SRAM (R425), and the 8-byte words that the host has written through the window of the
recovery image (R428). -/
structure Firmware where
  running  : Bool
  image    : Option FwImage
  counter  : Nat
  runners  : Sparse Nat
  service  : DWord
  edFuse   : BitVec 384
  mlFuse   : BitVec 384
  alias0   : BitVec 256
  alias1   : BitVec 256
  sideband : Bool
  sram     : Sparse Byte
  window   : Sparse DWord
  deriving DecidableEq, Repr

/-- The state of the package. `cur` is the group at the issue port, `others` the other resident groups. -/
structure State where
  agenda   : List Instr
  steps    : Nat
  last     : IssueMark
  time     : DWord
  cur      : Group
  others   : List Group
  nextId   : Nat
  mem      : List Host.Cell
  fe       : Sparse Bool
  poison   : Sparse Bool
  hostMem  : List Host.Cell
  teams    : Sparse Team
  gangs    : Sparse Gang
  rounds   : Sparse Nat
  gangNo   : Nat
  cores    : Sparse Core
  rampUp   : BitVec 8
  rampDn   : BitVec 8
  ups      : List (Nat × Nat)
  downs    : List (Nat × Nat)
  engines  : List EngOp
  locks    : List RangeLock
  auctions : List Auction
  waits    : List FeWait
  bins     : Sparse Bin
  ctxs     : Sparse Ctx
  queues   : Sparse Queue
  fills    : List HostFill
  hostHeld : List (Nat × Nat × Instr)
  invals   : List Inval
  tier     : List Kept
  code     : BitVec 8
  lgpod    : Nat
  pkg      : Nat
  relayq   : BitVec 16
  fwin     : Sparse DWord
  barrow   : List Barrow
  slotAt   : Nat
  relay    : List ParcelFlit
  brokered : List Brokered
  split    : List SplitWord
  fibre    : List Nat
  l2host   : List HostLine
  served   : List Served
  prels    : List HeldPrel
  arrivals : Sparse Nat
  episodes : List Episode
  tokens   : List (Nat × Token)
  health   : Sparse (BitVec 2)
  recovAt  : Sparse DWord
  recovb   : Word
  sources  : Sparse Source
  ports    : Sparse Port
  peers    : Sparse Peer
  events   : List LinkEvent
  eventIdx : Nat
  lateEvents : List LinkEvent
  quiper   : BitVec 24
  i3cAddr  : Option (BitVec 7)
  daybook  : List DayRecord
  dayIdx   : Nat
  eccAt    : List (Nat × DWord × DWord)
  scrubAt  : DWord
  mirror   : Sparse (List DWord)
  repairs  : List Repair
  tbase    : TimeBase
  power    : Power
  clocks   : Sparse Clock
  bars     : Sparse Nat
  fw       : Firmware
  apbase   : DWord
  mgmtHeld : List Instr
  mgmtRec  : DWord
  out      : List Output
  deriving DecidableEq, Repr

/-- The package right after reset. Fields the spec gives no reset value are named in log entry 1; no program is loaded. -/
def State.reset : State :=
  { agenda := [], steps := 0, last := .ok, time := 0, cur := Group.vacant, others := [], nextId := 1, mem := [], fe := [],
    poison := [], hostMem := [], teams := [], gangs := [], rounds := [], gangNo := 1, cores := [], rampUp := 0x08, rampDn := 0x08,
    ups := [], downs := [], engines := [], locks := [], auctions := [], waits := [], bins := [], ctxs := [], queues := [],
    fills := [], hostHeld := [], invals := [], tier := [], code := 1, lgpod := 0, pkg := 0, relayq := 0x0580, fwin := [], barrow := [], slotAt := 0, relay := [], brokered := [], split := [], fibre := [], l2host := [],
    served := [], prels := [], arrivals := [], episodes := [], tokens := [], health := [], recovAt := [], recovb := 0x14002710, sources := [], ports := [], peers := [],
    events := [], eventIdx := 0, lateEvents := [], quiper := 0, i3cAddr := none, daybook := [], dayIdx := 0, eccAt := [], scrubAt := 0, mirror := [], repairs := [],
    tbase := { join := false, inrota := false, losses := 0, st := 0, refdly := 0, terr := 0, origin := 0,
               marker := none, ahead := 0, err := 0, slew := 0, ignored := 0, accepted := 0, joinAt := 0, holdAt := 0, leaving := none },
    power := { plim := 4200, pnow := 0, tmax := 0, capped := 0, limits := [32, 32, 32, 32], off := false },
    clocks := [], bars := [],
    fw := { running := false, image := none, counter := 0, runners := [], service := 0, edFuse := 0, mlFuse := 0, alias0 := 0, alias1 := 0, sideband := false,
            sram := [], window := [] },
    apbase := 0, mgmtHeld := [], mgmtRec := 0, out := [] }

end Sys2Proof.Machine
end

