-- ==== Sys2Proof/Machine/Bits.lean ====
section
/-! DEFINITION. Bit fields, lane masks, byte order and the sparse maps that the operations of the machine share. -/

namespace Sys2Proof.Machine

/-- What exec and step answer. -/
abbrev Result := Host.Outcome State Fault Refusal

/-- The value of a key of a sparse map; d where the key is not listed. -/
def Sparse.get {α : Type} (d : α) : List (Nat × α) → Nat → α
  | [], _ => d
  | (k', v) :: l, k => if k' = k then v else Sparse.get d l k

/-- Puts a key and its value at its place in a list of rising keys. -/
def Sparse.insert {α : Type} (k : Nat) (v : α) : List (Nat × α) → List (Nat × α)
  | [] => [(k, v)]
  | (k', v') :: l => if k < k' then (k, v) :: (k', v') :: l else (k', v') :: Sparse.insert k v l

/-- Removes a key. -/
def Sparse.erase {α : Type} (k : Nat) : List (Nat × α) → List (Nat × α)
  | [] => []
  | (k', v') :: l => if k' = k then Sparse.erase k l else (k', v') :: Sparse.erase k l

/-- Gives a key a value; a value equal to the default is not listed. -/
def Sparse.set {α : Type} [DecidableEq α] (d : α) (l : List (Nat × α)) (k : Nat) (v : α) : List (Nat × α) :=
  if v = d then Sparse.erase k l else Sparse.insert k v (Sparse.erase k l)

/-- Bits [lo+n-1:lo] of a natural number. -/
def bits (x lo n : Nat) : Nat := (x >>> lo) % 2 ^ n

/-- Bits [lo+n-1:lo] of a doubleword, as a number. -/
def fieldD (x : DWord) (lo n : Nat) : Nat := bits x.toNat lo n

/-- Bits [lo+n-1:lo] of a word, as a number. -/
def fieldW (x : Word) (lo n : Nat) : Nat := bits x.toNat lo n

/-- A number as a doubleword, modulo 2^64. -/
def dw (n : Nat) : DWord := BitVec.ofNat 64 n

/-- A number as a word, modulo 2^32. -/
def wd (n : Nat) : Word := BitVec.ofNat 32 n

/-- 1 for true, 0 for false. -/
def boolNat (b : Bool) : Nat := if b then 1 else 0

/-- A word zero-extended to 64 bits. -/
def zext (x : Word) : DWord := x.setWidth 64

/-- Rotation of a word to the left (R401). -/
def rotl32 (x : Word) (n : Nat) : Word := (x <<< n) ||| (x >>> (32 - n))

/-- The mask of lanes 0 to w-1. -/
def fullMask (w : Nat) : Mask := BitVec.ofNat 128 (2 ^ w - 1)

/-- The mask of the lanes of a list. -/
def maskOfLanes (l : List Nat) : Mask := l.foldl (fun m i => m ||| BitVec.ofNat 128 (2 ^ i)) 0

/-- The lanes of a mask, in increasing order. -/
def lanesOf (m : Mask) : List Nat := (List.range 128).filter (fun l => m.getLsbD l)

/-- The lanes below w for which f holds, as a mask. -/
def maskWhere (w : Nat) (f : Nat → Bool) : Mask := maskOfLanes ((List.range w).filter f)

/-- The number of lanes of a mask. -/
def laneCount (m : Mask) : Nat := (lanesOf m).length

/-- The lowest lane of a mask. -/
def lowestLane (m : Mask) : Option Nat := (lanesOf m).head?

/-- The first of a list that is present. -/
def firstSome {α : Type} : List (Option α) → Option α
  | [] => none
  | some a :: _ => some a
  | none :: l => firstSome l

/-- The n little-endian bytes of a number (R11). -/
def bytesLE : Nat → Nat → List Byte
  | 0, _ => []
  | n + 1, x => BitVec.ofNat 8 x :: bytesLE n (x / 256)

/-- The number of a little-endian list of bytes (R11). -/
def natLE : List Byte → Nat
  | [] => 0
  | b :: l => b.toNat + 256 * natLE l

/-- The signed reading of the low ew bits of a number. -/
def toSigned (ew x : Nat) : Int :=
  let y := x % 2 ^ ew
  if y < 2 ^ (ew - 1) then (y : Int) else (y : Int) - (2 ^ ew : Nat)

/-- An integer modulo 2^ew. -/
def wrapTo (ew : Nat) (x : Int) : Nat := (x % ((2 ^ ew : Nat) : Int)).toNat

/-- An integer clamped to lo and hi. -/
def clampInt (lo hi x : Int) : Int := if x < lo then lo else if hi < x then hi else x

/-- The number of 1 bits below n. -/
def popCount (n x : Nat) : Nat := ((List.range n).filter (fun i => x.testBit i)).length

/-- The position of the highest 1 bit below n, plus one; 0 where there is none. -/
def bitLength (n x : Nat) : Nat :=
  match n with
  | 0 => 0
  | k + 1 => if x.testBit k then k + 1 else bitLength k x

/-- The low n bits of a number in reverse order. -/
def reverseBits (n x : Nat) : Nat :=
  (List.range n).foldl (fun r i => if x.testBit i then r + 2 ^ (n - 1 - i) else r) 0

/-- Replaces the elements of a list that satisfy p. -/
def updateWhere {α : Type} (p : α → Bool) (f : α → α) (l : List α) : List α := l.map (fun x => if p x then f x else x)

/-- A list without repeats, the first of equal elements kept. -/
def dedupNat : List Nat → List Nat
  | [] => []
  | x :: l => x :: (dedupNat l).filter (fun y => y != x)

/-- The CRC-32 of the IEEE 802.3 polynomial over a list of bytes (R297). -/
def crc32 (l : List Byte) : Word :=
  ~~~ (l.foldl (fun (c : Word) b =>
    (List.range 8).foldl (fun (c : Word) _ => if c.getLsbD 0 then (c >>> 1) ^^^ 0xEDB88320#32 else c >>> 1)
      (c ^^^ b.setWidth 32)) 0xFFFFFFFF#32)

end Sys2Proof.Machine
end

