-- ==== Sys2Proof/Machine/Ops.lean ====
section
/-! DEFINITION. The named operations on the state: groups and their registers, strands, teams, memory bytes with their
full/empty bits and poison, the day book, and taking an exception (R47) with the return from one (R212). -/

namespace Sys2Proof.Machine

/-! ### Groups -/

/-- The width of a group (R97). -/
def width (g : Group) : Nat := 2 ^ g.lgw

/-- The lanes of a group that have not exited (R114). -/
def residentLanes (g : Group) : Mask := fullMask (width g) &&& ~~~g.exited

/-- One lane's value of a register (R24). -/
def RegVal.lane : RegVal → Nat → Word
  | .u v, _ => v
  | .a b s, l => b + wd l * s
  | .g ls, l => ls.getD l 0

/-- A register of a group (R24); 0, U where nothing has been written (R29). -/
def readReg (g : Group) (r : Nat) : RegVal := Sparse.get (.u 0) g.regs r

/-- A predicate of a group; p0 reads true in every lane (R32). -/
def readPred (g : Group) (p : Nat) : Mask := if p = 0 then fullMask (width g) else Sparse.get 0 g.preds p

/-- Writes a predicate in the lanes of a mask; a write to p0 is discarded (R32). -/
def writePred (p : Nat) (en v : Mask) (g : Group) : Group :=
  if p = 0 then g else { g with preds := Sparse.set 0 g.preds p ((Sparse.get 0 g.preds p &&& ~~~en) ||| (v &&& en)) }

/-- A translation register (R38). -/
def readTReg (g : Group) (t : Nat) : TReg := Sparse.get TReg.start g.tregs t

/-- A field of GM (R34). -/
def gmField (g : Group) (lo n : Nat) : Nat := fieldW g.gm lo n

/-- The GM type (R34). -/
def gmType (g : Group) : Nat := gmField g 4 4

/-- GM saturate (R34). -/
def gmSat (g : Group) : Bool := g.gm.getLsbD 11

/-- The GM rounding mode (R34). -/
def gmRound (g : Group) : Nat := gmField g 8 3

/-- The GM scope (R34). -/
def gmScope (g : Group) : Nat := gmField g 14 3

/-- The GM tile stream (R34). -/
def gmStream (g : Group) : Nat := gmField g 12 2

/-- The lanes in which the guard is true (R33). -/
def guardMask (g : Group) : Mask :=
  if g.gm.getLsbD 3 then fullMask (width g) &&& ~~~(readPred g (gmField g 0 3)) else readPred g (gmField g 0 3)

/-- The lanes of active(s). -/
def activeLanes (g : Group) : Mask := g.strand.mask

/-- The lanes of enabled(s) (R33, R97); an instruction that replays acts for its replay mask only (R154). -/
def enabled (g : Group) : Mask :=
  match g.strand.replay with
  | some m => g.strand.mask &&& m
  | none => g.strand.mask &&& guardMask g

/-- The lanes of members(s) (R97). -/
def members (g : Group) : Mask := enabled g &&& g.kmask

/-- The strands of a group that are live (R222). -/
def liveStrands (g : Group) : List Strand := (if g.strand.mask = 0 then [] else [g.strand]) ++ g.rest

/-- The number of strands, live or shelved. -/
def strandCount (g : Group) : Nat := (liveStrands g).length + g.shelf.length

/-- Whether the issuing strand is the group's only one and holds every lane that has not exited (R227). -/
def wholeStrand (g : Group) : Bool := strandCount g == 1 && g.strand.mask == residentLanes g

/-- Replaces the issuing strand. -/
def setStrand (st : Strand) (g : Group) : Group := { g with strand := st }

/-- Moves the issuing strand to an address; a replay ends with it (R154). -/
def gotoPc (pc : DWord) (g : Group) : Group := { g with strand := { g.strand with pc := pc, replay := none } }

/-- Moves the issuing strand to the next instruction. -/
def nextPc (g : Group) : Group := gotoPc (g.strand.pc + 4) g

/-- Shelf entries that one strand takes (R224). -/
def shelfUnit (g : Group) : Nat := if g.lgw = 7 then 2 else 1

/-- Whether the shelf has room for one more strand (R225). -/
def shelfRoom (g : Group) : Bool := (g.shelf.length + 1) * shelfUnit g ≤ g.hdr.shelf

/-- The lowest free index of the shelf's entries (R224); a strand of width 128 takes two. -/
def freeShelf (g : Group) : Nat :=
  (((List.range (g.shelf.length + 1)).map (fun i => i * shelfUnit g)).find? (fun i => !g.shelf.any (fun t => t.entry == i))).getD 0

/-- Shelves a strand, in the lowest free entry; the last of the list has been shelved last (R224, R226). -/
def shelve (t : Strand) (g : Group) : Group := { g with shelf := g.shelf ++ [{ t with entry := freeShelf g }] }

/-- A strand that becomes live from the shelf (R226); one held at a split executes the branch anew (R225). -/
def goLive (clk : Nat) (t : Strand) : Strand :=
  { t with liveAt := clk, entry := 0, hold := match t.hold with | .split => .none | h => h }

/-- A new strand (R401: its MRG is 0). -/
def newStrand (pc : DWord) (m : Mask) (hand : Bool) (clk : Nat) : Strand :=
  { Strand.none with pc := pc, mask := m, hand := hand, issued := clk, liveAt := clk }

/-- Replaces the first element of a list that satisfies p. -/
def updateFirst {α : Type} (p : α → Bool) (f : α → α) : List α → List α
  | [] => []
  | x :: l => if p x then f x :: l else x :: updateFirst p f l

/-- Whether new lanes of a split may join a shelved strand (R225, step 1): the same PC, no lanes that have not finished an instruction,
and both or neither of the handler's. -/
def joins (pc : DWord) (hand : Bool) (t : Strand) : Bool :=
  t.pc == pc && t.pend == 0 && t.replay.isNone && t.hand == hand

/-- Places one new strand of a split (R225, steps 1 to 3); none where it finds no place. Of several shelved strands that it may join it
joins the one shelved longest (DESIGN CHOICE, log entry 102). -/
def placeStrand (clk : Nat) (g : Group) (pc : DWord) (m : Mask) : Option Group :=
  if g.shelf.any (joins pc g.strand.hand) then
    some { g with shelf := updateFirst (joins pc g.strand.hand) (fun t => { t with mask := t.mask ||| m }) g.shelf }
  else if (liveStrands g).length < 4 then
    some { g with rest := g.rest ++ [newStrand pc m g.strand.hand clk] }
  else if shelfRoom g then some (shelve (newStrand pc m g.strand.hand clk) g)
  else none

/-- Places every new strand of a split, in the order given, or none of them (R225). -/
def placeStrands (clk : Nat) : Group → List (DWord × Mask) → Option Group
  | g, [] => some g
  | g, (pc, m) :: l => match placeStrand clk g pc m with
    | some g' => placeStrands clk g' l
    | none => none

/-- The exit swap (R226): a group whose issuing strand has ceased takes the oldest shelved strand into a live position. -/
def swapOnExit (clk : Nat) (g : Group) : Group :=
  match g.shelf with
  | t :: l => if g.strand.mask = 0 && !g.inTrap then
      { g with strand := goLive clk t, shelf := l, lastSwap := clk } else g
  | [] => g

/-- The block swap (R226): the issuing strand, which has become Blocked, is shelved in place of the oldest shelved one. -/
def swapOnBlock (clk : Nat) (g : Group) : Group :=
  match g.shelf with
  | t :: l => if g.inTrap then g else
      { shelve g.strand { g with shelf := l } with strand := goLive clk t, lastSwap := clk }
  | [] => g

/-- Holds the issuing strand, and swaps it out where the shelf has a strand (R222, R226). -/
def holdStrand (clk : Nat) (h : Hold) (g : Group) : Group :=
  swapOnBlock clk { g with strand := { g.strand with hold := h } }

/-- A split (R111, R113, R225): the issuing strand goes on at pc with the lanes of m, and the others become strands;
without places for all of them the strand is held at the branch, and swapped out where the shelf has a strand (R226). STEADY falls when
a second strand is gained (R401). -/
def splitStrand (clk : Nat) (pc : DWord) (m : Mask) (others : List (DWord × Mask)) (g : Group) : Group :=
  match placeStrands clk { g with strand := { g.strand with mask := m, pc := pc, replay := none } } others with
  | some g' => { g' with steady := if others.isEmpty then g'.steady else false }
  | none => holdStrand clk .split g

/-- Applies f to every strand of a group, live or shelved. -/
def mapStrands (f : Strand → Strand) (g : Group) : Group :=
  { g with strand := f g.strand, rest := g.rest.map f, shelf := g.shelf.map f }

/-- Every strand of a group, live or shelved. -/
def allStrands (g : Group) : List Strand := liveStrands g ++ g.shelf

/-- Whether a strand waits for a bin, which counts in S (R190). -/
def waitsForBin (t : Strand) : Bool := match t.hold with | .bin .. => true | _ => false

/-- The waits for bins of strands of a group end: S falls by one for each (R40, R190). -/
def endBins (l : List Strand) (g : Group) : Group := { g with cntS := g.cntS - BitVec.ofNat 6 (l.filter waitsForBin).length }

/-- Whether the hold of a strand stops its whole group (R119, R124, R127, R191). -/
def Hold.stopsGroup : Hold → Bool
  | .cyld _ | .waitc .. | .sleep _ | .gfuse .. | .forkTeam _ | .forkChild _ | .safe _ | .fault true _ => true
  | _ => false

/-- Whether the whole group waits. -/
def groupWaits (g : Group) : Bool := (allStrands g).any (fun t => t.hold.stopsGroup)

/-- Whether every counter is 0 (R40). -/
def countersZero (g : Group) : Bool := g.cntL == 0 && g.cntS == 0 && g.cntC == 0 && g.cntT == 0

/-- Whether a strand of a group holds a lane that waits in the bench or in an unfinished instruction (R125). -/
def parkedLanes (g : Group) : Bool := (allStrands g).any (fun t => t.pend != 0)

/-- Restarts the progress timer (R407). -/
def progress (g : Group) : Group := { g with noProg := 0 }

/-! ### Finding parts of the state -/

/-- Puts f's group at the issue port. -/
def modCur (f : Group → Group) (s : State) : State := { s with cur := f s.cur }

/-- Every resident group. -/
def groups (s : State) : List Group := (if s.cur.live then [s.cur] else []) ++ s.others

/-- The resident group with an id. -/
def findGroup (gid : Nat) (s : State) : Option Group := (groups s).find? (fun g => g.id == gid)

/-- Brings a group to the issue port; the group there takes its place. -/
def focus (gid : Nat) (s : State) : State :=
  if s.cur.live && s.cur.id == gid then s else
  match s.others.find? (fun g => g.id == gid) with
  | some g =>
    if s.cur.live then { s with cur := g, others := updateWhere (fun h => h.id == gid) (fun _ => s.cur) s.others }
    else { s with cur := g, others := s.others.filter (fun h => h.id != gid) }
  | none => s

/-- Applies f to every resident group for which p holds. -/
def mapGroups (p : Group → Bool) (f : Group → Group) (s : State) : State :=
  { s with cur := if s.cur.live && p s.cur then f s.cur else s.cur, others := updateWhere p f s.others }

/-- Applies f to one group. -/
def modGroup (gid : Nat) (f : Group → Group) (s : State) : State := mapGroups (fun g => g.id == gid) f s

/-- Removes the resident groups for which p holds. -/
def dropGroups (p : Group → Bool) (s : State) : State :=
  match (groups s).filter (fun g => !p g) with
  | [] => { s with cur := Group.vacant, others := [] }
  | g :: l => if s.cur.live && !p s.cur then { s with others := s.others.filter (fun h => !p h) } else { s with cur := g, others := l }

/-- A team by its id. -/
def getTeam (s : State) (t : Nat) : Team := Sparse.get Team.vacant s.teams t

/-- Replaces a team. -/
def setTeam (t : Nat) (v : Team) (s : State) : State := { s with teams := Sparse.set Team.vacant s.teams t v }

/-- A gang by its id. -/
def getGang (s : State) (g : Nat) : Gang := Sparse.get Gang.vacant s.gangs g

/-- Replaces a gang. -/
def setGang (g : Nat) (v : Gang) (s : State) : State := { s with gangs := Sparse.set Gang.vacant s.gangs g v }

/-- A context by its number. -/
def getCtx (s : State) (c : Nat) : Ctx := Sparse.get Ctx.vacant s.ctxs c

/-- Replaces a context. -/
def setCtx (c : Nat) (v : Ctx) (s : State) : State := { s with ctxs := Sparse.set Ctx.vacant s.ctxs c v }

/-- The key of a core among the cores of the package. -/
def coreKey (part core : Nat) : Nat := part * 128 + core

/-- A core (R243, R336, R406). -/
def getCore (s : State) (part core : Nat) : Core := Sparse.get Core.start s.cores (coreKey part core)

/-- The cycle counter of the core of a group (R45), as a number. -/
def clkAt (s : State) (g : Group) : Nat := (getCore s g.part g.core).clk.toNat

/-- The cycle counter of the core of the group at the issue port, as a number. -/
def clkOf (s : State) : Nat := clkAt s s.cur

/-- A group whose strand has just become live, at a cycle of its own core (R226, R228). -/
def startClock (clk : Nat) (g : Group) : Group :=
  { g with lastSwap := clk, strand := { g.strand with issued := clk, liveAt := clk } }

/-- Adds a resident group, whose strand becomes live at the present cycle of its own core. -/
def addGroup (g0 : Group) (s : State) : State :=
  let g := startClock (clkAt s g0) g0
  if s.cur.live then { s with others := s.others ++ [g] } else { s with cur := g }

/-- Replaces a core. -/
def setCore (part core : Nat) (v : Core) (s : State) : State :=
  { s with cores := Sparse.set Core.start s.cores (coreKey part core) v }

/-- The groups of a team. -/
def teamGroups (s : State) (t : Nat) : List Group := (groups s).filter (fun g => g.team == t)

/-- Makes an event due next. -/
def due (i : Instr) (s : State) : State := { s with agenda := i :: s.agenda }

/-- A fresh id. -/
def freshId (s : State) : Nat × State := (s.nextId, { s with nextId := s.nextId + 1 })

/-- Sends something to the outside. -/
def emit (o : Output) (s : State) : State := { s with out := s.out ++ [o] }

/-- Raises a vector of context c's virtual function (R371). -/
def interruptCtx (c vector : Nat) (s : State) : State := emit (.interrupt (c + 1) vector) s

/-- Raises a vector of the physical function (R371). -/
def interruptPf (vector : Nat) (s : State) : State := emit (.interrupt 0 vector) s

/-- Appends to the day book, a ring of 4,096 records (R409). -/
def dayRecord (r : DayRecord) (s : State) : State :=
  { s with daybook := (if s.daybook.length < 4096 then s.daybook else s.daybook.drop 1) ++ [r], dayIdx := s.dayIdx + 1 }

/-- A day book record about a group (R409). -/
def dayGroup (kind : Nat) (g : Group) (code id : Nat) (val aux : DWord) (s : State) : State :=
  dayRecord { time := s.time, kind := kind, ctx := g.ctx, part := g.part, core := g.core, slot := g.quarter * 32 + g.slot,
              code := code, id := id, val := val, aux := aux } s

/-- A day book record of no group (R409). -/
def dayPackage (kind code id : Nat) (val aux : DWord) (s : State) : State :=
  dayRecord { time := s.time, kind := kind, ctx := 0xFF, part := 0xFF, core := 0xFF, slot := 0xFF, code := code, id := id,
              val := val, aux := aux } s

/-! ### The pod and the rota -/

/-- The pod size; a package in no pod is a pod of one (R152, R350). -/
def podSize (s : State) : Nat := if s.lgpod = 0 then 1 else 2 ^ s.lgpod

/-- The package id; 0 in no pod (R350). -/
def pkgId (s : State) : Nat := if s.lgpod = 0 then 0 else s.pkg

/-- Slots in a cycle of the rota (R281). -/
def slotsPerCycle (s : State) : Nat := if podSize s / 32 = 0 then 1 else podSize s / 32

/-- SLOT (R283); 0 outside the rota. -/
def rotaSlot (s : State) : Nat :=
  if s.tbase.inrota then (s.time - s.tbase.origin).toNat / 512 % slotsPerCycle s else 0

/-- PHASE (R283). -/
def rotaPhase (s : State) : Nat := if s.tbase.inrota then (s.time - s.tbase.origin).toNat % 512 else 0

/-- CYCLE (R283). -/
def rotaCycle (s : State) : Nat :=
  if s.tbase.inrota then (s.time - s.tbase.origin).toNat / (512 * slotsPerCycle s) % 2 ^ 48 else 0

/-- Device memory in bytes, by ordering code (R2, R350). -/
def deviceBytes (s : State) : Nat := (if s.code = 2 then 393216 else 589824) * 2 ^ 20

/-- What the steward reserves for a context, from the top of device memory down (R348, log entry 26): its bench, and the tables that
splitting its pages needs. -/
def reserveBase (s : State) (c : Nat) : Nat := deviceBytes s - (c + 1) * 2 ^ 27

/-- The firmware's memory (R425, log entry 26): 256 MiB below what is reserved for contexts. -/
def firmwareBase (s : State) : Nat := reserveBase s 31 - 2 ^ 28

/-! ### Bytes, full/empty bits and poison -/

/-- The scratchpad allocation of a team on its leader or its follower (R218). -/
def Team.scratch (t : Team) (follower : Bool) : Scratch := if follower then t.scrF else t.scrL

/-- Replaces a scratchpad allocation of a team. -/
def Team.setScratch (t : Team) (follower : Bool) (v : Scratch) : Team :=
  if follower then { t with scrF := v } else { t with scrL := v }

/-- What a byte that nothing has written reads as (log entry 2; in scratchpad the spec's own 0, R245). -/
def unwritten : Byte := 0

/-- One byte of memory at a place; tm is the team whose scratchpad a scratchpad place lies in. -/
def readByte (s : State) (tm : Nat) : Loc → Nat → Byte
  | .dev pa, i => Sparse.get unwritten s.mem (pa + i)
  | .scr f off, i => Sparse.get unwritten ((getTeam s tm).scratch f).bytes (off + i)
  | .host ha, i => Sparse.get unwritten s.hostMem (ha + i)
  | .pod _ _, _ => unwritten

/-- The n bytes at a place, as a little-endian number (R11, R16). -/
def readBytes (s : State) (tm : Nat) (l : Loc) (n : Nat) : Nat :=
  natLE ((List.range n).map (fun i => readByte s tm l i))

/-- The canonical form of a memory: addresses strictly rising, and no entry equal to what an unlisted address reads as. -/
def Memory.wf : List Host.Cell → Bool
  | [] => true
  | c :: l => c.2 != unwritten && l.all (fun d => decide (c.1 < d.1)) && Memory.wf l

/-- Writes a list of bytes into a sparse list of cells from an address on. -/
def writeCells (m : List Host.Cell) (a : Nat) : List Byte → List Host.Cell
  | [] => m
  | b :: l => writeCells (Sparse.set unwritten m a b) (a + 1) l

/-- Writes a list of bytes at a place. -/
def writeList (tm : Nat) (l : Loc) (bs : List Byte) (s : State) : State :=
  match l with
  | .dev pa => { s with mem := writeCells s.mem pa bs }
  | .scr f off =>
    let t := getTeam s tm
    let c := t.scratch f
    setTeam tm (t.setScratch f { c with bytes := writeCells c.bytes off bs }) s
  | .host ha => { s with hostMem := writeCells s.hostMem ha bs }
  | .pod _ _ => s

/-- Stores the n low bytes of a number at a place. -/
def writeBytes (tm : Nat) (l : Loc) (n v : Nat) (s : State) : State := writeList tm l (bytesLE n v) s

/-- The full/empty bit of the aligned 8-byte word at a place (R246); host memory and other packages have none here. -/
def readFe (s : State) (tm : Nat) : Loc → Bool
  | .dev pa => Sparse.get true s.fe (pa / 8)
  | .scr f off => Sparse.get true ((getTeam s tm).scratch f).fe (off / 8)
  | .host _ => true
  | .pod _ _ => true

/-- Sets the full/empty bit of the word at a place. -/
def writeFe (tm : Nat) (l : Loc) (b : Bool) (s : State) : State :=
  match l with
  | .dev pa => { s with fe := Sparse.set true s.fe (pa / 8) b }
  | .scr f off =>
    let t := getTeam s tm
    let c := t.scratch f
    setTeam tm (t.setScratch f { c with fe := Sparse.set true c.fe (off / 8) b }) s
  | .host _ => s
  | .pod _ _ => s

/-- Whether any of the n bytes at a place is poisoned: by 64-byte units of device memory, by words of scratchpad (R395). -/
def isPoisoned (s : State) (tm : Nat) (l : Loc) (n : Nat) : Bool :=
  (List.range n).any (fun i => match l with
    | .dev pa => Sparse.get false s.poison ((pa + i) / 64)
    | .scr f off => Sparse.get false ((getTeam s tm).scratch f).poison ((off + i) / 8)
    | .host _ => false
    | .pod _ _ => false)

/-- Sets or clears the poison of the units that the n bytes at a place lie in. -/
def setPoison (tm : Nat) (l : Loc) (n : Nat) (b : Bool) (s : State) : State :=
  match l with
  | .dev pa => { s with poison := (List.range n).foldl (fun p i => Sparse.set false p ((pa + i) / 64) b) s.poison }
  | .scr f off =>
    let t := getTeam s tm
    let c := t.scratch f
    setTeam tm (t.setScratch f
      { c with poison := (List.range n).foldl (fun p i => Sparse.set false p ((off + i) / 8) b) c.poison }) s
  | .host _ => s
  | .pod _ _ => s

/-- The device writes bytes of a group's own areas: whole words, which are clean (R395). -/
def writeArea (tm : Nat) (loc : Loc) (bs : List Byte) (s : State) : State := setPoison tm loc (bs.length / 8 * 8) false (writeList tm loc bs s)

/-- What SR_TVAL names of the poison at a place (R396). -/
def poisonLocator : Loc → DWord
  | .dev pa => dw (pa / 64 * 64)
  | .scr _ off => dw (2 ^ 63 + 2 ^ 56 + off)
  | .host ha => dw ha
  | .pod p off => dw (2 ^ 56 + p * 2 ^ 46 + off)

/-! ### Taking an exception, and returning from one -/

/-- A trap: its cause, the lowest lane whose condition raised it, SR_TVAL, and whether SR_TPC is the next pc (R115). -/
structure Trap where
  cause : Cause
  lane  : Option Nat
  tval  : DWord
  after : Bool
  deriving DecidableEq, Repr

/-- A trap of no lane. -/
def trapOf (c : Cause) (v : DWord) : Trap := { cause := c, lane := none, tval := v, after := false }

/-- A trap that names a lane. -/
def laneTrap (c : Cause) (l : Nat) (v : DWord) : Trap := { cause := c, lane := some l, tval := v, after := false }

/-- The cause codes of R214. -/
def Cause.code : Cause → Nat
  | .illegalOpcode => 0x01 | .reservedField => 0x02 | .specialDest => 0x03 | .regIndex => 0x04 | .shape => 0x05
  | .modeField => 0x06 | .regPair => 0x07 | .align => 0x08 | .page => 0x09 | .protect => 0x0A | .rangeLock => 0x0B
  | .feBudget => 0x0C | .feSpace => 0x0D | .width => 0x0E | .tileOperand => 0x0F | .sigMismatch => 0x10 | .poison => 0x11
  | .mirrorMismatch => 0x12 | .regionNest => 0x13 | .peerLost => 0x14 | .remoteDenied => 0x15 | .remotePoison => 0x16
  | .enqTimeout => 0x17 | .hostAtomic => 0x18 | .auctionConfig => 0x19 | .placement => 0x1A | .trapInstr => 0x20
  | .breakpoint => 0x21 | .watchdog => 0x22

/-- The causes of class M (R214). -/
def Cause.classM : Cause → Bool
  | .sigMismatch | .poison | .mirrorMismatch | .placement => true
  | _ => false

/-- SR_TCAUSE of a trap (R47). -/
def tcauseOf (t : Trap) : Word :=
  wd (t.cause.code + boolNat t.cause.classM * 2 ^ 16 +
    (match t.lane with | some l => 2 ^ 15 + l * 2 ^ 8 | none => 0))

/-- Marks a gang as aborting and makes its abort due (R404). -/
def abortGang (gang cause : Nat) (s : State) : State :=
  due (.gangAbort gang) (setGang gang { getGang s gang with status := .aborting, cause := BitVec.ofNat 8 cause } s)

/-- A PC as SR_TPC holds it: bits [1:0] read 0 (R47). -/
def pcBits (pc : DWord) : DWord := pc &&& ~~~3#64

/-- The trap registers as a trap writes them (R47). -/
def writeTrapRegs (t : Trap) (g : Group) : Group :=
  { g with tcause := tcauseOf t, tval := t.tval, tpc := pcBits (if t.after then g.strand.pc + 4 else g.strand.pc) }

/-- The gang of the issuing group aborts for an error of the context (R47, R404): the day book names the cause. -/
def abortFor (code : Nat) (val : DWord) (s : State) : State :=
  abortGang s.cur.gang code (dayGroup 0x02 s.cur code 0 val s.cur.strand.pc { s with last := .trapped })

/-- The trap registers at a context error that no trap brings (R190, R191): SR_TVAL is its value; SR_TCAUSE the bare cause and SR_TPC the
strand's PC (DESIGN CHOICE, log entry 101). -/
def writeErrorRegs (code : Nat) (val : DWord) (g : Group) : Group :=
  { g with tcause := wd code, tval := val, tpc := pcBits g.strand.pc }

/-- A context error of the issuing group (R47, R190, R191). -/
def contextError (code : Nat) (val : DWord) (s : State) : State :=
  abortFor code val { s with cur := writeErrorRegs code val s.cur }

/-- A class M trap (R47, R404): the registers are written, the group stops and its gang aborts. -/
def machineCheck (t : Trap) (s : State) : State :=
  abortGang s.cur.gang t.cause.code (interruptPf 3 (dayGroup 0x01 s.cur t.cause.code 0 t.tval s.cur.strand.pc
    { s with cur := { writeTrapRegs t s.cur with stopped := true }, last := .trapped }))

/-- Entry to the handler (R47): the trap registers are written, H is set, an open idempotent region closes (R397), and the
trapping strand goes on at the handler PC with its lanes. An instruction that traps while it replays keeps its replay mask (R154). -/
def enterHandler (t : Trap) (g : Group) : Group :=
  let g := writeTrapRegs t g
  { g with inTrap := true, idemr := none, stall := none, trapMask := g.strand.mask, trapMrg := g.strand.mrg, noProg := 0,
           replay := match g.strand.replay with | some m => some (g.strand.pc, m) | none => g.replay,
           strand := { g.strand with pc := g.hdr.handler, hold := .none, pend := 0, replay := none, hand := true } }

/-- A class G trap (R47, R366). -/
def classGTrap (t : Trap) (s : State) : State :=
  if s.cur.inTrap || s.cur.hdr.handler == 0 || s.cur.restoring.isSome then abortFor t.cause.code t.tval { s with cur := writeTrapRegs t s.cur }
  else { s with cur := enterHandler t s.cur, last := .trapped }

/-- TAKING AN EXCEPTION: the one operation through which the issuing strand traps (R47, R214). -/
def takeTrap (t : Trap) (s : State) : State := if t.cause.classM then machineCheck t s else classGTrap t s

/-- The strands of a group that do not run handler code. -/
def notHandler (l : List Strand) : List Strand := l.filter (fun t => !t.hand)

/-- THE RETURN FROM AN EXCEPTION (R212): the handler's strands end, H clears, the trapping strand's lanes that have not
exited resume at SR_TPC, for the replay mask where SR_TPC is the address that holds one (R154), and the others may issue. -/
def returnFromTrap (clk : Nat) (g : Group) : Group :=
  let m := g.trapMask &&& ~~~g.exited
  let rep := match g.replay with | some (pc, r) => if pcBits pc = g.tpc && r &&& m != 0 then some (r &&& m) else none | none => none
  swapOnExit clk
    { g with
      inTrap := false, trapMask := 0, replay := none, rest := notHandler g.rest, shelf := notHandler g.shelf,
      strand := if m = 0 then Strand.none else
      { Strand.none with pc := g.tpc, mask := m, mrg := g.trapMrg, replay := rep, issued := clk, liveAt := clk } }

/-- Poison consumed by the issuing group (R394, R396, R399, R400): a restart where a region is open, its restart count is
below 3 and the poison is not where the last restart's was; the class M trap POISON otherwise. -/
def consumePoison (addr : DWord) (s : State) : State :=
  match s.cur.idemr with
  | some r =>
    if r.count < 3 && r.last != some addr then { due (.idempotentRestart s.cur.id addr) s with last := .trapped }
    else takeTrap (trapOf .poison addr) s
  | none => takeTrap (trapOf .poison addr) s

/-- Brings the strand that holds a lane to the issue position of its group; a shelved one trades places with the strand there (DESIGN
CHOICE, log entry 102). -/
def focusStrand (l : Nat) (g : Group) : Group :=
  if g.strand.mask.getLsbD l then g else
  match g.rest.find? (fun t => t.mask.getLsbD l) with
  | some t => { g with strand := t, rest := g.rest.filter (fun t => !t.mask.getLsbD l) ++ (if g.strand.mask = 0 then [] else [g.strand]) }
  | none => match g.shelf.find? (fun t => t.mask.getLsbD l) with
    | some t =>
      let h := { g with shelf := g.shelf.filter (fun t => !t.mask.getLsbD l) }
      { (if g.strand.mask = 0 then h else shelve g.strand h) with strand := { t with entry := 0 } }
    | none => g

/-- Makes a strand of a group whose mask is empty give way to another live strand. -/
def dropEmptyStrand (g : Group) : Group :=
  if g.strand.mask = 0 then match g.rest with | t :: l => { g with strand := t, rest := l } | [] => g else g

/-- Whether another copy round follows (R359): until one has copied fewer than 64 lines, or 8 have run. -/
def Migration.more (m : Migration) : Bool := decide (64 ≤ m.last) && decide (m.round < 8)

/-! ### What a whole group waits for at issue -/

/-- The capacity of a barrow (R289). -/
def barrowSize : Nat := 16384

/-- The entries of the barrow of a package (R289). A withdrawal shares the entry of the operation that it withdraws. -/
def barrowCount (s : State) (p : Nat) : Nat :=
  (s.barrow.filter (fun b => b.dst == p && (match b.rcd.kind with | .withdraw _ => false | _ => true))).length

/-- The range-lock entries of a group's core that are in use (R179). -/
def coreLocks (g : Group) (s : State) : Nat := (s.locks.filter (fun k => k.part == g.part && k.core == g.core)).length

/-- Whether what stalls a group at issue still stands (R40, R179, R289, R359). -/
def stallStands (s : State) (g : Group) : Bool :=
  match g.stall with
  | some (.ctr k, _) => (if k = 0 then g.cntL else if k = 1 then g.cntS else if k = 2 then g.cntC else g.cntT) == 63
  | some (.locks n, _) => decide (32 < coreLocks g s + n)
  | some (.barrow p n, _) => decide (barrowSize < barrowCount s p + n)
  | some (.moving, _) => (match (getCtx s g.ctx).mig with | some m => !m.more | none => false)
  | none => false

end Sys2Proof.Machine
end

