-- ==== Sys2Proof/Machine/Operands.lean ====
section
/-! DEFINITION. The operands of every instruction word (R75, R80, R101, R135): their registers, the checks of R77 steps 4
and 5, how they are read, and how results are written with their shapes (R25 to R27). -/

namespace Sys2Proof.Machine

/-- A register operand: its code, its field (0 d, 1 a, 2 b), its roles, how many registers it spans, whether the base must be
even, and whether it is a multi-register operand (R45, R75). -/
structure Opnd where
  code  : RegCode
  pos   : Nat
  src   : Bool
  dst   : Bool
  span  : Nat
  even  : Bool
  multi : Bool
  deriving DecidableEq, Repr

/-- A single source register. -/
def rdOp (pos : Nat) (c : RegCode) : Opnd := { code := c, pos := pos, src := true, dst := false, span := 1, even := false, multi := false }

/-- A single destination register. -/
def wrOp (c : RegCode) : Opnd := { code := c, pos := 0, src := false, dst := true, span := 1, even := false, multi := false }

/-- A destination in d that is also read. -/
def rwOp (c : RegCode) : Opnd := { code := c, pos := 0, src := true, dst := true, span := 1, even := false, multi := false }

/-- The operand as a pair where wide holds (R75). -/
def Opnd.pair (wide : Bool) (o : Opnd) : Opnd := if wide then { o with span := 2, even := true } else o

/-- The operand as a multi-register operand of n registers. -/
def Opnd.many (n : Nat) (even : Bool) (o : Opnd) : Opnd := { o with span := n, even := even, multi := true }

/-! ### GM types -/

/-- The integer types (R101). -/
def tyInt (ty : Nat) : Bool := ty < 4 || (8 ≤ ty && ty < 12)

/-- The 64-bit types (R75, R101). -/
def ty64 (ty : Nat) : Bool := ty == 2 || ty == 3 || ty == 5

/-- The signed integer types (R34). -/
def tySigned (ty : Nat) : Bool := ty == 0 || ty == 2 || ty == 8 || ty == 10

/-- The element width of a type (R49, R51). -/
def tyWidth (ty : Nat) : Nat :=
  match ty with
  | 0 | 1 | 4 => 32
  | 2 | 3 | 5 => 64
  | 6 | 7 | 8 | 9 => 16
  | 14 => 4
  | _ => 8

/-- Elements in one unit: a register, or a pair for the 64-bit types (R143). -/
def tyElems (ty : Nat) : Nat :=
  match ty with
  | 0 | 1 | 2 | 3 | 4 | 5 => 1
  | 6 | 7 | 8 | 9 => 2
  | 14 => 8
  | _ => 4

/-- Registers in one unit of a type. -/
def tyRegs (ty : Nat) : Nat := if ty64 ty then 2 else 1

/-- The types of vector floating-point arithmetic (R134). -/
def tyFloat (ty : Nat) : Bool := 4 ≤ ty && ty < 8

/-- The elements that CVT converts in a lane (R143). -/
def cvtCount (src dst : Nat) : Nat := max (tyElems src) (tyElems dst)

/-- The GM types that an instruction accepts (R101, R103 to R107, R133, R134, R172, R200, R204, R206). -/
def accepts (i : Instr) (ty : Nat) : Bool :=
  match i with
  | .add .. | .sub .. | .mul .. | .mulh .. | .mad .. | .div .. | .rem .. | .min .. | .max .. | .absd .. | .shl .. | .shr ..
  | .rol .. | .addi .. | .shli .. | .shri .. | .andi .. | .popc .. | .clz .. | .brev .. | .neg .. | .abs .. => tyInt ty
  | .bfx .. | .bfi .. => ty < 2
  | .cmp c _ _ _ => if 6 ≤ c.toNat then ty == 4 || ty == 5 else ty < 6
  | .gred .. | .gscan .. => tyInt ty || ty == 4 || ty == 5
  | .fadd .. | .fsub .. | .fmul .. | .fma .. | .fms .. | .fdiv .. | .fmin .. | .fmax .. | .fscl .. | .fsqrt .. | .frnd ..
  | .fabs .. | .fneg .. | .fcls .. => tyFloat ty
  | .frcp .. | .frsq .. | .fex2 .. | .flg2 .. | .fsin .. | .fcos .. | .ktop .. => ty == 4
  | .dot4 .. => ty == 6 || ty == 7 || (10 ≤ ty && ty < 15)
  | .aadd .. => ty < 8
  | .amin .. | .amax .. => ty < 6
  | .ainc .. | .adec .. => ty < 4
  | .tmm .. | .tmmr .. | .tmmi .. | .tmmir .. => ty == 6 || ty == 7 || (10 ≤ ty && ty < 15)
  | .tcvt .. => ty == 0 || ty == 4
  | _ => true

/-- The system registers of 64 bits (R96), whose d must be even (R77); a steward's register traps PROTECT whatever d is (R95; DESIGN CHOICE of the
order, log entry 105). -/
def srWide (n : BitVec 16) : Bool :=
  let n := n.toNat
  n == 1 || n == 2 || n == 6 || n == 7 || n == 0x40 || n == 0x42 || (0x50 ≤ n && n < 0x60) || (0x80 ≤ n && n < 0x84)

/-- Registers of a mask result at a width (R130, R131). -/
def maskRegs (g : Group) : Nat := (width g + 31) / 32

/-- Registers of the operand A of a matrix instruction (R200). -/
def tileSpan (ty : Nat) : Nat := if ty = 14 then 20 else 16

/-- The operand A of a matrix instruction: its poison is met in the lanes that are rows, not in the enabled ones (R200, R396). -/
def tileRows (a : RegCode) (ty : Nat) : Opnd := { (rdOp 1 a).many (tileSpan ty) false with src := false }

/-- An operand of n registers that hold values of a type: a register, a pair, or a multi-register operand (R143). -/
def Opnd.ofType (o : Opnd) (ty n : Nat) : Opnd := if n = 1 then o else if n = 2 && ty64 ty then o.pair true else o.many n (ty64 ty)

/-- The source operand of CVT (R143). -/
def cvtSrc (src dst : Nat) (a : RegCode) : Opnd := (rdOp 1 a).ofType src (cvtCount src dst / tyElems src * tyRegs src)

/-- The destination operand of CVT (R143). -/
def cvtDst (src dst : Nat) (d : RegCode) : Opnd := (wrOp d).ofType dst (cvtCount src dst / tyElems dst * tyRegs dst)

/-- The destination operand of a lane mask (R130, R131). -/
def maskDst (g : Group) (d : RegCode) : Opnd := if maskRegs g = 1 then wrOp d else (wrOp d).many (maskRegs g) false

/-- The register operands of an instruction word, in the order d, a, b, under the group's GM type (R80, R101, R135). -/
def operandsOf (i : Instr) (g : Group) : List Opnd :=
  let ty := gmType g
  let w := ty64 ty
  match i with
  | .add d a b | .sub d a b | .mul d a b | .mulh d a b | .div d a b | .rem d a b | .min d a b | .max d a b | .absd d a b
  | .and d a b | .or d a b | .xor d a b | .andn d a b | .shl d a b | .shr d a b | .rol d a b
  | .fadd d a b | .fsub d a b | .fmul d a b | .fdiv d a b | .fmin d a b | .fmax d a b =>
    [(wrOp d).pair w, (rdOp 1 a).pair w, (rdOp 2 b).pair w]
  | .mad d a b | .sel d a b | .fma d a b | .fms d a b => [(rwOp d).pair w, (rdOp 1 a).pair w, (rdOp 2 b).pair w]
  | .bfx d a b | .shfl d a b | .shfx d a b | .bcst d a b | .ktop d a b => [wrOp d, rdOp 1 a, rdOp 2 b]
  | .bfi d a b | .dot4 d a b | .bid d a b => [rwOp d, rdOp 1 a, rdOp 2 b]
  | .fscl d a b => [(wrOp d).pair w, (rdOp 1 a).pair w, rdOp 2 b]
  | .addi d a _ | .shli d a _ | .shri d a _ | .andi d a _ | .popc d a | .clz d a | .brev d a | .not d a | .neg d a | .abs d a
  | .mov d a | .fsqrt d a | .frcp d a | .frsq d a | .fex2 d a | .flg2 d a | .fsin d a | .fcos d a | .fabs d a | .fneg d a
  | .frnd d a | .fcls d a | .gred d a _ | .gscan d a _ _ => [(wrOp d).pair w, (rdOp 1 a).pair w]
  | .qxch d a _ => [wrOp d, rdOp 1 a]
  | .matchLanes d a => [maskDst g d, (rdOp 1 a).pair w]
  | .ballot d _ => [maskDst g d]
  | .li d _ | .getm d | .gdiv d | .gfuse d _ | .tfen d | .movpToRegister d _ => [wrOp d]
  | .lih d _ => [rwOp d]
  | .cmp _ _ a b => [(rdOp 1 a).pair w, (rdOp 2 b).pair w]
  | .movpToPredicate _ a | .xset a _ | .popen a | .pbar a | .twt a => [rdOp 1 a]
  | .jmpr a | .callr a | .txl a _ | .fork a => [(rdOp 1 a).pair true]
  | .bari a b | .barw a b => [rdOp 1 a, rdOp 2 b]
  | .bara d a => [wrOp d, rdOp 1 a]
  | .spawn a b | .enq a b => [(rdOp 1 a).pair true, rdOp 2 b]
  | .cvt d a x => [cvtDst ty x.toNat d, cvtSrc ty x.toNat a]
  | .qnt8 d a b => [(wrOp d).many 2 false, (rdOp 1 a).many 8 false, rdOp 2 b]
  | .dqn8 d a b => [(wrOp d).many 8 false, (rdOp 1 a).many 2 false, rdOp 2 b]
  | .hadm d a b => [wrOp d, (rdOp 1 a).many 3 false, rdOp 2 b]
  | .ld1 d a _ _ | .ld2 d a _ _ | .ld4 d a _ _ => [wrOp d, rdOp 1 a]
  | .ld8 d a _ _ | .ldaq d a _ _ | .ldwt d a _ _ | .ldcn d a _ _ => [(wrOp d).pair true, rdOp 1 a]
  | .ld16 d a _ _ => [(wrOp d).many 4 true, rdOp 1 a]
  | .ld64 d a _ _ => [(wrOp d).many 16 true, rdOp 1 a]
  | .st1 d a _ _ | .st2 d a _ _ | .st4 d a _ _ => [rdOp 0 d, rdOp 1 a]
  | .st8 d a _ _ | .strl d a _ _ | .stfl d a _ _ | .stfu d a _ _ | .prel d a _ _ => [(rdOp 0 d).pair true, rdOp 1 a]
  | .st16 d a _ _ => [(rdOp 0 d).many 4 true, rdOp 1 a]
  | .st64 d a _ _ => [(rdOp 0 d).many 16 true, rdOp 1 a]
  | .fefull a _ _ | .feempty a _ _ | .fetest _ a _ _ => [rdOp 1 a]
  | .aadd d a _ _ | .amin d a _ _ | .amax d a _ _ | .aand d a _ _ | .aor d a _ _ | .axor d a _ _ | .aswp d a _ _
  | .ainc d a _ _ | .adec d a _ _ => [(rwOp d).pair w, rdOp 1 a]
  | .acas d a _ _ => [if w then (rwOp d).many 4 true else (rwOp d).many 2 false, rdOp 1 a]
  | .xcp d a b | .xfill d a b | .xgath d a b => [(rdOp 0 d).pair true, (rdOp 1 a).pair true, (rdOp 2 b).pair true]
  | .xpref a b => [(rdOp 1 a).pair true, (rdOp 2 b).pair true]
  | .tmm d a b | .tmmr d a b => [rdOp 0 d, tileRows a ty, (rdOp 2 b).pair true]
  | .tmmi d a b | .tmmir d a b => [(rdOp 0 d).many 3 false, tileRows a ty, (rdOp 2 b).pair true]
  | .tlda d a | .tsta d a => [(rdOp 0 d).pair true, (rdOp 1 a).pair true]
  | .tcvt d a b => [(rdOp 0 d).pair true, (rdOp 1 a).pair true, rdOp 2 b]
  | .acfg d a | .aread d a => [rdOp 0 d, (rdOp 1 a).pair true]
  | .take d a => [(wrOp d).many 4 false, rdOp 1 a]
  | .srd d n => [(wrOp d).pair (srWide n)]
  | .swr d n => [(rdOp 0 d).pair (srWide n)]
  | _ => []

/-! ### The checks of R77, steps 4 and 5 -/

/-- The effective register number of an operand (R37). -/
def effReg (g : Group) (o : Opnd) : Nat :=
  if 0xF0 ≤ o.code.toNat then o.code.toNat
  else if g.gm.getLsbD (24 + o.pos) then o.code.toNat + g.xi.toNat else o.code.toNat

/-- Whether a register is declared; v238 and v239 always are (R21, R23). -/
def declared (g : Group) (r : Nat) : Bool := r < g.hdr.n || r == 238 || r == 239

/-- The first register of an extent that is not declared (R23). -/
def firstUndeclared (g : Group) (r n : Nat) : Option Nat := ((List.range n).map (fun k => r + k)).find? (fun k => !declared g k)

/-- The check of one operand (R77, step 4): its code, its base register, an odd base where it must be even (R75), and the rest of its
extent (R23). The base of ACAS traps REG_INDEX at every special code (R173). An odd base traps before a later register that is not declared (DESIGN
CHOICE, log entry 105). -/
def opndTrap (w : BitVec 32) (g : Group) (o : Opnd) : Option Trap :=
  let c := o.code.toNat
  if 0xF0 ≤ c && o.multi && o.src && o.dst then some (trapOf .regIndex (dw c))
  else if c = 0xFF then some (trapOf .reservedField (zext w))
  else if o.dst && 0xF1 ≤ c then some (trapOf .specialDest (zext w))
  else if 0xF0 ≤ c then (if o.multi then some (trapOf .regIndex (dw c)) else none)
  else if o.even && declared g (effReg g o) && effReg g o % 2 = 1 then some (trapOf .regPair (dw (effReg g o)))
  else (firstUndeclared g (effReg g o) o.span).map (fun r => trapOf .regIndex (dw r))

/-- The operand as a single register (R77, step 4, under a type that is not accepted). -/
def Opnd.single (o : Opnd) : Opnd := { o with span := 1, even := false, multi := false }

/-- Steps 4 and 5 of R77 for an instruction word. -/
def wordTrap (i : Instr) (g : Group) : Option Trap :=
  if accepts i (gmType g) then firstSome ((operandsOf i g).map (opndTrap (wordOf i) g))
  else match firstSome ((operandsOf i g).map (fun o => opndTrap (wordOf i) g o.single)) with
    | some t => some t
    | none => some (trapOf .modeField (zext g.gm))

/-! ### Reading operands -/

/-- The value of a special operand at issue (R45). -/
def specialVal (s : State) (c : Nat) : RegVal :=
  let g := s.cur
  match c with
  | 0xF1 => .a 0 1
  | 0xF2 => .u (wd (width g))
  | 0xF3 => .u (wd (g.base / width g))
  | 0xF4 => .u g.teamIdx
  | 0xF5 => .u (wd g.part)
  | 0xF6 => .u (wd (pkgId s))
  | 0xF7 => .u (g.strand.mask.setWidth 32)
  | 0xF8 => .u (wd (rotaSlot s))
  | 0xF9 => .u (wd (rotaCycle s))
  | 0xFA => .u (loHalf s.time)
  | 0xFB => .u (loHalf (getCore s g.part g.core).clk)
  | 0xFC => .u (g.xi.setWidth 32)
  | 0xFD => .g ((List.range (width g)).map (fun l => wd (l / 4)))
  | 0xFE => .u (wd (laneCount g.strand.mask))
  | _ => .u 0

/-- Word k of an operand: a register, or a special operand zero-extended (R45, R75). -/
def opWord (s : State) (o : Opnd) (k : Nat) : RegVal :=
  if 0xF0 ≤ o.code.toNat then (if k = 0 then specialVal s o.code.toNat else .u 0) else readReg s.cur (effReg s.cur o + k)

/-- The words of an operand, low first. -/
def opWords (s : State) (o : Opnd) : List RegVal := (List.range o.span).map (opWord s o)

/-- Lane l of word k of an operand. -/
def opLane (s : State) (o : Opnd) (k l : Nat) : Word := (opWord s o k).lane l

/-- Lane l of an operand of one or two registers, as a number. -/
def opNat (s : State) (o : Opnd) (l : Nat) : Nat :=
  if o.span = 1 then (opLane s o 0 l).toNat else (opLane s o 0 l).toNat + 2 ^ 32 * (opLane s o 1 l).toNat

/-- Lane l of an operand of two registers, as a doubleword. -/
def opPair (s : State) (o : Opnd) (l : Nat) : DWord := pairOf (opLane s o 0 l) (opLane s o 1 l)

/-- Whether a value is U (R24). -/
def RegVal.isU : RegVal → Bool
  | .u _ => true
  | .a _ _ => false
  | .g _ => false

/-- Whether a value is G (R24). -/
def RegVal.isG : RegVal → Bool
  | .u _ => false
  | .a _ _ => false
  | .g _ => true

/-- The lowest register of an operand that is not U, by number (R177). -/
def firstNotU (s : State) (o : Opnd) : Option Nat :=
  ((List.range o.span).find? (fun k => !(opWord s o k).isU)).map (fun k => effReg s.cur o + k)

/-- SHAPE where an operand that must be U is not (R177). -/
def mustBeU (s : State) (o : Opnd) : Option Trap := (firstNotU s o).map (fun r => trapOf .shape (dw r))

/-- The value of a U operand of one register. -/
def uWord (s : State) (o : Opnd) : Word := opLane s o 0 0

/-- The value of a U operand of two registers. -/
def uPair (s : State) (o : Opnd) : DWord := opPair s o 0

/-! ### Writing results -/

/-- The result of an operation by lane: U where every source is U, G otherwise (R25). -/
def resultOf (g : Group) (srcs : List RegVal) (f : Nat → Word) : RegVal :=
  if srcs.all RegVal.isU then .u (f 0) else .g ((List.range (width g)).map f)

/-- An A value of stride 0 is stored as U (R25). -/
def RegVal.norm : RegVal → RegVal
  | .u v => .u v
  | .a b s => if s = 0 then .u b else .a b s
  | .g ls => .g ls

/-- The G value that takes the new value in the lanes of a mask and keeps the old one in the others (R26, R114). -/
def mergeLanes (g : Group) (en : Mask) (old new : RegVal) : RegVal :=
  .g ((List.range (width g)).map (fun l => if en.getLsbD l then new.lane l else old.lane l))

/-- A register after a write of `new` in the enabled lanes (R25, R26; a strand of every lane not exited is the whole group). -/
def mergeReg (g : Group) (en : Mask) (old new : RegVal) : RegVal :=
  if en = 0 then old
  else if en = residentLanes g then
    match new.norm with
    | .u v => .u v
    | .a b s => .a b s
    | .g ls => mergeLanes g en old (.g ls)
  else if old = new.norm && !old.isG then old
  else mergeLanes g en old new

/-- Whether a register is narrow (R21). -/
def narrow (g : Group) (r : Nat) : Bool := g.hdr.ng ≤ r

/-- The first register of a list of writes that would hold a G value although it is narrow (R27). -/
def narrowFault (en : Mask) (g : Group) (ws : List (Nat × RegVal)) : Option Nat :=
  ((ws.find? (fun w => narrow g w.1 && (mergeReg g en (readReg g w.1) w.2).isG)).map (·.1))

/-- Saves a register at its first write inside a remote region (R197). -/
def saveFirst (r : Nat) (g : Group) : Group :=
  match g.region with
  | some x => if x.seen.contains r then g else
      let y := { x with seen := r :: x.seen, saved := Sparse.set (.u 0) x.saved r (readReg g r) }
      { g with region := some { y with spoison := Sparse.set 0 x.spoison r (Sparse.get 0 g.rpoison r) } }
  | none => g

/-- Writes one register in the lanes of a mask (R26); the written values are no longer poisoned (R395). -/
def writeReg (en : Mask) (r : Nat) (v : RegVal) (g : Group) : Group :=
  let g1 := if en = 0 then g else saveFirst r g
  { g1 with regs := Sparse.set (.u 0) g1.regs r (mergeReg g en (readReg g r) v),
            rpoison := Sparse.set 0 g1.rpoison r (Sparse.get 0 g1.rpoison r &&& ~~~en) }

/-- Writes registers in the lanes of a mask. -/
def writeRegs (en : Mask) (ws : List (Nat × RegVal)) (g : Group) : Group := ws.foldl (fun g w => writeReg en w.1 w.2 g) g

/-- The writes of a destination operand: none for $zero (R45). -/
def destWrites (g : Group) (o : Opnd) (vs : List RegVal) : List (Nat × RegVal) :=
  if 0xF0 ≤ o.code.toNat then [] else ((List.range vs.length).map (fun k => effReg g o + k)).zip vs

/-- Ends an instruction that writes registers in its enabled lanes: SHAPE for a narrow register that would become G (R27),
the writes and the next instruction otherwise. -/
def writeBack (en : Mask) (ws : List (Nat × RegVal)) (s : State) : Result :=
  match narrowFault en s.cur ws with
  | some r => .next (takeTrap (trapOf .shape (dw r)) s)
  | none => .next (modCur (fun g => nextPc (writeRegs en ws g)) s)

/-! ### Issue -/

/-- The instructions that ignore the guard (R99, R163). -/
def ignoresGuard : Instr → Bool
  | .nop | .br .. | .call .. | .callr .. | .jmpr .. | .safe .. | .idem .. | .sigck .. | .cyld .. | .waitc .. | .sleep ..
  | .gdiv .. | .gfuse .. | .kmask .. | .setm .. | .xset .. | .txl .. | .txi .. | .fence .. => true
  | _ => false

/-- The lanes whose sources an instruction reads. -/
def actingLanes (i : Instr) (g : Group) : Mask := if ignoresGuard i then activeLanes g else enabled g

/-- The register of a poisoned source value (R395, R396): of the acting lanes only, also where a lane of HADM that is not enabled adds its
value (DESIGN CHOICE, log entry 94). -/
def poisonedSource (i : Instr) (g : Group) : Option Nat :=
  firstSome ((operandsOf i g).map (fun o =>
    if o.src && o.code.toNat < 0xF0 then
      ((List.range o.span).map (fun k => effReg g o + k)).find? (fun r => Sparse.get 0 g.rpoison r &&& actingLanes i g != 0)
    else none))

/-- The instructions that close an open idempotent region whenever they take effect (R397). -/
def closesIdem : Instr → Bool
  | .ldcn .. | .stfl .. | .stfu .. | .fefull .. | .feempty .. | .aadd .. | .amin .. | .amax .. | .aand .. | .aor .. | .axor ..
  | .aswp .. | .acas .. | .ainc .. | .adec .. | .bid .. | .acfg .. | .aread .. | .take .. | .bara .. | .tfen .. | .popen ..
  | .prel .. | .pbar .. | .pdrain | .rbegin .. | .fork .. | .spawn .. | .enq .. | .gdiv .. | .gfuse .. => true
  | _ => false

/-- Closes an open idempotent region (R397). -/
def closeIdem (g : Group) : Group := { g with idemr := none }

/-- The instructions that may yet wait or trap before they take effect: their own meanings close the region. -/
def closesLate : Instr → Bool
  | .ldcn .. | .stfl .. | .stfu .. | .fefull .. | .feempty .. | .aadd .. | .amin .. | .amax .. | .aand .. | .aor .. | .axor ..
  | .aswp .. | .acas .. | .ainc .. | .adec .. | .bid .. | .aread .. | .prel .. | .bara .. | .acfg .. | .take .. | .pbar .. | .fork ..
  | .spawn .. | .enq .. => true
  | _ => false

/-- The region as an instruction finds it when it takes effect (R397). -/
def enterInstr (i : Instr) (s : State) : State :=
  if closesIdem i && !closesLate i && (ignoresGuard i || enabled s.cur != 0) then modCur closeIdem s else s

/-- The region as an instruction that reads poison finds it: one that closes the region executes outside it (R397). -/
def leaveRegion (i : Instr) (s : State) : State := if closesIdem i then modCur closeIdem s else s

/-- Issues an instruction word: steps 4 and 5 of R77, the regions of R397, poisoned sources (R396), then its own meaning. -/
def issue (i : Instr) (body : State → Result) (s : State) : Result :=
  match wordTrap i s.cur with
  | some t => .next (takeTrap t s)
  | none =>
    match poisonedSource i s.cur with
    | some r => .next (consumePoison (dw (2 ^ 63 + r)) (leaveRegion i s))
    | none => body (enterInstr i s)

/-- A strand instruction (R177): nothing but the next pc where no lane is enabled. -/
def issueStrand (i : Instr) (body : State → Result) (s : State) : Result :=
  issue i (fun s => if enabled s.cur = 0 then .next (modCur nextPc s) else body s) s

/-- Ends an instruction in its first failing check, or goes on. -/
def orTrap (t : Option Trap) (k : State → Result) (s : State) : Result :=
  match t with
  | some t => .next (takeTrap t s)
  | none => k s

/-- The instruction waits at issue: nothing changes, and the group's other strands go on. -/
def stallIssue (s : State) : Result := .next { s with last := .stalled }

/-- The instruction lacks something that its whole group waits for at issue (R40, R179, R289, R359). -/
def stallFor (k : Stall) (s : State) : Result :=
  .next { s with cur := { s.cur with stall := some (k, s.cur.strand.pc) }, last := .stalled }

/-- The instruction would raise a counter above 63: its whole group stalls until the counter falls (R40: 0 L, 1 S, 2 C, 3 T). -/
def stallCounter (k : Nat) (s : State) : Result := stallFor (.ctr k) s

end Sys2Proof.Machine
end

