-- ==== Sys2Proof/Machine/Float.lean ====
section
/-! DEFINITION. The number formats of R51 and the arithmetic on them: exact values, one rounding (R52, R53), conversion (R54,
R56, R144), and the neighbours that the approximations of R140 may return. -/

namespace Sys2Proof.Machine

/-- A floating-point format (R51): width, mantissa bits, bias, the code of the largest finite value, whether the next code is
an infinity, and the canonical NaN. -/
structure Fmt where
  width  : Nat
  mant   : Nat
  bias   : Nat
  maxFin : Nat
  hasInf : Bool
  nan    : Nat
  deriving DecidableEq, Repr

/-- binary32. -/
def f32 : Fmt := { width := 32, mant := 23, bias := 127, maxFin := 0x7F7FFFFF, hasInf := true, nan := 0x7FC00000 }

/-- binary64. -/
def f64 : Fmt := { width := 64, mant := 52, bias := 1023, maxFin := 0x7FEFFFFFFFFFFFFF, hasInf := true, nan := 0x7FF8000000000000 }

/-- bfloat16. -/
def bf16 : Fmt := { width := 16, mant := 7, bias := 127, maxFin := 0x7F7F, hasInf := true, nan := 0x7FC0 }

/-- The format of a floating-point GM type (R51). -/
def fmtOf (ty : Nat) : Fmt :=
  match ty with
  | 5 => f64
  | 6 => { width := 16, mant := 10, bias := 15, maxFin := 0x7BFF, hasInf := true, nan := 0x7E00 }
  | 7 => bf16
  | 0xC => { width := 8, mant := 3, bias := 7, maxFin := 0x7E, hasInf := false, nan := 0x7F }
  | 0xD => { width := 8, mant := 2, bias := 15, maxFin := 0x7B, hasInf := true, nan := 0x7E }
  | 0xE => { width := 4, mant := 1, bias := 1, maxFin := 0x7, hasInf := false, nan := 0x0 }
  | _ => f32

/-- An exact value: a NaN, an infinity, or (-1)^neg × m × 2^e. -/
inductive FVal where
  | nan
  | inf (neg : Bool)
  | fin (neg : Bool) (m : Nat) (e : Int)
  deriving DecidableEq, Repr

/-- The sign bit of a code. -/
def signBit (f : Fmt) (x : Nat) : Bool := x.testBit (f.width - 1)

/-- A code without its sign. -/
def magBits (f : Fmt) (x : Nat) : Nat := x % 2 ^ (f.width - 1)

/-- The exponent of the smallest subnormal (R51). -/
def Fmt.emin (f : Fmt) : Int := 1 - (f.bias : Int) - (f.mant : Int)

/-- Whether a code is a NaN (R51). -/
def isNanCode (f : Fmt) (x : Nat) : Bool := f.maxFin + boolNat f.hasInf < magBits f x

/-- Whether a code is an infinity. -/
def isInfCode (f : Fmt) (x : Nat) : Bool := f.hasInf && magBits f x == f.maxFin + 1

/-- The exact value of a code (R51). -/
def decodeF (f : Fmt) (x : Nat) : FVal :=
  let mag := magBits f x
  if isNanCode f x then .nan
  else if isInfCode f x then .inf (signBit f x)
  else if mag / 2 ^ f.mant = 0 then .fin (signBit f x) mag f.emin
  else .fin (signBit f x) (mag % 2 ^ f.mant + 2 ^ f.mant) (f.emin + (mag / 2 ^ f.mant : Nat) - 1)

/-- Rounds the quotient q with remainder r of a division by dd, in a mode of R53. -/
def roundQ (mode : Nat) (neg : Bool) (q r dd : Nat) : Nat :=
  match mode with
  | 0 => if dd < 2 * r || (2 * r = dd && q % 2 = 1) then q + 1 else q
  | 1 => q
  | 2 => if neg && r ≠ 0 then q + 1 else q
  | 3 => if !neg && r ≠ 0 then q + 1 else q
  | _ => if dd ≤ 2 * r then q + 1 else q

/-- The exponent of the leading bit of num / den. -/
def leadExp (num den : Nat) : Int :=
  let k : Int := (num.log2 : Int) - (den.log2 : Int)
  if num * 2 ^ (-k).toNat < den * 2 ^ k.toNat then k - 1 else k

/-- The magnitude code of num / den × 2^e rounded to a format whose exponent is unbounded above (R53). -/
def magCode (f : Fmt) (mode : Nat) (neg : Bool) (num den : Nat) (e : Int) : Nat :=
  let s := max (leadExp num den + e - f.mant) f.emin
  let nn := num * 2 ^ (e - s).toNat
  let dd := den * 2 ^ (s - e).toNat
  (s - f.emin).toNat * 2 ^ f.mant + roundQ mode neg (nn / dd) (nn % dd) dd

/-- A rounded value: a finite code without its sign, or the infinity of R53. -/
inductive Rounded where
  | code (c : Nat)
  | inf
  deriving DecidableEq, Repr

/-- Whether a mode overflows to infinity for a sign (R53). -/
def overflowInf (mode : Nat) (neg : Bool) : Bool :=
  match mode with
  | 1 => false
  | 2 => neg
  | 3 => !neg
  | _ => true

/-- Rounds num / den × 2^e, not zero, to a format (R53). -/
def roundMag (f : Fmt) (mode : Nat) (neg : Bool) (num den : Nat) (e : Int) : Rounded :=
  let c := magCode f mode neg num den e
  if c ≤ f.maxFin then .code c else if overflowInf mode neg then .inf else .code f.maxFin

/-- A magnitude code with a sign. -/
def withSign (f : Fmt) (neg : Bool) (c : Nat) : Nat := if neg then c + 2 ^ (f.width - 1) else c

/-- The infinity of a format. -/
def infCode (f : Fmt) (neg : Bool) : Nat := withSign f neg (f.maxFin + 1)

/-- A quotient rounded to a format with infinities (R52, R53). -/
def roundRat (f : Fmt) (mode : Nat) (neg : Bool) (num den : Nat) (e : Int) : Nat :=
  if num = 0 then withSign f neg 0
  else match roundMag f mode neg num den e with
    | .code c => withSign f neg c
    | .inf => infCode f neg

/-- An exact value rounded once to a format with infinities (R52, R53). -/
def encodeF (f : Fmt) (mode : Nat) : FVal → Nat
  | .nan => f.nan
  | .inf n => infCode f n
  | .fin n m e => roundRat f mode n m 1 e

/-- Negation. -/
def FVal.neg : FVal → FVal
  | .nan => .nan
  | .inf n => .inf (!n)
  | .fin n m e => .fin (!n) m e

/-- Whether a value is zero. -/
def FVal.isZero : FVal → Bool
  | .nan => false
  | .inf _ => false
  | .fin _ m _ => m == 0

/-- The sign of a value. -/
def FVal.sign : FVal → Bool
  | .nan => false
  | .inf n => n
  | .fin n _ _ => n

/-- The exact product (R137). -/
def FVal.mul : FVal → FVal → FVal
  | .nan, _ => .nan
  | _, .nan => .nan
  | .inf a, .inf b => .inf (xor a b)
  | .inf a, .fin b m _ => if m = 0 then .nan else .inf (xor a b)
  | .fin a m _, .inf b => if m = 0 then .nan else .inf (xor a b)
  | .fin a m e, .fin b n k => .fin (xor a b) (m * n) (e + k)

/-- The least exponent of the finite terms. -/
def minExp (l : List FVal) : Int :=
  l.foldl (fun a v => match v with | .fin _ m e => if m = 0 then a else min a e | .nan => a | .inf _ => a) 0

/-- The exact sum of finite terms in units of 2^e. -/
def sumAt (e : Int) (l : List FVal) : Int :=
  l.foldl (fun a v => match v with
    | .fin n m k => if n then a - ((m * 2 ^ (k - e).toNat : Nat) : Int) else a + ((m * 2 ^ (k - e).toNat : Nat) : Int)
    | .nan => a
    | .inf _ => a) 0

/-- The exact sum of terms (R52, R137, R145); mode decides the sign of an exact zero sum. -/
def sumF (mode : Nat) (l : List FVal) : FVal :=
  if l.any (fun v => v == .nan) || (l.any (fun v => v == .inf false) && l.any (fun v => v == .inf true)) then .nan
  else if l.any (fun v => v == .inf false) then .inf false
  else if l.any (fun v => v == .inf true) then .inf true
  else
    let e := minExp l
    let t := sumAt e l
    if t = 0 then
      if l.all (fun v => v.isZero && v.sign) then .fin true 0 0
      else if l.all (fun v => v.isZero && !v.sign) then .fin false 0 0
      else .fin (mode == 2) 0 0
    else .fin (decide (t < 0)) t.natAbs e

/-- x ÷ y rounded once (R137). -/
def divF (f : Fmt) (mode : Nat) : FVal → FVal → Nat
  | .nan, _ => f.nan
  | _, .nan => f.nan
  | .inf _, .inf _ => f.nan
  | .inf a, .fin b _ _ => infCode f (xor a b)
  | .fin a _ _, .inf b => withSign f (xor a b) 0
  | .fin a m e, .fin b n k =>
    if n = 0 then (if m = 0 then f.nan else infCode f (xor a b)) else roundRat f mode (xor a b) m n (e - k)

/-- The integer square root, by bits below 2^n. -/
def isqrtBits (x : Nat) : Nat → Nat → Nat
  | 0, a => a
  | n + 1, a => if (a + 2 ^ n) * (a + 2 ^ n) ≤ x then isqrtBits x n (a + 2 ^ n) else isqrtBits x n a

/-- The integer square root. -/
def isqrt (x : Nat) : Nat := isqrtBits x (x.log2 / 2 + 1) 0

/-- √x rounded once (R139). -/
def sqrtF (f : Fmt) (mode : Nat) : FVal → Nat
  | .nan => f.nan
  | .inf n => if n then f.nan else infCode f false
  | .fin n m e =>
    if m = 0 then withSign f n 0
    else if n then f.nan
    else
      let k : Int := if e % 2 = 0 then e else e - 1
      let x := m * 2 ^ (e - k).toNat * 2 ^ 256
      let r := isqrt x
      roundRat f mode false (2 * r + boolNat (r * r != x)) 1 (k / 2 - 129)

/-- A finite value rounded to an integer magnitude in a mode (R139, R144). -/
def integralMag (mode : Nat) (neg : Bool) (m : Nat) (e : Int) : Nat :=
  let dd := 2 ^ (-e).toNat
  let nn := m * 2 ^ e.toNat
  roundQ mode neg (nn / dd) (nn % dd) dd

/-- x rounded to an integral value (R139). -/
def rndF (f : Fmt) (mode : Nat) : FVal → Nat
  | .nan => f.nan
  | .inf n => infCode f n
  | .fin n m e => roundRat f mode n (integralMag mode n m e) 1 0

/-- x × 2^k rounded once (R142); beyond ±8,192 a larger k gives the same result. -/
def scaleF (f : Fmt) (mode : Nat) (k : Int) : FVal → Nat
  | .nan => f.nan
  | .inf n => infCode f n
  | .fin n m e => roundRat f mode n m 1 (e + clampInt (-8192) 8192 k)

/-- The order of FMIN and FMAX, in which −0 is less than +0 (R138). -/
def orderKey (f : Fmt) (x : Nat) : Int :=
  if signBit f x then -(magBits f x : Int) - 1 else (magBits f x : Int)

/-- The order of the compares, in which −0 equals +0 (R107). -/
def valueKey (f : Fmt) (x : Nat) : Int := if signBit f x then -(magBits f x : Int) else (magBits f x : Int)

/-- FMIN of two codes (R138). -/
def minF (f : Fmt) (x y : Nat) : Nat :=
  if isNanCode f x then (if isNanCode f y then f.nan else y)
  else if isNanCode f y then x else if orderKey f y < orderKey f x then y else x

/-- FMAX of two codes (R138). -/
def maxF (f : Fmt) (x y : Nat) : Nat :=
  if isNanCode f x then (if isNanCode f y then f.nan else y)
  else if isNanCode f y then x else if orderKey f x < orderKey f y then y else x

/-- The class mask of a code (R141). -/
def classMask (f : Fmt) (x : Nat) : Nat :=
  let mag := magBits f x
  let neg := signBit f x
  if isNanCode f x then (if mag.testBit (f.mant - 1) then 0x200 else 0x100)
  else if isInfCode f x then (if neg then 0x001 else 0x080)
  else if mag = 0 then (if neg then 0x008 else 0x010)
  else if mag / 2 ^ f.mant = 0 then (if neg then 0x004 else 0x020)
  else if neg then 0x002 else 0x040

/-! ### Conversion -/

/-- The least and the greatest value of an integer type (R49). -/
def intMin (ty : Nat) : Int := if tySigned ty then -((2 ^ (tyWidth ty - 1) : Nat) : Int) else 0

/-- The greatest value of an integer type (R49). -/
def intMax (ty : Nat) : Int :=
  if tySigned ty then ((2 ^ (tyWidth ty - 1) : Nat) : Int) - 1 else ((2 ^ tyWidth ty : Nat) : Int) - 1

/-- The integer that an element of an integer type holds (R49). -/
def intOf (ty x : Nat) : Int := if tySigned ty then toSigned (tyWidth ty) x else ((x % 2 ^ tyWidth ty : Nat) : Int)

/-- fit into an integer type (R50, R97). -/
def fitTy (ty : Nat) (sat : Bool) (x : Int) : Nat :=
  wrapTo (tyWidth ty) (if sat then clampInt (intMin ty) (intMax ty) x else x)

/-- The outcomes of R54 and R56 for an infinite result or input. -/
def convInf (ty : Nat) (sat neg : Bool) : Nat :=
  let f := fmtOf ty
  if ty = 0xE then withSign f neg f.maxFin
  else if sat then withSign f neg f.maxFin
  else if f.hasInf then infCode f neg else f.nan

/-- An exact value converted into a floating-point type (R53, R54, R56). -/
def convToFloat (ty mode : Nat) (sat : Bool) : FVal → Nat
  | .nan => (fmtOf ty).nan
  | .inf n => convInf ty sat n
  | .fin n m e =>
    if m = 0 then withSign (fmtOf ty) n 0
    else match roundMag (fmtOf ty) mode n m 1 e with
      | .code c => withSign (fmtOf ty) n c
      | .inf => convInf ty sat n

/-- An exact value converted into an integer type (R144). -/
def convToInt (ty mode : Nat) : FVal → Nat
  | .nan => 0
  | .inf n => wrapTo (tyWidth ty) (if n then intMin ty else intMax ty)
  | .fin n m e =>
    let k : Int := integralMag mode n m e
    wrapTo (tyWidth ty) (clampInt (intMin ty) (intMax ty) (if n then -k else k))

/-- One element converted from a type to a type (R144); R54 applies to equal types too, where a finite value is its own result
(DEDUCED, log entry 19). -/
def convertEl (src dst mode : Nat) (sat : Bool) (x : Nat) : Nat :=
  if tyInt src then
    if tyInt dst then fitTy dst sat (intOf src x)
    else convToFloat dst mode sat (.fin (decide (intOf src x < 0)) (intOf src x).natAbs 0)
  else if tyInt dst then convToInt dst mode (decodeF (fmtOf src) x)
  else convToFloat dst mode sat (decodeF (fmtOf src) x)

/-! ### The approximations -/

/-- Fraction bits of the fixed-point values below. -/
def fxBits : Nat := 960

/-- The arc tangent of 1/d, in units of 2^-fxBits: n terms from the k-th on, p the next power of 1/d. -/
def atanInv (d : Nat) : Nat → Nat → Nat → Int → Int
  | 0, _, _, a => a
  | n + 1, k, p, a =>
    atanInv d n (k + 1) (p / (d * d)) (if k % 2 = 0 then a + ((p / (2 * k + 1) : Nat) : Int) else a - ((p / (2 * k + 1) : Nat) : Int))

/-- π/2 in units of 2^-fxBits, by Machin's formula. -/
def halfPi : Nat :=
  (8 * atanInv 5 220 0 (2 ^ fxBits / 5) 0 - 2 * atanInv 239 70 0 (2 ^ fxBits / 239) 0).toNat

/-- The alternating power series of sine and cosine: t the current term, j its index. -/
def trigSeries (r : Nat) : Nat → Nat → Nat → Int → Int
  | 0, _, _, a => a
  | n + 1, j, t, a =>
    let a' := if j / 2 % 2 = 0 then a + (t : Int) else a - (t : Int)
    trigSeries r n (j + 2) (t * r / 2 ^ fxBits * r / 2 ^ fxBits / ((j + 1) * (j + 2))) a'

/-- sin of a reduced argument. -/
def sinFx (r : Nat) : Int := trigSeries r 90 1 r 0

/-- cos of a reduced argument. -/
def cosFx (r : Nat) : Int := trigSeries r 90 0 (2 ^ fxBits) 0

/-- sin(m × 2^e + q × π/2) for a positive argument, in units of 2^-fxBits. -/
def sinShifted (m : Nat) (e : Int) (q : Nat) : Int :=
  let x := m * 2 ^ (e + fxBits).toNat
  let k := x / halfPi + q
  let r := x % halfPi
  match k % 4 with
  | 0 => sinFx r
  | 1 => cosFx r
  | 2 => -sinFx r
  | _ => -cosFx r

/-- The exponential series: t the current term. -/
def expSeries (r : Nat) : Nat → Nat → Nat → Nat → Nat
  | 0, _, _, a => a
  | n + 1, j, t, a => expSeries r n (j + 1) (t * r / 2 ^ fxBits / (j + 1)) (a + t)

/-- The series of 2·artanh z: p the current power of z. -/
def artanhSeries (z2 : Nat) : Nat → Nat → Nat → Nat → Nat
  | 0, _, _, a => 2 * a
  | n + 1, k, p, a => artanhSeries z2 n (k + 1) (p * z2 / 2 ^ fxBits) (a + p / (2 * k + 1))

/-- The natural logarithm of num / den between 1 and 2, in units of 2^-fxBits. -/
def lnFx (num den : Nat) : Nat :=
  let z := (num - den) * 2 ^ fxBits / (num + den)
  artanhSeries (z * z / 2 ^ fxBits) 310 0 z 0

/-- ln 2 in units of 2^-fxBits. -/
def ln2Fx : Nat := lnFx 2 1

/-- One of the two binary32 values beside a value in units of 2^-fxBits (R140); the choice is a free value, a fixed function
of the operation and the operand (log entry 7). -/
def neighbour (op x : Nat) (neg : Bool) (num den : Nat) (e : Int) : Nat :=
  roundRat f32 (if Config.upperNeighbour op (wd x) then 3 else 2) neg num den e

/-- The neighbours of a signed fixed-point value. -/
def neighbourFx (op x : Nat) (v : Int) : Nat := neighbour op x (decide (v < 0)) v.natAbs 1 (-(fxBits : Int))

/-- FRCP (R139, R140): exact where 1/x is representable; ±∞ for |x| at most 2^−128. -/
def rcpF (x : Nat) : Nat :=
  match decodeF f32 x with
  | .nan => f32.nan
  | .inf n => withSign f32 n 0
  | .fin n m e =>
    if m = 0 then infCode f32 n
    else if magBits f32 x ≤ 0x00200000 then infCode f32 n
    else if m = 2 ^ m.log2 then roundRat f32 0 n 1 m (-e)
    else neighbour 1 x n 1 m (-e)

/-- FRSQ (R139, R140): exact at the powers of 4. -/
def rsqF (x : Nat) : Nat :=
  match decodeF f32 x with
  | .nan => f32.nan
  | .inf n => if n then f32.nan else 0
  | .fin n m e =>
    if m = 0 then infCode f32 n
    else if n then f32.nan
    else if m = 2 ^ m.log2 && (e + (m.log2 : Int)) % 2 = 0 then roundRat f32 0 false 1 1 (-(e + (m.log2 : Int)) / 2)
    else
      let k : Int := if e % 2 = 0 then e else e - 1
      let r := isqrt (2 ^ 512 / (m * 2 ^ (e - k).toNat))
      neighbour 2 x false (2 * r + 1) 1 (-k / 2 - 257)

/-- 2 to a fractional power between 0 and 1 given in units of 2^-fxBits, in the same units. -/
def exp2Fx (fr : Nat) : Nat := expSeries (fr * ln2Fx / 2 ^ fxBits) 170 0 (2 ^ fxBits) 0

/-- FEX2 (R139, R140): exact at the integers. -/
def ex2F (x : Nat) : Nat :=
  match decodeF f32 x with
  | .nan => f32.nan
  | .inf n => if n then 0 else infCode f32 false
  | .fin n m e =>
    if m = 0 then 0x3F800000
    else if 8 ≤ (m.log2 : Int) + e then (if n then 0 else infCode f32 false)
    else
      let v := m * 2 ^ (e + fxBits).toNat
      let t : Int := if n then -(v : Int) else (v : Int)
      let k := t / ((2 ^ fxBits : Nat) : Int)
      let fr := (t % ((2 ^ fxBits : Nat) : Int)).toNat
      if 128 ≤ k then infCode f32 false
      else if k < -150 || (k = -150 && fr = 0) then 0
      else if fr = 0 then roundRat f32 0 false 1 1 k
      else neighbour 3 x false (exp2Fx fr) 1 (k - fxBits)

/-- FLG2 (R139, R140): exact at the powers of 2. -/
def lg2F (x : Nat) : Nat :=
  match decodeF f32 x with
  | .nan => f32.nan
  | .inf n => if n then f32.nan else infCode f32 false
  | .fin n m e =>
    if m = 0 then infCode f32 true
    else if n then f32.nan
    else
      let k : Int := (m.log2 : Int) + e
      if m = 2 ^ m.log2 then roundRat f32 0 (decide (k < 0)) k.natAbs 1 0
      else neighbourFx 4 x (k * ((2 ^ fxBits : Nat) : Int) + ((lnFx m (2 ^ m.log2) * 2 ^ fxBits / ln2Fx : Nat) : Int))

/-- FSIN (R139, R140). -/
def sinF (x : Nat) : Nat :=
  match decodeF f32 x with
  | .nan => f32.nan
  | .inf _ => f32.nan
  | .fin n m e => if m = 0 then withSign f32 n 0 else neighbourFx 5 x (if n then -sinShifted m e 0 else sinShifted m e 0)

/-- FCOS (R139, R140). -/
def cosF (x : Nat) : Nat :=
  match decodeF f32 x with
  | .nan => f32.nan
  | .inf _ => f32.nan
  | .fin _ m e => if m = 0 then 0x3F800000 else neighbourFx 6 x (sinShifted m e 1)

/-! ### Quantising, and the Hadamard transform -/

/-- x × y rounded to binary32 under RNE. -/
def mul32 (x y : Nat) : Nat := encodeF f32 0 ((decodeF f32 x).mul (decodeF f32 y))

/-- x + y rounded to binary32 under RNE. -/
def add32 (x y : Nat) : Nat := encodeF f32 0 (sumF 0 [decodeF f32 x, decodeF f32 y])

/-- x − y rounded to binary32 under RNE. -/
def sub32 (x y : Nat) : Nat := encodeF f32 0 (sumF 0 [decodeF f32 x, (decodeF f32 y).neg])

/-- A block scale's mantissa and exponent of 2 (R58); 0xFF is a NaN. -/
def e3m5 (c : Nat) : FVal :=
  if c = 0xFF then .nan else if c / 32 = 0 then .fin false (c % 32) (-7) else .fin false (c % 32 + 32) ((c / 32 : Nat) - 8)

/-- A finite value at least another one, both given as m × 2^e. -/
def geDyadic (m : Nat) (e : Int) (n : Nat) (k : Int) : Bool :=
  n * 2 ^ (k - e).toNat ≤ m * 2 ^ (e - k).toNat

/-- The least scale code c ≥ 1 with 6 × e3m5(c) at least a value (R65); 0xFE where none is. -/
def leastScale (m : Nat) (e : Int) : Nat :=
  match ((List.range 0xFE).map (fun i => i + 1)).find? (fun c =>
      match e3m5 c with | .fin _ n k => geDyadic (6 * n) k m e | .nan => false | .inf _ => false) with
  | some c => c
  | none => 0xFE

/-- One element of quantise8: y / e3m5(s) as an E2M1 code under RNE (R65). -/
def quantEl (s y : Nat) : Nat :=
  match decodeF f32 y, e3m5 s with
  | .inf n, _ => withSign (fmtOf 0xE) n 7
  | .fin n m e, .fin _ k j =>
    if m = 0 then withSign (fmtOf 0xE) n 0
    else match roundMag (fmtOf 0xE) 0 n m k (e - j) with
      | .code c => withSign (fmtOf 0xE) n c
      | .inf => withSign (fmtOf 0xE) n 7
  | _, _ => 0

/-- Elements of a list packed with ew bits each, element 0 lowest (R49). -/
def packEls (ew : Nat) : List Nat → Nat
  | [] => 0
  | x :: l => x % 2 ^ ew + 2 ^ ew * packEls ew l

/-- quantise8 (R65): the packed word and the scale code. -/
def quantise8 (xs : List Nat) (q : Nat) : Nat × Nat :=
  let ys := xs.map (fun x => mul32 x q)
  if ys.any (isNanCode f32) then (0, 0xFF)
  else
    let amax := ys.foldl (fun a y => max a (magBits f32 y)) 0
    if amax = 0 then (0, 0)
    else
      let s := match decodeF f32 amax with
        | .fin _ m e => leastScale m e
        | .inf _ => 0xFE
        | .nan => 0xFE
      (packEls 4 (ys.map (quantEl s)), s)

/-- One element of dequantise8 (R66). -/
def dequantEl (s q c : Nat) : Nat :=
  if s = 0xFF then 0x7FC00000 else encodeF f32 0 (((decodeF (fmtOf 0xE) c).mul (e3m5 s)).mul (decodeF f32 q))

/-- splitmix64 (R67). -/
def splitmix64 (x : DWord) : DWord :=
  let z := x + 0x9E3779B97F4A7C15#64
  let z := (z ^^^ (z >>> 30)) * 0xBF58476D1CE4E5B9#64
  let z := (z ^^^ (z >>> 27)) * 0x94D049BB133111EB#64
  z ^^^ (z >>> 31)

/-- The sign bit of element j under a seed (R67). -/
def seedSign (seed : DWord) (j : Nat) : Bool := (splitmix64 (seed ^^^ (dw j * 0x9E3779B97F4A7C15#64))).getLsbD 63

/-- The keyed sign flip of one element, exact (R67, R69). -/
def signFlip (seed : DWord) (j x : Nat) : Nat :=
  if isNanCode f32 x then f32.nan else if seedSign seed j then withSign f32 (!signBit f32 x) (magBits f32 x) else x

/-- One butterfly stage at distance h (R68). -/
def butterfly (h : Nat) (xs : List Nat) : List Nat :=
  (List.range xs.length).map (fun j =>
    if j / h % 2 = 0 then add32 (xs.getD j 0) (xs.getD (j + h) 0) else sub32 (xs.getD (j - h) 0) (xs.getD j 0))

/-- The first m butterfly stages, from distance 1 on (R68). -/
def butterflies (m : Nat) (xs : List Nat) : List Nat := (List.range m).foldl (fun xs i => butterfly (2 ^ i) xs) xs

/-- log2 of a block size of R68 and its k. -/
def hadStages (n : Nat) : Nat := if n = 8 then 3 else if n = 16 then 4 else 5

/-- k of R68: ceil(log2(n)/2). -/
def hadK (n : Nat) : Nat := (hadStages n + 1) / 2

/-- The transform of a block (R68, R69). -/
def hadamard (inverse : Bool) (seed : DWord) (n : Nat) (xs : List Nat) : List Nat :=
  let flip := fun (ys : List Nat) => (List.range n).map (fun j => signFlip seed j (ys.getD j 0))
  if inverse then
    (flip (butterflies (hadStages n) xs)).map (fun x => scaleF f32 0 ((hadK n : Int) - (hadStages n : Int)) (decodeF f32 x))
  else
    (butterflies (hadStages n) (flip xs)).map (fun x => scaleF f32 0 (-(hadK n : Int)) (decodeF f32 x))

end Sys2Proof.Machine
end

