-- ==== Sys2Proof/Machine/AuctionHeap.lean ====
section
/-! DEFINITION. Auctions (R207 to R210): handles, the heap, and the application of an offer with its forwarding. -/

namespace Sys2Proof.Machine

/-- A handle's partition, core and slot (R207). -/
def handleParts (h : Word) : Nat × Nat × Nat := (fieldW h 30 2, fieldW h 23 7, fieldW h 0 3)

/-- Whether a handle has no reserved bit set and an index a die has (R207). -/
def handleForm (h : Word) : Bool := fieldW h 3 20 == 0 && decide (fieldW h 23 7 ≤ 91)

/-- The auction that a slot of a core holds. -/
def findAuction (s : State) (part core slot : Nat) : Option Auction :=
  s.auctions.find? (fun a => a.part == part && a.core == core && a.slot == slot)

/-- The auction that a handle names (R207). -/
def auctionOf (s : State) (h : Word) : Option Auction :=
  let (p, c, k) := handleParts h
  if handleForm h then findAuction s p c k else none

/-- Replaces an auction in its slot. -/
def putAuction (a : Auction) (s : State) : State :=
  { s with auctions := updateWhere (fun b => b.part == a.part && b.core == a.core && b.slot == a.slot) (fun _ => a) s.auctions }

/-- Whether entry x is better than entry y (R209): score, then token. -/
def better (x y : Word × Word) : Bool :=
  let kx := orderKey f32 x.1.toNat
  let ky := orderKey f32 y.1.toNat
  decide (ky < kx) || (kx == ky && decide (x.2.toNat < y.2.toNat))

/-- An entry at its place in a heap, best first. -/
def heapInsert (e : Word × Word) : List (Word × Word) → List (Word × Word)
  | [] => [e]
  | x :: l => if better e x then e :: x :: l else x :: heapInsert e l

/-- The reply of one auction to an offer (R209). -/
inductive Offered where
  | rejected
  | accepted
  | evicted (token : Word)
  deriving DecidableEq, Repr

/-- The takings after an accepted offer (R209). -/
def takeScore (score : Word) (a : Auction) : Auction :=
  { a with accepts := a.accepts + 1, sum := wd (add32 a.sum.toNat score.toNat) }

/-- An offer at one auction (R209): counted, and accepted where there is room or it is better than the worst. -/
def offer (e : Word × Word) (a : Auction) : Offered × Auction :=
  let a1 := { a with offers := a.offers + 1 }
  if isNanCode f32 e.1.toNat then (.rejected, a1)
  else if a1.heap.length < a1.cap then (.accepted, { takeScore e.1 a1 with heap := heapInsert e a1.heap })
  else match a1.heap.getLast? with
    | some w =>
      if better e w then (.evicted w.2, { takeScore e.1 a1 with heap := heapInsert e a1.heap.dropLast, evicts := a1.evicts + 1 })
      else (.rejected, a1)
    | none => (.rejected, a1)

/-- The reply word (R209). -/
def bidReply (code : Nat) (token : Word) : Word := wd (code * 2 ^ 29 + fieldW token 0 29)

/-- The forwarding of a rejected offer to the replica (R209), in a single step. -/
def forwardOffer (e : Word × Word) (a : Auction) (s : State) : Word × State :=
  match a.replica with
  | none => (bidReply 0 0, s)
  | some (p, c, k) => match findAuction s p c k with
    | none => (bidReply 0 0, s)
    | some r =>
      let x := offer e r
      ((match x.1 with
        | .rejected => bidReply 0 0
        | .accepted => bidReply 5 0
        | .evicted t => bidReply 6 t), putAuction x.2 s)

/-- An offer at the auction of a handle, configured by a team (R209): one whose auction has ended is rejected and counted
nowhere. -/
def applyBid (h : Word) (team : Nat) (e : Word × Word) (s : State) : Word × State :=
  match auctionOf s h with
  | none => (bidReply 0 0, s)
  | some a =>
    if a.team ≠ team then (bidReply 0 0, s)
    else
      let x := offer e a
      let s1 := putAuction x.2 s
      match x.1 with
      | .accepted => (bidReply 1 0, s1)
      | .evicted t => (bidReply 2 t, s1)
      | .rejected => forwardOffer e x.2 s1

/-- A heap as AREAD writes it (R210): the count, then the entries best first. -/
def heapBytes (a : Auction) : List Byte :=
  bytesLE 8 a.heap.length ++ a.heap.flatMap (fun e => bytesLE 4 e.1.toNat ++ bytesLE 4 e.2.toNat)

end Sys2Proof.Machine
end

