-- ==== Sys2Proof/Machine/Flags.lean ====
section
/-! DEFINITION. What is computed into predicates: the conditions of CMP (R81, R107), the functions of PLOG (R81, R108), and
the votes (R132). -/

namespace Sys2Proof.Machine

/-- A condition of CMP between values that compare as lt and eq; un: an operand is a NaN (R81, R107). -/
def condHolds (c : Nat) (lt eq un : Bool) : Bool :=
  match c with
  | 0 => !un && eq
  | 1 => un || !eq
  | 2 => !un && lt
  | 3 => !un && (lt || eq)
  | 4 => !un && !(lt || eq)
  | 5 => !un && !lt
  | 6 => un
  | _ => !un

/-- CMP between two operands under a GM type (R107): signed or unsigned integers, or floating-point values. -/
def compareAs (c ty x y : Nat) : Bool :=
  if ty = 4 || ty = 5 then
    let f := fmtOf ty
    condHolds c (decide (valueKey f x < valueKey f y)) (valueKey f x == valueKey f y) (isNanCode f x || isNanCode f y)
  else condHolds c (decide (intOf ty x < intOf ty y)) (intOf ty x == intOf ty y) false

/-- A function of PLOG (R81, R108). -/
def predFn (f : Nat) (x y : Mask) : Mask :=
  match f with
  | 0 => x &&& y
  | 1 => x ||| y
  | 2 => x ^^^ y
  | 3 => x &&& ~~~y
  | _ => x ||| ~~~y

/-- A vote of a predicate over the enabled lanes (R132). -/
def voteHolds (k : Nat) (en p : Mask) : Bool :=
  match k with
  | 0 => en &&& ~~~p == 0
  | 1 => en &&& p != 0
  | _ => en &&& ~~~p == 0 || en &&& p == 0

/-- Every lane's bit set to one value. -/
def allLanes (b : Bool) : Mask := if b then fullMask 128 else 0

/-- Ends an instruction that writes a predicate in its enabled lanes. -/
def predBack (p : BitVec 3) (v : State → Mask) (s : State) : Result :=
  .next (modCur (fun g => nextPc (writePred p.toNat (enabled g) (v s) g)) s)

end Sys2Proof.Machine
end

