-- ==== Sys2Proof/Machine/Integer.lean ====
section
/-! DEFINITION. The integer and bitwise instructions, the immediate forms, the compares and the predicate operations
(R101 to R109). -/

namespace Sys2Proof.Machine

/-- The elements of a value of a type as numbers (R49). -/
def elemsOf (ty x : Nat) : List Nat := (List.range (tyElems ty)).map (fun e => bits x (e * tyWidth ty) (tyWidth ty))

/-- Applies an element operation to up to three values of one type (R97, R102). -/
def mapElems (ty : Nat) (f : Nat → Nat → Nat → Nat) (x y z : Nat) : Nat :=
  packEls (tyWidth ty) ((List.range (tyElems ty)).map (fun e =>
    f (bits x (e * tyWidth ty) (tyWidth ty)) (bits y (e * tyWidth ty) (tyWidth ty)) (bits z (e * tyWidth ty) (tyWidth ty))))

/-- The element results of R102 on signed or unsigned readings, exact before fit. -/
inductive IntFn where
  | add | sub | mul | mulh | mad | div | rem | min | max | absd | shl | shr | rol
  deriving DecidableEq, Repr

/-- The exact result of an integer operation on elements of width ew (R102); raw is the first operand's bits. -/
def IntFn.exact (f : IntFn) (ew raw : Nat) (x y z : Int) (count : Nat) : Int :=
  match f with
  | .add => x + y
  | .sub => x - y
  | .mul => x * y
  | .mulh => x * y / ((2 ^ ew : Nat) : Int)
  | .mad => x * y + z
  | .div => if y = 0 then -1 else Int.tdiv x y
  | .rem => if y = 0 then x else Int.tmod x y
  | .min => if y < x then y else x
  | .max => if x < y then y else x
  | .absd => if x < y then y - x else x - y
  | .shl => x * ((2 ^ count : Nat) : Int)
  | .shr => x / ((2 ^ count : Nat) : Int)
  | .rol => ((raw * 2 ^ count + raw / 2 ^ (ew - count) : Nat) : Int)

/-- Whether GM[11] applies to an operation (R102); a division by zero gives all ones whatever GM[11] holds. -/
def IntFn.saturates : IntFn → Bool
  | .add | .sub | .mul | .mad | .div | .absd | .shl => true
  | .mulh | .rem | .min | .max | .shr | .rol => false

/-- One result element of R102. -/
def intElem (f : IntFn) (ty : Nat) (sat : Bool) (x y z : Nat) : Nat :=
  let ew := tyWidth ty
  let r := f.exact ew x (intOf ty x) (intOf ty y) (intOf ty z) (y % ew)
  if f == .div && y == 0 then 2 ^ ew - 1 else fitTy ty (sat && f.saturates) r

/-- The words of a result value of a type. -/
def wordsOf (ty x : Nat) : List Nat := if ty64 ty then [x % 2 ^ 32, x / 2 ^ 32 % 2 ^ 32] else [x % 2 ^ 32]

/-- The result registers of a per-lane function on values of n registers (R25). -/
def laneResults (g : Group) (srcs : List RegVal) (n : Nat) (f : Nat → Nat) : List RegVal :=
  (List.range n).map (fun k => resultOf g srcs (fun l => wd (f l / 2 ^ (32 * k))))

/-- The A result of ADD and SUB (R25): bases and strides combined; none where the table gives no A. -/
def affineSum (neg : Bool) (x y : RegVal) : Option RegVal :=
  let op := fun (p q : Word) => if neg then p - q else p + q
  match x, y with
  | .a b s, .u v => some (.a (op b v) s)
  | .u v, .a b s => some (.a (op v b) (op 0 s))
  | .a b s, .a c t => some (.a (op b c) (op s t))
  | _, _ => none

/-- The A result of MUL (R25). -/
def affineMul (x y : RegVal) : Option RegVal :=
  match x, y with
  | .a b s, .u v => some (.a (b * v) (s * v))
  | .u v, .a b s => some (.a (b * v) (s * v))
  | _, _ => none

/-- The A result of SHL (R25). -/
def affineShl (x y : RegVal) : Option RegVal :=
  match x, y with
  | .a b s, .u v => some (.a (b <<< (v.toNat % 32)) (s <<< (v.toNat % 32)))
  | _, _ => none

/-- The A result that R25 gives an operation under a GM type; none where it gives U or G. -/
def affineResult (f : IntFn) (ty : Nat) (sat : Bool) (x y : RegVal) : Option RegVal :=
  if 2 ≤ ty || sat then none
  else match f with
    | .add => affineSum false x y
    | .sub => affineSum true x y
    | .mul => affineMul x y
    | .shl => affineShl x y
    | .mulh => none | .mad => none | .div => none | .rem => none | .min => none | .max => none | .absd => none | .shr => none
    | .rol => none

/-- A three-register integer operation (R102) over operands d, a, b. -/
def intOp (f : IntFn) (od oa ob : Opnd) (s : State) : Result :=
  let g := s.cur
  let ty := gmType g
  let srcs := opWords s oa ++ opWords s ob ++ (if f == .mad then opWords s od else [])
  let lane := fun l => mapElems ty (intElem f ty (gmSat g)) (opNat s oa l) (opNat s ob l) (opNat s od l)
  match affineResult f ty (gmSat g) (opWord s oa 0) (opWord s ob 0) with
  | some r => writeBack (enabled g) (destWrites g od [r]) s
  | none => writeBack (enabled g) (destWrites g od (laneResults g srcs (tyRegs ty) lane)) s

/-- The operands d, a, b of a type that may take pairs. -/
def tyOp (g : Group) (o : Opnd) : Opnd := o.pair (ty64 (gmType g))

/-- ADD and the operations like it: d, a and b of the GM type. -/
def intThree (i : Instr) (f : IntFn) (d a b : RegCode) (s : State) : Result :=
  issue i (fun s => intOp f (tyOp s.cur (wrOp d)) (tyOp s.cur (rdOp 1 a)) (tyOp s.cur (rdOp 2 b)) s) s

/-- A bitwise operation on whole registers, under any type (R101, R102). -/
def bitThree (i : Instr) (f : Word → Word → Word) (d a b : RegCode) (s : State) : Result :=
  issue i (fun s =>
    let g := s.cur
    let oa := tyOp g (rdOp 1 a)
    let ob := tyOp g (rdOp 2 b)
    let vs := (List.range (tyRegs (gmType g))).map (fun k =>
      resultOf g (opWords s oa ++ opWords s ob) (fun l => f (opLane s oa k l) (opLane s ob k l)))
    writeBack (enabled g) (destWrites g (tyOp g (wrOp d)) vs) s) s

/-- An operation on the elements of a, with an immediate or none (R103, R104). -/
def intUnary (i : Instr) (f : Nat → Nat → Bool → Nat) (d a : RegCode) (s : State) : Result :=
  issue i (fun s =>
    let g := s.cur
    let ty := gmType g
    let oa := tyOp g (rdOp 1 a)
    let lane := fun l => mapElems ty (fun x _ _ => f ty x (gmSat g)) (opNat s oa l) 0 0
    writeBack (enabled g) (destWrites g (tyOp g (wrOp d)) (laneResults g (opWords s oa) (tyRegs ty) lane)) s) s

/-- ADD (R102). -/
def execAdd (d a b : RegCode) (s : State) : Result := intThree (.add d a b) .add d a b s
/-- SUB (R102). -/
def execSub (d a b : RegCode) (s : State) : Result := intThree (.sub d a b) .sub d a b s
/-- MUL (R102). -/
def execMul (d a b : RegCode) (s : State) : Result := intThree (.mul d a b) .mul d a b s
/-- MULH (R102). -/
def execMulh (d a b : RegCode) (s : State) : Result := intThree (.mulh d a b) .mulh d a b s
/-- MAD (R102): d is read, then written. -/
def execMad (d a b : RegCode) (s : State) : Result :=
  issue (.mad d a b) (fun s => intOp .mad (tyOp s.cur (rwOp d)) (tyOp s.cur (rdOp 1 a)) (tyOp s.cur (rdOp 2 b)) s) s
/-- DIV (R102). -/
def execDiv (d a b : RegCode) (s : State) : Result := intThree (.div d a b) .div d a b s
/-- REM (R102). -/
def execRem (d a b : RegCode) (s : State) : Result := intThree (.rem d a b) .rem d a b s
/-- MIN (R102). -/
def execMin (d a b : RegCode) (s : State) : Result := intThree (.min d a b) .min d a b s
/-- MAX (R102). -/
def execMax (d a b : RegCode) (s : State) : Result := intThree (.max d a b) .max d a b s
/-- ABSD (R102). -/
def execAbsd (d a b : RegCode) (s : State) : Result := intThree (.absd d a b) .absd d a b s
/-- AND (R102). -/
def execAnd (d a b : RegCode) (s : State) : Result := bitThree (.and d a b) (fun x y => x &&& y) d a b s
/-- OR (R102). -/
def execOr (d a b : RegCode) (s : State) : Result := bitThree (.or d a b) (fun x y => x ||| y) d a b s
/-- XOR (R102). -/
def execXor (d a b : RegCode) (s : State) : Result := bitThree (.xor d a b) (fun x y => x ^^^ y) d a b s
/-- ANDN (R102): a AND NOT b. -/
def execAndn (d a b : RegCode) (s : State) : Result := bitThree (.andn d a b) (fun x y => x &&& ~~~y) d a b s
/-- SHL (R102): the count is the element of b modulo the element width. -/
def execShl (d a b : RegCode) (s : State) : Result := intThree (.shl d a b) .shl d a b s
/-- SHR (R102). -/
def execShr (d a b : RegCode) (s : State) : Result := intThree (.shr d a b) .shr d a b s
/-- ROL (R102). -/
def execRol (d a b : RegCode) (s : State) : Result := intThree (.rol d a b) .rol d a b s

/-- LI (R103): U, whatever the GM type. -/
def execLi (d : RegCode) (i : BitVec 16) (s : State) : Result :=
  issue (.li d i) (fun s => writeBack (enabled s.cur) (destWrites s.cur (wrOp d) [.u (i.setWidth 32)]) s) s

/-- LIH (R103): reads its own destination, which must be U. -/
def execLih (d : RegCode) (i : BitVec 16) (s : State) : Result :=
  issue (.lih d i) (fun s =>
    if enabled s.cur = 0 then .next (modCur nextPc s)
    else orTrap (mustBeU s (rwOp d))
      (fun s => writeBack (enabled s.cur)
        (destWrites s.cur (rwOp d) [.u (i ++ (uWord s (rwOp d)).setWidth 16)]) s) s) s

/-- A sign-extended 8-bit immediate as a 32-bit word. -/
def simm8 (i : BitVec 8) : Word := i.signExtend 32

/-- ADDI (R103): under i32 and n32 with saturation off an A source gives A (R25). -/
def execAddi (d a i : RegCode) (s : State) : Result :=
  issue (.addi d a i) (fun s =>
    let g := s.cur
    let ty := gmType g
    let oa := tyOp g (rdOp 1 a)
    let lane := fun l => mapElems ty (fun x _ _ => fitTy ty (gmSat g) (intOf ty x + i.toInt)) (opNat s oa l) 0 0
    let vs := match affineResult .add ty (gmSat g) (opWord s oa 0) (.u (simm8 i)) with
      | some r => [r]
      | none => laneResults g (opWords s oa) (tyRegs ty) lane
    writeBack (enabled g) (destWrites g (tyOp g (wrOp d)) vs) s) s

/-- SHLI (R103): an A source gives A (R25). -/
def execShli (d a i : RegCode) (s : State) : Result :=
  issue (.shli d a i) (fun s =>
    let g := s.cur
    let ty := gmType g
    let oa := tyOp g (rdOp 1 a)
    let lane := fun l => mapElems ty
      (fun x _ _ => fitTy ty (gmSat g) (intOf ty x * ((2 ^ (i.toNat % tyWidth ty) : Nat) : Int))) (opNat s oa l) 0 0
    let vs := match affineResult .shl ty (gmSat g) (opWord s oa 0) (.u (i.setWidth 32)) with
      | some r => [r]
      | none => laneResults g (opWords s oa) (tyRegs ty) lane
    writeBack (enabled g) (destWrites g (tyOp g (wrOp d)) vs) s) s

/-- SHRI (R103). -/
def execShri (d a i : RegCode) (s : State) : Result :=
  intUnary (.shri d a i) (fun ty x _ => wrapTo (tyWidth ty) (intOf ty x / ((2 ^ (i.toNat % tyWidth ty) : Nat) : Int))) d a s

/-- ANDI (R103). -/
def execAndi (d a i : RegCode) (s : State) : Result := intUnary (.andi d a i) (fun _ x _ => x &&& i.toNat) d a s

/-- POPC (R104). -/
def execPopc (d a : RegCode) (s : State) : Result := intUnary (.popc d a) (fun ty x _ => popCount (tyWidth ty) x) d a s
/-- CLZ (R104). -/
def execClz (d a : RegCode) (s : State) : Result :=
  intUnary (.clz d a) (fun ty x _ => tyWidth ty - bitLength (tyWidth ty) x) d a s
/-- BREV (R104). -/
def execBrev (d a : RegCode) (s : State) : Result := intUnary (.brev d a) (fun ty x _ => reverseBits (tyWidth ty) x) d a s
/-- NEG (R104). -/
def execNeg (d a : RegCode) (s : State) : Result := intUnary (.neg d a) (fun ty x sat => fitTy ty sat (0 - intOf ty x)) d a s
/-- ABS (R104). -/
def execAbs (d a : RegCode) (s : State) : Result :=
  intUnary (.abs d a) (fun ty x sat => fitTy ty sat (((intOf ty x).natAbs : Nat) : Int)) d a s

/-- NOT (R104): bitwise, under any type. -/
def execNot (d a : RegCode) (s : State) : Result :=
  issue (.not d a) (fun s =>
    let g := s.cur
    let oa := tyOp g (rdOp 1 a)
    let vs := (List.range (tyRegs (gmType g))).map (fun k => resultOf g (opWords s oa) (fun l => ~~~(opLane s oa k l)))
    writeBack (enabled g) (destWrites g (tyOp g (wrOp d)) vs) s) s

/-- MOV (R104): the value and its shape (R25). -/
def execMov (d a : RegCode) (s : State) : Result :=
  issue (.mov d a) (fun s =>
    writeBack (enabled s.cur) (destWrites s.cur (tyOp s.cur (wrOp d)) (opWords s (tyOp s.cur (rdOp 1 a)))) s) s

/-- The field of BFX and BFI (R105): its position and its length. -/
def bitField (b : Word) : Nat × Nat :=
  let pos := fieldW b 0 5
  (pos, min (min (fieldW b 8 6) 32) (32 - pos))

/-- BFX of one lane (R105). -/
def bfxLane (signed : Bool) (a b : Word) : Nat :=
  let (pos, len) := bitField b
  if len = 0 then 0 else if signed then wrapTo 32 (toSigned len (fieldW a pos len)) else fieldW a pos len

/-- BFI of one lane (R105). -/
def bfiLane (d a b : Word) : Nat :=
  let (pos, len) := bitField b
  d.toNat - fieldW d pos len * 2 ^ pos + fieldW a 0 len * 2 ^ pos

/-- BFX (R105). -/
def execBfx (d a b : RegCode) (s : State) : Result :=
  issue (.bfx d a b) (fun s =>
    let g := s.cur
    let lane := fun l => bfxLane (gmType g == 0) (opLane s (rdOp 1 a) 0 l) (opLane s (rdOp 2 b) 0 l)
    writeBack (enabled g) (destWrites g (wrOp d) (laneResults g (opWords s (rdOp 1 a) ++ opWords s (rdOp 2 b)) 1 lane)) s) s

/-- BFI (R105): d is read as a source. -/
def execBfi (d a b : RegCode) (s : State) : Result :=
  issue (.bfi d a b) (fun s =>
    let g := s.cur
    let lane := fun l => bfiLane (opLane s (rwOp d) 0 l) (opLane s (rdOp 1 a) 0 l) (opLane s (rdOp 2 b) 0 l)
    let srcs := opWords s (rwOp d) ++ opWords s (rdOp 1 a) ++ opWords s (rdOp 2 b)
    writeBack (enabled g) (destWrites g (rwOp d) (laneResults g srcs 1 lane)) s) s

/-- SEL (R106): d := a where d is non-zero, and b elsewhere. -/
def execSel (d a b : RegCode) (s : State) : Result :=
  issue (.sel d a b) (fun s =>
    let g := s.cur
    let od := tyOp g (rwOp d)
    let oa := tyOp g (rdOp 1 a)
    let ob := tyOp g (rdOp 2 b)
    let lane := fun l => if opNat s od l ≠ 0 then opNat s oa l else opNat s ob l
    writeBack (enabled g)
      (destWrites g od (laneResults g (opWords s od ++ opWords s oa ++ opWords s ob) (tyRegs (gmType g)) lane)) s) s

/-- CMP (R107). -/
def execCmp (c : BitVec 5) (p : BitVec 3) (a b : RegCode) (s : State) : Result :=
  issue (.cmp c p a b) (predBack p (fun s =>
    maskWhere (width s.cur) (fun l =>
      compareAs c.toNat (gmType s.cur) (opNat s (tyOp s.cur (rdOp 1 a)) l) (opNat s (tyOp s.cur (rdOp 2 b)) l)))) s

/-- PLOG (R108). -/
def execPlog (f : BitVec 5) (d a b : BitVec 3) (s : State) : Result :=
  issue (.plog f d a b) (predBack d (fun s => predFn f.toNat (readPred s.cur a.toNat) (readPred s.cur b.toNat))) s

/-- MOVP, x = 0 (R109): 1 where the predicate is set; p0 is a U source of value 1 (R100). -/
def execMovpToRegister (d : RegCode) (a : BitVec 3) (s : State) : Result :=
  issue (.movpToRegister d a) (fun s =>
    let g := s.cur
    let v : RegVal := if a = 0 then .u 1
      else .g ((List.range (width g)).map (fun l => wd (boolNat ((readPred g a.toNat).getLsbD l))))
    writeBack (enabled g) (destWrites g (wrOp d) [v]) s) s

/-- MOVP, x = 1 (R109): tests 32 bits whatever the GM type. -/
def execMovpToPredicate (p : BitVec 3) (a : RegCode) (s : State) : Result :=
  issue (.movpToPredicate p a) (predBack p (fun s =>
    maskWhere (width s.cur) (fun l => opLane s (rdOp 1 a) 0 l != 0))) s

end Sys2Proof.Machine
end

