-- ==== Sys2Proof/Machine/FloatOps.lean ====
section
/-! DEFINITION. The floating-point instructions, conversion, DOT4, quantising and the Hadamard transform (R134 to R149). -/

namespace Sys2Proof.Machine

/-- An element-wise operation on a and b, and on d where it reads d, under the GM type and mode (R135 to R137). -/
def floatThree (i : Instr) (od oa ob : Opnd) (useD : Bool) (f : Fmt → Nat → Nat → Nat → Nat → Nat) (s : State) : Result :=
  issue i (fun s =>
    let g := s.cur
    let ty := gmType g
    let srcs := opWords s oa ++ opWords s ob ++ (if useD then opWords s od else [])
    let lane := fun l => mapElems ty (f (fmtOf ty) (gmRound g)) (opNat s oa l) (opNat s ob l) (opNat s od l)
    writeBack (enabled g) (destWrites g od (laneResults g srcs (tyRegs ty) lane)) s) s

/-- An element-wise operation on a (R139). -/
def floatUnary (i : Instr) (f : Fmt → Nat → Nat → Nat) (d a : RegCode) (s : State) : Result :=
  issue i (fun s =>
    let g := s.cur
    let ty := gmType g
    let oa := tyOp g (rdOp 1 a)
    let lane := fun l => mapElems ty (fun x _ _ => f (fmtOf ty) (gmRound g) x) (opNat s oa l) 0 0
    writeBack (enabled g) (destWrites g (tyOp g (wrOp d)) (laneResults g (opWords s oa) (tyRegs ty) lane)) s) s

/-- FADD of two codes (R137). -/
def faddF (f : Fmt) (m x y : Nat) : Nat := encodeF f m (sumF m [decodeF f x, decodeF f y])

/-- FMA of three codes, fused (R137). -/
def fmaF (f : Fmt) (m x y z : Nat) : Nat := encodeF f m (sumF m [(decodeF f x).mul (decodeF f y), decodeF f z])

/-- FADD (R137). -/
def execFadd (d a b : RegCode) (s : State) : Result :=
  floatThree (.fadd d a b) (tyOp s.cur (wrOp d)) (tyOp s.cur (rdOp 1 a)) (tyOp s.cur (rdOp 2 b)) false
    (fun f m x y _ => faddF f m x y) s

/-- FSUB (R137). -/
def execFsub (d a b : RegCode) (s : State) : Result :=
  floatThree (.fsub d a b) (tyOp s.cur (wrOp d)) (tyOp s.cur (rdOp 1 a)) (tyOp s.cur (rdOp 2 b)) false
    (fun f m x y _ => encodeF f m (sumF m [decodeF f x, (decodeF f y).neg])) s

/-- FMUL (R137). -/
def execFmul (d a b : RegCode) (s : State) : Result :=
  floatThree (.fmul d a b) (tyOp s.cur (wrOp d)) (tyOp s.cur (rdOp 1 a)) (tyOp s.cur (rdOp 2 b)) false
    (fun f m x y _ => encodeF f m ((decodeF f x).mul (decodeF f y))) s

/-- FMA (R137): d is read, then written. -/
def execFma (d a b : RegCode) (s : State) : Result :=
  floatThree (.fma d a b) (tyOp s.cur (rwOp d)) (tyOp s.cur (rdOp 1 a)) (tyOp s.cur (rdOp 2 b)) true
    (fun f m x y z => fmaF f m x y z) s

/-- FMS (R137): x × y − z. -/
def execFms (d a b : RegCode) (s : State) : Result :=
  floatThree (.fms d a b) (tyOp s.cur (rwOp d)) (tyOp s.cur (rdOp 1 a)) (tyOp s.cur (rdOp 2 b)) true
    (fun f m x y z => encodeF f m (sumF m [(decodeF f x).mul (decodeF f y), (decodeF f z).neg])) s

/-- FDIV (R137). -/
def execFdiv (d a b : RegCode) (s : State) : Result :=
  floatThree (.fdiv d a b) (tyOp s.cur (wrOp d)) (tyOp s.cur (rdOp 1 a)) (tyOp s.cur (rdOp 2 b)) false
    (fun f m x y _ => divF f m (decodeF f x) (decodeF f y)) s

/-- FMIN (R138). -/
def execFmin (d a b : RegCode) (s : State) : Result :=
  floatThree (.fmin d a b) (tyOp s.cur (wrOp d)) (tyOp s.cur (rdOp 1 a)) (tyOp s.cur (rdOp 2 b)) false
    (fun f _ x y _ => minF f x y) s

/-- FMAX (R138). -/
def execFmax (d a b : RegCode) (s : State) : Result :=
  floatThree (.fmax d a b) (tyOp s.cur (wrOp d)) (tyOp s.cur (rdOp 1 a)) (tyOp s.cur (rdOp 2 b)) false
    (fun f _ x y _ => maxF f x y) s

/-- FSCL (R142): k is the single register b as a signed integer, for every element of the lane. -/
def execFscl (d a b : RegCode) (s : State) : Result :=
  issue (.fscl d a b) (fun s =>
    let g := s.cur
    let ty := gmType g
    let oa := tyOp g (rdOp 1 a)
    let lane := fun l => mapElems ty
      (fun x _ _ => scaleF (fmtOf ty) (gmRound g) (opLane s (rdOp 2 b) 0 l).toInt (decodeF (fmtOf ty) x)) (opNat s oa l) 0 0
    writeBack (enabled g)
      (destWrites g (tyOp g (wrOp d)) (laneResults g (opWords s oa ++ opWords s (rdOp 2 b)) (tyRegs ty) lane)) s) s

/-- FSQRT (R139). -/
def execFsqrt (d a : RegCode) (s : State) : Result := floatUnary (.fsqrt d a) (fun f m x => sqrtF f m (decodeF f x)) d a s
/-- FRCP (R139, R140). -/
def execFrcp (d a : RegCode) (s : State) : Result := floatUnary (.frcp d a) (fun _ _ x => rcpF x) d a s
/-- FRSQ (R139, R140). -/
def execFrsq (d a : RegCode) (s : State) : Result := floatUnary (.frsq d a) (fun _ _ x => rsqF x) d a s
/-- FEX2 (R139, R140). -/
def execFex2 (d a : RegCode) (s : State) : Result := floatUnary (.fex2 d a) (fun _ _ x => ex2F x) d a s
/-- FLG2 (R139, R140). -/
def execFlg2 (d a : RegCode) (s : State) : Result := floatUnary (.flg2 d a) (fun _ _ x => lg2F x) d a s
/-- FSIN (R139, R140). -/
def execFsin (d a : RegCode) (s : State) : Result := floatUnary (.fsin d a) (fun _ _ x => sinF x) d a s
/-- FCOS (R139, R140). -/
def execFcos (d a : RegCode) (s : State) : Result := floatUnary (.fcos d a) (fun _ _ x => cosF x) d a s

/-- A sign operation: the canonical NaN for a NaN (R139). -/
def signOp (f : Fmt) (neg : Bool) (x : Nat) : Nat := if isNanCode f x then f.nan else withSign f neg (magBits f x)

/-- FABS (R139). -/
def execFabs (d a : RegCode) (s : State) : Result := floatUnary (.fabs d a) (fun f _ x => signOp f false x) d a s
/-- FNEG (R139). -/
def execFneg (d a : RegCode) (s : State) : Result := floatUnary (.fneg d a) (fun f _ x => signOp f (!signBit f x) x) d a s
/-- FRND (R139). -/
def execFrnd (d a : RegCode) (s : State) : Result := floatUnary (.frnd d a) (fun f m x => rndF f m (decodeF f x)) d a s
/-- FCLS (R141). -/
def execFcls (d a : RegCode) (s : State) : Result := floatUnary (.fcls d a) (fun f _ x => classMask f x) d a s

/-- Every word of an operand in one lane, as one number, the first register lowest. -/
def opAll (s : State) (o : Opnd) (l : Nat) : Nat := packEls 32 ((List.range o.span).map (fun k => (opLane s o k l).toNat))

/-- The elements of a CVT in one lane (R143, R144): element i of the source lies at bit i × its width, and so does element i
of the result. -/
def cvtLane (src dst mode : Nat) (sat : Bool) (x : Nat) : Nat :=
  packEls (tyWidth dst) ((List.range (cvtCount src dst)).map (fun e => convertEl src dst mode sat (bits x (e * tyWidth src) (tyWidth src))))

/-- CVT (R143, R144). -/
def execCvt (d a x : RegCode) (s : State) : Result :=
  issue (.cvt d a x) (fun s =>
    let g := s.cur
    let oa := cvtSrc (gmType g) x.toNat a
    let od := cvtDst (gmType g) x.toNat d
    let lane := fun l => cvtLane (gmType g) x.toNat (gmRound g) (gmSat g) (opAll s oa l)
    writeBack (enabled g) (destWrites g od (laneResults g (opWords s oa) od.span lane)) s) s

/-- DOT4 of one lane (R145): the exact sum, rounded or fitted once. -/
def dotLane (ty mode : Nat) (sat : Bool) (x y z : Nat) : Nat :=
  let xs := elemsOf ty x
  let ys := elemsOf ty y
  if tyInt ty then
    let acc := if tySigned ty then 0 else 1
    fitTy acc sat ((xs.zip ys).foldl (fun t p => t + intOf ty p.1 * intOf ty p.2) (intOf acc z))
  else
    let f := fmtOf ty
    encodeF f32 mode (sumF mode (decodeF f32 z :: (xs.zip ys).map (fun p => (decodeF f p.1).mul (decodeF f p.2))))

/-- DOT4 (R145): d is read, then written. -/
def execDot4 (d a b : RegCode) (s : State) : Result :=
  issue (.dot4 d a b) (fun s =>
    let g := s.cur
    let lane := fun l => dotLane (gmType g) (gmRound g) (gmSat g) (opNat s (rdOp 1 a) l) (opNat s (rdOp 2 b) l) (opNat s (rwOp d) l)
    writeBack (enabled g)
      (destWrites g (rwOp d) (laneResults g (opWords s (rdOp 1 a) ++ opWords s (rdOp 2 b) ++ opWords s (rwOp d)) 1 lane)) s) s

/-- QNT8 (R146, R65): the packed word, then the scale code. -/
def execQnt8 (d a b : RegCode) (s : State) : Result :=
  issue (.qnt8 d a b) (fun s =>
    let g := s.cur
    let oa := (rdOp 1 a).many 8 false
    let lane := fun l =>
      let r := quantise8 ((List.range 8).map (fun k => (opLane s oa k l).toNat)) (opLane s (rdOp 2 b) 0 l).toNat
      r.1 + 2 ^ 32 * r.2
    writeBack (enabled g)
      (destWrites g ((wrOp d).many 2 false) (laneResults g (opWords s oa ++ opWords s (rdOp 2 b)) 2 lane)) s) s

/-- DQN8 (R147, R66): bits [31:8] of the second register are ignored. -/
def execDqn8 (d a b : RegCode) (s : State) : Result :=
  issue (.dqn8 d a b) (fun s =>
    let g := s.cur
    let oa := (rdOp 1 a).many 2 false
    let lane := fun l => packEls 32 ((List.range 8).map (fun e =>
      dequantEl ((opLane s oa 1 l).toNat % 256) (opLane s (rdOp 2 b) 0 l).toNat (bits (opLane s oa 0 l).toNat (4 * e) 4)))
    writeBack (enabled g)
      (destWrites g ((wrOp d).many 8 false) (laneResults g (opWords s oa ++ opWords s (rdOp 2 b)) 8 lane)) s) s

/-- SHAPE for the lowest enabled block of HADM that is not complete in the issuing strand (R149). -/
def hadmBlock (n r : Nat) (g : Group) : Option Trap :=
  ((lanesOf (enabled g)).find? (fun l =>
    (List.range n).any (fun j => !(g.strand.mask ||| g.exited).getLsbD (l / n * n + j)))).map
    (fun l => laneTrap .shape (l / n * n) (dw r))

/-- HADM (R148, R149): the result is G (R25). -/
def execHadm (d a b : RegCode) (s : State) : Result :=
  issueStrand (.hadm d a b) (fun s =>
    let g := s.cur
    let oa := (rdOp 1 a).many 3 false
    let r := effReg g oa
    let n := fieldW (uWord s (rdOp 2 b)) 0 6
    let inverse := (uWord s (rdOp 2 b)).getLsbD 8
    let seed := pairOf (opLane s oa 1 0) (opLane s oa 2 0)
    orTrap (firstSome [
        if (opWord s oa 1).isU then none else some (trapOf .shape (dw (r + 1))),
        if (opWord s oa 2).isU then none else some (trapOf .shape (dw (r + 2))),
        mustBeU s (rdOp 2 b),
        if (n == 8 || n == 16 || n == 32) && decide (n ≤ width g) then none else some (trapOf .width (dw n)),
        hadmBlock n r g])
      (fun s =>
        let block := fun l => hadamard inverse seed n ((List.range n).map (fun j => (opLane s oa 0 (l / n * n + j)).toNat))
        let v : RegVal := .g ((List.range (width g)).map (fun l =>
          if (enabled g).getLsbD l then wd ((block l).getD (l % n) 0) else 0))
        writeBack (enabled g) (destWrites g (wrOp d) [v]) s) s) s

end Sys2Proof.Machine
end

