-- ==== Sys2Proof/Machine/CrossLane.lean ====
section
/-! DEFINITION. The cross-lane instructions (R129 to R133). -/

namespace Sys2Proof.Machine

/-- Whether lane j is a valid source for reader lane l (R129). -/
def validSource (g : Group) (j l : Nat) : Bool :=
  decide (j < width g) && g.kmask.getLsbD j && g.strand.mask.getLsbD j && g.kmask.getLsbD l

/-- One lane of a shuffle (R130): lane j's value of a, or the lane's own where j is not valid. -/
def shuffled (s : State) (o : Opnd) (j l : Nat) : Word := if validSource s.cur j l then opLane s o 0 j else opLane s o 0 l

/-- A shuffle whose source lane is a function of the reader lane and of b (R130). -/
def shuffle (i : Instr) (j : Nat → Word → Nat) (d a b : RegCode) (s : State) : Result :=
  issue i (fun s =>
    let g := s.cur
    let r := resultOf g (opWords s (rdOp 1 a) ++ opWords s (rdOp 2 b))
      (fun l => shuffled s (rdOp 1 a) (j l (opLane s (rdOp 2 b) 0 l)) l)
    writeBack (enabled g) (destWrites g (wrOp d) [r]) s) s

/-- SHFL (R130). -/
def execShfl (d a b : RegCode) (s : State) : Result := shuffle (.shfl d a b) (fun _ v => v.toNat) d a b s

/-- SHFX (R130). -/
def execShfx (d a b : RegCode) (s : State) : Result := shuffle (.shfx d a b) (fun l v => (wd l ^^^ v).toNat) d a b s

/-- BCST (R130): U where the source lane is valid for every enabled lane. -/
def execBcst (d a b : RegCode) (s : State) : Result :=
  issueStrand (.bcst d a b) (fun s =>
    orTrap (mustBeU s (rdOp 2 b)) (fun s =>
      let g := s.cur
      let j := (uWord s (rdOp 2 b)).toNat
      let r := if (lanesOf (enabled g)).all (fun l => validSource g j l) then .u (opLane s (rdOp 1 a) 0 j)
        else resultOf g (opWords s (rdOp 1 a) ++ opWords s (rdOp 2 b)) (fun l => shuffled s (rdOp 1 a) j l)
      writeBack (enabled g) (destWrites g (wrOp d) [r]) s) s) s

/-- QXCH (R130): every lane of the quad can be read. -/
def execQxch (d a sel : RegCode) (s : State) : Result :=
  issue (.qxch d a sel) (fun s =>
    let g := s.cur
    let r := resultOf g (opWords s (rdOp 1 a)) (fun l => opLane s (rdOp 1 a) 0 (l / 4 * 4 + bits sel.toNat (2 * (l % 4)) 2))
    writeBack (enabled g) (destWrites g (wrOp d) [r]) s) s

/-- The words of a lane mask, low first (R130, R131). -/
def maskWords (n : Nat) (m : Mask) : List Word := (List.range n).map (fun k => m.extractLsb' (32 * k) 32)

/-- BALLOT (R131): U results. -/
def execBallot (d : RegCode) (p : BitVec 3) (s : State) : Result :=
  issue (.ballot d p) (fun s =>
    let g := s.cur
    let v := maskWords (maskRegs g) (enabled g &&& readPred g p.toNat)
    writeBack (enabled g) (destWrites g (maskDst g d) (v.map RegVal.u)) s) s

/-- VOTE (R132). -/
def execVote (k : BitVec 5) (p q : BitVec 3) (s : State) : Result :=
  issue (.vote k p q) (predBack p (fun s => allLanes (voteHolds k.toNat (enabled s.cur) (readPred s.cur q.toNat)))) s

/-- MATCH (R130): the members whose value equals the lane's; the result is G (R25). -/
def execMatchLanes (d a : RegCode) (s : State) : Result :=
  issue (.matchLanes d a) (fun s =>
    let g := s.cur
    let oa := tyOp g (rdOp 1 a)
    let ms := lanesOf (members g)
    let m := fun l => if g.kmask.getLsbD l then maskOfLanes (ms.filter (fun k => opNat s oa k == opNat s oa l)) else 0
    writeBack (enabled g)
      (destWrites g (maskDst g d) ((List.range (maskRegs g)).map (fun k =>
        .g ((List.range (width g)).map (fun l => (m l).extractLsb' (32 * k) 32))))) s) s

/-- The identity of a reduction under a floating-point type (R133). -/
def floatIdentity (f : Fmt) (x : Nat) : Nat :=
  match x with
  | 1 => infCode f false
  | 2 => infCode f true
  | 3 => 2 ^ f.width - 1
  | _ => 0

/-- A reduction of values under f32 or f64, from the lowest member on (R133); a NaN that results is the canonical one (R136). -/
def floatCombine (f : Fmt) (mode x : Nat) (l : List Nat) : Nat :=
  match l with
  | [] => floatIdentity f x
  | v :: l =>
    match x with
    | 0 => let r := l.foldl (fun a y => faddF f mode a y) v; if isNanCode f r then f.nan else r
    | 1 => let r := l.foldl (fun a y => minF f a y) v; if isNanCode f r then f.nan else r
    | 2 => let r := l.foldl (fun a y => maxF f a y) v; if isNanCode f r then f.nan else r
    | 3 => l.foldl (fun a y => a &&& y) v
    | 4 => l.foldl (fun a y => a ||| y) v
    | _ => l.foldl (fun a y => a ^^^ y) v

/-- A reduction of elements of an integer type (R133): an add is exact and fitted once. -/
def intCombine (ty : Nat) (sat : Bool) (x : Nat) (l : List Nat) : Nat :=
  let zs := l.map (intOf ty)
  match x with
  | 0 => fitTy ty sat (zs.foldl (fun a y => a + y) 0)
  | 1 => wrapTo (tyWidth ty) (zs.foldl (fun a y => if y < a then y else a) (intMax ty))
  | 2 => wrapTo (tyWidth ty) (zs.foldl (fun a y => if a < y then y else a) (intMin ty))
  | 3 => l.foldl (fun a y => a &&& y) (2 ^ tyWidth ty - 1)
  | 4 => l.foldl (fun a y => a ||| y) 0
  | _ => l.foldl (fun a y => a ^^^ y) 0

/-- The combination of the values of a list of lanes, in order, under the GM type (R133). -/
def combine (g : Group) (x : Nat) (l : List Nat) : Nat :=
  let ty := gmType g
  if tyFloat ty then floatCombine (fmtOf ty) (gmRound g) x l
  else packEls (tyWidth ty) ((List.range (tyElems ty)).map (fun e =>
    intCombine ty (gmSat g) x (l.map (fun v => bits v (e * tyWidth ty) (tyWidth ty)))))

/-- GRED (R133): U where a is U (R25). -/
def execGred (d a : RegCode) (x : BitVec 3) (s : State) : Result :=
  issue (.gred d a x) (fun s =>
    let g := s.cur
    let oa := tyOp g (rdOp 1 a)
    let v := combine g x.toNat ((lanesOf (members g)).map (opNat s oa))
    writeBack (enabled g) (destWrites g (tyOp g (wrOp d)) (laneResults g (opWords s oa) (tyRegs (gmType g)) (fun _ => v))) s) s

/-- GSCAN (R133): inclusive, or exclusive for e = 1; the result is G (R25). -/
def execGscan (d a : RegCode) (e : BitVec 1) (x : BitVec 3) (s : State) : Result :=
  issue (.gscan d a e x) (fun s =>
    let g := s.cur
    let oa := tyOp g (rdOp 1 a)
    let upTo := fun l => (lanesOf (members g)).filter (fun m => decide (m < l) || (e == 0 && m == l))
    let v := fun l => combine g x.toNat ((upTo l).map (opNat s oa))
    writeBack (enabled g)
      (destWrites g (tyOp g (wrOp d)) ((List.range (tyRegs (gmType g))).map (fun k =>
        .g ((List.range (width g)).map (fun l => wd (v l / 2 ^ (32 * k))))))) s) s

end Sys2Proof.Machine
end

