-- ==== Sys2Proof/Machine/Paging.lean ====
section
/-! DEFINITION. Address forms, page tables, TLBs and faults (R39, R124, R151, R152, R351 to R358), and the fetch of an
instruction. -/

namespace Sys2Proof.Machine

/-- What an access needs of a translation (R353). -/
inductive AccKind where
  | rd | wr | at | feRead | feWrite | fetch
  deriving DecidableEq, Repr

/-- The kind field of a fault record (R356). -/
def AccKind.faultKind : AccKind → Nat
  | .rd => 0 | .wr => 1 | .at => 2 | .feRead => 3 | .feWrite => 3 | .fetch => 4

/-- Whether an access is a write for dirty tracking (R358). -/
def AccKind.writes : AccKind → Bool
  | .wr | .at | .feWrite => true
  | .rd | .feRead | .fetch => false

/-- Whether the permissions allow an access (R353; a full/empty operation that changes the word or its bit writes). -/
def permits (p : Perm) : AccKind → Bool
  | .rd => p.rd
  | .wr => p.wr
  | .at => p.at_
  | .feRead => p.fe && p.rd
  | .feWrite => p.fe && p.rd && p.wr
  | .fetch => p.x

/-- A leaf as a walk finds it: the page, its frame, and where the leaf's entry lies. -/
structure Leaf where
  va    : Nat
  size  : Nat
  pa    : Nat
  perm  : Perm
  mtype : MemType
  dirty : Bool
  entry : Nat
  deriving DecidableEq, Repr

/-- The outcome of a walk (R353). -/
inductive Walk where
  | leaf (l : Leaf)
  | absent (paged : Bool)
  | broken
  deriving DecidableEq, Repr

/-- The shift of a level's index, its index bits, and the size of its table (R351). -/
def levelShift : Nat → Nat
  | 0 => 16 | 1 => 21 | 2 => 30 | _ => 39

/-- The number of index bits of a level (R351). -/
def levelBits : Nat → Nat
  | 0 => 5 | 1 => 9 | 2 => 9 | _ => 10

/-- The permissions of an entry (R352). -/
def permOfEntry (e : Nat) : Perm := ⟨e.testBit 56, e.testBit 57, e.testBit 58, e.testBit 59, e.testBit 55⟩

/-- Both permissions at once (R352: an entry restricts every page below it). -/
def Perm.both (p q : Perm) : Perm :=
  ⟨p.rd && q.rd, p.wr && q.wr, p.at_ && q.at_, p.fe && q.fe, p.x && q.x⟩

/-- The memory type of a TYPE code (R352). -/
def memTypeOf : Nat → MemType
  | 0 => .device | 1 => .hostSnooped | _ => .hostStreaming

/-- Whether n bytes of device memory meet the firmware's, which no context reaches (R425). -/
def meetsFirmware (s : State) (a n : Nat) : Bool := decide (a < firmwareBase s + 2 ^ 28) && decide (firmwareBase s < a + n)

/-- A present leaf entry at a level, checked as R353 says; no context reaches the firmware's memory (R425). -/
def leafOf (s : State) (level va e at_ : Nat) (perm : Perm) : Walk :=
  let size := 2 ^ levelShift level
  let addr := bits e 8 44 * 256
  if level = 3 || 3 ≤ bits e 52 3 || addr % size ≠ 0 || (bits e 52 3 = 0 && (deviceBytes s ≤ addr || meetsFirmware s addr size)) then .broken
  else .leaf { va := va / size * size, size := size, pa := addr, perm := perm.both (permOfEntry e),
               mtype := memTypeOf (bits e 52 3), dirty := e.testBit 2, entry := at_ }

/-- The walk from a level's table down (R351 to R353). -/
def walkFrom (s : State) (va : Nat) (perm : Perm) : Nat → Nat → Walk
  | 0, table =>
    let at_ := table + 8 * bits va (levelShift 0) (levelBits 0)
    let e := readBytes s 0 (.dev at_) 8
    if !e.testBit 0 then .absent (e.testBit 1)
    else if bits e 60 4 ≠ 0 || bits e 3 5 ≠ 0 || !e.testBit 1 then .broken
    else leafOf s 0 va e at_ perm
  | level + 1, table =>
    let at_ := table + 8 * bits va (levelShift (level + 1)) (levelBits (level + 1))
    let e := readBytes s 0 (.dev at_) 8
    if !e.testBit 0 then .absent (e.testBit 1)
    else if bits e 60 4 ≠ 0 || bits e 3 5 ≠ 0 then .broken
    else if e.testBit 1 then leafOf s (level + 1) va e at_ perm
    else
      let next := bits e 8 44 * 256
      if bits e 52 3 ≠ 0 || e.testBit 2 || next % (8 * 2 ^ levelBits level) ≠ 0 || deviceBytes s ≤ next || meetsFirmware s next (8 * 2 ^ levelBits level) then .broken
      else walkFrom s va (perm.both (permOfEntry e)) level next

/-- The number beside the contexts' under which accesses by physical address stand: those to the management queue (R347). -/
def physCtx : Nat := 32

/-- The unit of device memory at a physical address, as a leaf (R347). -/
def physLeaf (s : State) (pa : Nat) : Walk :=
  if pa < deviceBytes s then
    .leaf { va := pa / 65536 * 65536, size := 65536, pa := pa / 65536 * 65536, perm := ⟨true, true, true, true, true⟩, mtype := .device,
            dirty := true, entry := 0 }
  else .broken

/-- The walk of a context's tables for a local virtual address (R351). -/
def walk (s : State) (c : Nat) (va : Nat) : Walk :=
  if c = physCtx then physLeaf s va else walkFrom s va ⟨true, true, true, true, true⟩ 3 (getCtx s c).root

/-- An entry of a context's tables that maps or names something: its address range, its own address, its value, its level. -/
structure Entry where
  va    : Nat
  at_   : Nat
  e     : Nat
  level : Nat
  deriving DecidableEq, Repr

/-- The leaves and the paged units below a table (R351, R352). -/
def entriesOf (s : State) : Nat → Nat → Nat → List Entry
  | 0, table, va =>
    (List.range (2 ^ levelBits 0)).flatMap (fun i =>
      let at_ := table + 8 * i
      let e := readBytes s 0 (.dev at_) 8
      if e.testBit 0 || e.testBit 1 then [{ va := va + i * 2 ^ levelShift 0, at_ := at_, e := e, level := 0 }] else [])
  | level + 1, table, va =>
    (List.range (2 ^ levelBits (level + 1))).flatMap (fun i =>
      let at_ := table + 8 * i
      let e := readBytes s 0 (.dev at_) 8
      let v := va + i * 2 ^ levelShift (level + 1)
      if !e.testBit 0 then []
      else if e.testBit 1 then [{ va := v, at_ := at_, e := e, level := level + 1 }]
      else entriesOf s level (bits e 8 44 * 256) v)

/-- The tables from a table down, each with its size (R351). -/
def tablesOf (s : State) : Nat → Nat → List (Nat × Nat)
  | 0, table => [(table, 8 * 2 ^ levelBits 0)]
  | level + 1, table =>
    (table, 8 * 2 ^ levelBits (level + 1)) :: (List.range (2 ^ levelBits (level + 1))).flatMap (fun i =>
      let e := readBytes s 0 (.dev (table + 8 * i)) 8
      if e.testBit 0 && !e.testBit 1 then tablesOf s level (bits e 8 44 * 256) else [])

/-- The leaves and paged units of a context. -/
def ctxEntries (s : State) (c : Nat) : List Entry := entriesOf s 3 (getCtx s c).root 0

/-- Whether an entry maps device memory. -/
def Entry.device (x : Entry) : Bool := x.e.testBit 0 && bits x.e 52 3 == 0

/-- The frame of an entry. -/
def Entry.frame (x : Entry) : Nat := bits x.e 8 44 * 256

/-- The TLB entry of a core, or of its die, that covers an address (R354). -/
def tlbFind (s : State) (c part core va : Nat) : Option TlbEntry :=
  (getCtx s c).tlb.find? (fun e => e.part == part && (e.core == none || e.core == some core) && decide (e.va ≤ va)
    && decide (va < e.va + e.size))

/-- The leaf that serves an address: a TLB entry's, or the walk's (R354). -/
def findLeaf (s : State) (c part core va : Nat) : Walk :=
  match tlbFind s c part core va with
  | some e => .leaf { va := e.va, size := e.size, pa := e.pa, perm := e.perm, mtype := e.mtype, dirty := e.dirty, entry := 0 }
  | none => walk s c va

/-- Whether a write must walk again because the entry held its page clean (R358). -/
def mustDirty (s : State) (c : Nat) (k : AccKind) (dirty : Bool) : Bool := (getCtx s c).dirtyOn && k.writes && !dirty

/-- The core key under which the walkers of a die serve accesses of no core (R354). -/
def dieCore : Nat := 127

/-- The entries of a TLB, of a core or of a die, each with its context (R354). -/
def tlbOf (s : State) (part : Nat) (core : Option Nat) : List (Nat × TlbEntry) :=
  s.ctxs.flatMap (fun e => (e.2.tlb.filter (fun t => t.part == part && t.core == core)).map (fun t => (e.1, t)))

/-- How many entries a TLB has (R3, R354). -/
def tlbSize (core : Option Nat) : Nat := if core.isSome then Config.coreTlb else Config.dieTlb

/-- A full TLB gives up an entry (R3, R354). -/
def tlbRoom (part : Nat) (core : Option Nat) (s : State) : State :=
  let l := tlbOf s part core
  if l.length < tlbSize core then s
  else match l[Config.tlbVictim s.steps % l.length]? with
    | some (c, t) => let x := getCtx s c; setCtx c { x with tlb := x.tlb.erase t } s
    | none => s

/-- Puts an entry of a context into its TLB, in the place of one of the same page (R354). -/
def tlbPut (c : Nat) (e : TlbEntry) (s : State) : State :=
  let x := getCtx s c
  let s1 := setCtx c { x with tlb := x.tlb.filter (fun t => !(t.part == e.part && t.core == e.core && t.va == e.va && t.size == e.size)) } s
  let s2 := tlbRoom e.part e.core s1
  setCtx c { getCtx s2 c with tlb := e :: (getCtx s2 c).tlb } s2

/-- Keeps a walk's result in the TLBs of a core and of its die, where they keep it (R354). -/
def tlbFill (c part core : Nat) (l : Leaf) (s : State) : State :=
  if Config.tlbKeeps s.steps && c != physCtx then
    let e : TlbEntry := { part := part, core := none, va := l.va, size := l.size, pa := l.pa, perm := l.perm,
                          mtype := l.mtype, dirty := l.dirty }
    let s1 := tlbPut c e s
    if core = dieCore then s1 else tlbPut c { e with core := some core } s1
  else s

/-- The outcome of a translation. -/
inductive Trans where
  | ok (pa : Nat) (mtype : MemType)
  | absent (paged : Bool)
  | page
  | protect
  deriving DecidableEq, Repr

/-- Uses a leaf: the permission check, and D set in memory before the first write (R353, R358). -/
def useLeaf (c va : Nat) (k : AccKind) (l : Leaf) (walked : Bool) (part core : Nat) (s : State) : Trans × State :=
  if !permits l.perm k then (.protect, s)
  else
    let s1 := if walked && mustDirty s c k l.dirty then writeBytes 0 (.dev l.entry) 1 ((readBytes s 0 (.dev l.entry) 1) ||| 4) s else s
    let l1 := if walked && mustDirty s c k l.dirty then { l with dirty := true } else l
    (.ok (l.pa + (va - l.va)) l.mtype, if walked then tlbFill c part core l1 s1 else s1)

/-- The translation of a local virtual address for an access (R351 to R354, R358). -/
def translate (c part core va : Nat) (k : AccKind) (s : State) : Trans × State :=
  match tlbFind s c part core va with
  | some e =>
    if mustDirty s c k e.dirty then
      match walk s c va with
      | .leaf l => useLeaf c va k l true part core s
      | .absent p => (.absent p, s)
      | .broken => (.page, s)
    else useLeaf c va k { va := e.va, size := e.size, pa := e.pa, perm := e.perm, mtype := e.mtype, dirty := e.dirty, entry := 0 }
      false part core s
  | none =>
    match walk s c va with
    | .leaf l => useLeaf c va k l true part core s
    | .absent p => (.absent p, s)
    | .broken => (.page, s)

/-- The place of a translated address (R161). -/
def placeOf (pa : Nat) : MemType → Loc
  | .device => .dev pa
  | .hostSnooped => .host pa
  | .hostStreaming => .host pa

/-- The form of a virtual address (R151, R152). -/
inductive Form where
  | badForm
  | noPackage
  | pod (pkg off : Nat)
  | window (off : Nat)
  | plain (va : Nat)
  deriving DecidableEq, Repr

/-- The form of an address: the checks of R152, and the window of R151. -/
def addrForm (s : State) (va : DWord) : Form :=
  let n := va.toNat
  if n / 2 ^ 57 ≠ 0 then .badForm
  else if n / 2 ^ 56 = 1 then
    if podSize s ≤ bits n 46 10 then .noPackage else .pod (bits n 46 10) (bits n 0 46)
  else if n / 2 ^ 49 ≠ 0 then .badForm
  else if Config.window ≤ n then .window (n - Config.window)
  else .plain n

/-- The package that an address names, where it is a pod address. -/
def podOf (s : State) (addr : DWord) : Option Nat := match addrForm s addr with | .pod p _ => some p | _ => none

/-- Whether a copy of a group works through the issuing package's own window (R152). -/
def ownPodCopy (s : State) (x : EngOp) : Bool :=
  !x.remote && ((podOf s x.dst).isSome || (match x.kind with | .copy => (podOf s x.src).isSome | _ => false))

/-- Writes the record of a fault into its context's ring, with vectors 62 and 1 (R356); while the ring is full the fault waits. -/
def recordFault (c : Nat) (f : FaultRec) (s : State) : State :=
  let x := getCtx s c
  let rest := x.waiting.filter (fun w => w.2.va != f.va)
  if 4096 ≤ x.faults.length then setCtx c { x with waiting := rest ++ [(false, f)] } s
  else
    let g := { f with id := x.faultNo }
    let ring := (if x.ring.length < 4096 then x.ring else x.ring.drop 1) ++ [g]
    interruptPf 1 (interruptCtx c 62 (setCtx c { x with faults := x.faults ++ [g], faultNo := x.faultNo + 1, faultIdx := x.faultIdx + 1,
                                                        ring := ring, waiting := rest } s))

/-- A fault of an access (R356): the faults of one 64 KiB unit share one record; that of a paged unit waits, unreported, for its page-in
(R362). -/
def reportFault (c : Nat) (va : Nat) (k : AccKind) (src pkg : Nat) (paged : Bool) (s : State) : State :=
  let x := getCtx s c
  let unit := dw (va / 65536 * 65536)
  let f : FaultRec := { id := 0, va := unit, kind := k.faultKind, src := src, pkg := pkg, time := s.time }
  if x.faults.any (fun f => f.va == unit) || x.waiting.any (fun w => w.1 == paged && w.2.va == unit) then s
  else if paged then setCtx c { x with waiting := x.waiting ++ [(true, f)] } s
  else recordFault c f s

/-- A record that has come free goes to the first fault that waits for one (R356). -/
def recordNext (c : Nat) (s : State) : State :=
  match (getCtx s c).waiting.find? (fun w => !w.1) with
  | some w => recordFault c w.2 s
  | none => s

/-- What a fetch gives (R152, R353, R356, R396). -/
inductive Fetch where
  | word (w : BitVec 32)
  | trap (t : Trap)
  | held (paged : Bool)
  | poison (addr : DWord)
  deriving DecidableEq, Repr

/-- Fetches the word at an address for the group at the issue port (R78, R152). An address that is no multiple of 4 is fetched from as it is
(R74), and a word that has been stored to is fetched as it stands (DESIGN CHOICE, log entry 92). -/
def fetchAt (pc : DWord) (s : State) : Fetch × State :=
  match addrForm s pc with
  | .badForm => (.trap (trapOf .page pc), s)
  | .noPackage | .pod _ _ | .window _ => (.trap (trapOf .protect pc), s)
  | .plain va =>
    match translate s.cur.ctx s.cur.part s.cur.core va .fetch s with
    | (.ok pa m, s1) =>
      if isPoisoned s1 s1.cur.team (placeOf pa m) 4 then (.poison (poisonLocator (placeOf pa m)), s1)
      else (.word (BitVec.ofNat 32 (readBytes s1 s1.cur.team (placeOf pa m) 4)), s1)
    | (.absent p, s1) => (.held p, s1)
    | (.page, s1) => (.trap (trapOf .page pc), s1)
    | (.protect, s1) => (.trap (trapOf .protect pc), s1)

/-- The run from an address that is physically contiguous with equal permissions and type, in bytes, up to 2^30 (R124), and whether each of
its pages has D = 1 (R358); n bounds the number of pages. -/
def contiguousRun (s : State) (c part core : Nat) (first : Leaf) (va : Nat) : Nat → Nat → Bool → Nat × Bool
  | 0, len, d => (len, d)
  | n + 1, len, d =>
    if 2 ^ 30 ≤ len then (2 ^ 30, d)
    else if Config.window ≤ va + len then (len, d)
    else match findLeaf s c part core (va + len) with
      | .leaf l =>
        if l.pa + (va + len - l.va) = first.pa + (va - first.va) + len && l.perm == first.perm && l.mtype == first.mtype then
          contiguousRun s c part core first va n (l.va + l.size - va) (d && l.dirty)
        else (len, d)
      | .absent _ => (len, d)
      | .broken => (len, d)

end Sys2Proof.Machine
end

