-- ==== Sys2Proof/Machine/Control.lean ====
section
/-! DEFINITION. Control flow, the waiting instructions, the regions' marks and the program traps (R110 to R120), and the end
of the whole-group waits. -/

namespace Sys2Proof.Machine

/-- The target of a format FJ word (R76). -/
def fjTarget (pc : DWord) (o : BitVec 20) : DWord := pc + 4 * o.signExtend 64

/-- NOP (R110). -/
def execNop (s : State) : Result := issue .nop (fun s => .next (modCur nextPc s)) s

/-- The lanes that take a BR (R111). -/
def takenLanes (n : BitVec 1) (p : BitVec 3) (g : Group) : Mask :=
  activeLanes g &&& (if n = 0 then readPred g p.toNat else ~~~(readPred g p.toNat))

/-- BR (R111): it may split the strand. -/
def execBr (n : BitVec 1) (p : BitVec 3) (o : BitVec 20) (s : State) : Result :=
  issue (.br n p o) (fun s =>
    let g := s.cur
    let t := takenLanes n p g
    let target := fjTarget g.strand.pc o
    if t = activeLanes g then .next (modCur (gotoPc target) s)
    else if t = 0 then .next (modCur nextPc s)
    else .next (modCur (splitStrand (clkOf s) (g.strand.pc + 4) (activeLanes g &&& ~~~t) [(target, t)]) s)) s

/-- Writes the return address into v238:v239 as U and jumps (R112). -/
def callTo (target : DWord) (s : State) : Result :=
  let ra := s.cur.strand.pc + 4
  .next (modCur (fun g =>
    gotoPc target (writeRegs (activeLanes g) [(238, .u (loHalf ra)), (239, .u (hiHalf ra))] g)) s)

/-- SHAPE with 0xEE where the issuing strand is not the group's only one (R112, R197, R199). -/
def singleStrand (g : Group) : Option Trap := if wholeStrand g then none else some (trapOf .shape 0xEE)

/-- CALL (R112). -/
def execCall (o : BitVec 20) (s : State) : Result :=
  issue (.call o) (fun s => orTrap (singleStrand s.cur) (fun s => callTo (fjTarget s.cur.strand.pc o) s) s) s

/-- ALIGN for the lowest active lane whose target is not a multiple of 4 (R112, R113). -/
def targetAlign (s : State) (o : Opnd) : Option Trap :=
  ((lanesOf (activeLanes s.cur)).find? (fun l => fieldD (opPair s o l) 0 2 != 0)).map (fun l => laneTrap .align l (opPair s o l))

/-- The distinct targets of the active lanes in the order of their lowest lanes, each with its lanes (R113). -/
def targetSets (s : State) (o : Opnd) : List (DWord × Mask) :=
  let ls := lanesOf (activeLanes s.cur)
  (dedupNat (ls.map (fun l => (opPair s o l).toNat))).map (fun t =>
    (dw t, maskOfLanes (ls.filter (fun l => (opPair s o l).toNat == t))))

/-- CALLR (R112): the single-strand check, ALIGN, then SHAPE for a target that differs between lanes. -/
def execCallr (a : RegCode) (s : State) : Result :=
  issue (.callr a) (fun s =>
    let o := (rdOp 1 a).pair true
    orTrap (firstSome [singleStrand s.cur, targetAlign s o,
        if (targetSets s o).length = 1 then none else some (trapOf .shape (dw (effReg s.cur o)))])
      (fun s => match targetSets s o with
        | (t, _) :: _ => callTo t s
        | [] => .next (modCur nextPc s)) s) s

/-- JMPR (R113): one strand for each distinct target. -/
def execJmpr (a : RegCode) (s : State) : Result :=
  issue (.jmpr a) (fun s =>
    let o := (rdOp 1 a).pair true
    orTrap (targetAlign s o) (fun s =>
      match targetSets s o with
      | (t, m) :: l => .next (modCur (splitStrand (clkOf s) t m l) s)
      | [] => .next (modCur nextPc s)) s) s

/-- Retires lanes of the issuing strand (R114): the others continue; a strand of none ceases and a shelved one takes its
place (R226). STEADY falls where some lanes of the group remain (R401), and an idempotent region closes (R397). -/
def retireLanes (clk : Nat) (m : Mask) (g : Group) : Group :=
  let g1 := { g with exited := g.exited ||| m, idemr := none,
                     strand := { g.strand with mask := g.strand.mask &&& ~~~m, pc := g.strand.pc + 4, replay := none } }
  let g2 := if residentLanes g1 = 0 then g1 else { g1 with steady := false }
  if g2.strand.mask = 0 then swapOnExit clk { g2 with strand := Strand.none } else g2

/-- EXIT (R114). -/
def execExit (s : State) : Result :=
  issue .exit (fun s =>
    if enabled s.cur = 0 then .next (modCur nextPc s)
    else .next (modCur (fun g => dropEmptyStrand (retireLanes (clkOf s) (enabled g) g)) s)) s

/-- The safe-point table entry of an id (R91). -/
def safeEntry (g : Group) (id : Nat) : Option SafePoint := g.hdr.table.find? (fun e => e.id == id)

/-- The beginning of a save (R116, R363): t7 over the save area, and the save routine. A group that waits in GFUSE for this
one learns BUDDY_GONE (R127) from the caller. -/
def beginSave (e : SafePoint) (g : Group) : Group :=
  { g with idemr := none, saving := some (e.id, g.saveArea),
           tregs := Sparse.set TReg.start g.tregs 7
             { frame := g.saveArea, base := g.saveArea, limit := e.bytes, perm := ⟨true, true, false, false, false⟩,
               mtype := .device, dirty := true, stale := false },
           strand := { g.strand with pc := e.save, hold := .none, replay := none } }

/-- The signature of a group starts anew (R41, R401). -/
def freshSig (g : Group) : Group := { g with sig := 0, steady := true, strand := { g.strand with mrg := false } }

/-- Ends a group's wait in GFUSE with a code (R125, R127): d in the strand's lanes, and the next instruction; the signature starts anew
(R41). -/
def endFuse (code : Nat) (g : Group) : Group :=
  match g.strand.hold with
  | .gfuse d _ _ =>
    let g1 := freshSig { g with strand := { g.strand with hold := .none } }
    nextPc (writeRegs (activeLanes g1) (if 0xF0 ≤ d then [] else [(d, .u (wd code))]) g1)
  | _ => g

/-- Whether a group waits in GFUSE. -/
def inFuse (g : Group) : Bool := match g.strand.hold with | .gfuse .. => true | _ => false

/-- Whether h holds the lanes b′ to b′ + w − 1 of g's buddy as one group (R125, R127). -/
def isBuddy (g h : Group) : Bool :=
  h.team == g.team && h.id != g.id && h.lgw == g.lgw &&
  h.base == (if g.base / width g % 2 = 0 then g.base + width g else g.base - width g)

/-- Ends with a code every GFUSE wait of a team whose buddy is a given group (R127, R128). -/
def endFuseOf (b : Group) (code : Nat) (s : State) : State :=
  mapGroups (fun h => inFuse h && isBuddy h b) (fun h => progress (endFuse code h)) s

/-- SAFE (R116). -/
def execSafe (i : BitVec 16) (s : State) : Result :=
  issue (.safe i) (fun s =>
    match safeEntry s.cur i.toNat with
    | some e =>
      if !s.cur.preempt || !wholeStrand s.cur then .next (modCur nextPc s)
      else if countersZero s.cur then .next (endFuseOf s.cur 2 (modCur (beginSave e) s))
      else .next (modCur (fun g => setStrand { g.strand with hold := .safe i.toNat } g) s)
    | none => .next (modCur nextPc s)) s

/-- The region that an IDEM opens (R117, R398): one reached by a restart keeps the count and the address. -/
def openIdem (id first : Nat) (g : Group) : IdemRegion :=
  let old := match g.idemr with | some r => if r.restarting && r.pc = g.strand.pc then some r else none | none => none
  { first := first, pc := g.strand.pc, id := id, lanes := g.strand.mask, sig := g.sig, steady := g.steady, mrg := g.strand.mrg,
    count := match old with | some r => r.count | none => 0,
    last := match old with | some r => r.last | none => none, restarting := false, due := none }

/-- IDEM (R117). -/
def execIdem (i : BitVec 16) (s : State) : Result :=
  issue (.idem i) (fun s =>
    .next (modCur (fun g =>
      if !g.hdr.idem then nextPc g
      else nextPc { g with idemr := if wholeStrand g then some (openIdem i.toNat s.nextId g) else none }) s)) s

/-- The folded signature that SIGCK compares (R402). -/
def foldedSig (sig : Word) : Word := (sig.extractLsb' 16 16 ^^^ sig.extractLsb' 0 16).setWidth 32

/-- Whether SIGCK compares (R402). -/
def sigCompares (g : Group) : Bool := g.hdr.sigck && g.steady && !g.strand.mrg && strandCount g == 1

/-- SIGCK (R402). -/
def execSigck (i : BitVec 16) (s : State) : Result :=
  issue (.sigck i) (fun s =>
    let g := s.cur
    if g.inTrap then .next (modCur nextPc s)
    else orTrap
      (if sigCompares g && foldedSig g.sig != i.setWidth 32 then
        some (trapOf .sigMismatch (zext ((i.setWidth 32 <<< 16) ||| foldedSig g.sig))) else none)
      (fun s => .next (modCur (fun g => nextPc (freshSig g)) s)) s) s

/-- A program trap of the lowest enabled lane (R115). -/
def programTrap (c : Cause) (v : DWord) (after : Bool) (s : State) : Result :=
  match lowestLane (enabled s.cur) with
  | some l => .next (takeTrap { cause := c, lane := some l, tval := v, after := after } s)
  | none => .next (modCur nextPc s)

/-- TRAP (R115). -/
def execTrap (i : BitVec 16) (s : State) : Result := issue (.trap i) (programTrap .trapInstr (i.setWidth 64) true) s

/-- BRK (R115). -/
def execBrk (c : BitVec 24) (s : State) : Result := issue (.brk c) (programTrap .breakpoint (c.setWidth 64) false) s

/-- Holds the issuing strand in a wait of the whole group (R119); such a strand is Waiting and is not swapped (R222). -/
def groupHold (h : Hold) (g : Group) : Group := { g with strand := { g.strand with hold := h, replay := none } }

/-- CYLD (R119). -/
def execCyld (o : BitVec 20) (s : State) : Result :=
  issue (.cyld o) (fun s =>
    let target := fjTarget s.cur.strand.pc o
    .next (modCur (fun g => if g.cntC = 0 then gotoPc target g else groupHold (.cyld target) g) s)) s

/-- Whether a counter meets a field of WAITC; 63 always holds (R119). -/
def waitField (c : BitVec 6) (n : Nat) : Bool := n == 63 || c.toNat ≤ n

/-- Whether the condition of WAITC holds (R119). -/
def waitcHolds (l s c t : Nat) (g : Group) : Bool :=
  waitField g.cntL l && waitField g.cntS s && waitField g.cntC c && waitField g.cntT t

/-- WAITC (R119). -/
def execWaitc (l t c u : BitVec 6) (s : State) : Result :=
  issue (.waitc l t c u) (fun s =>
    .next (modCur (fun g =>
      if waitcHolds l.toNat t.toNat c.toNat u.toNat g then nextPc g
      else groupHold (.waitc l.toNat t.toNat c.toNat u.toNat) g) s)) s

/-- SLEEP (R119): the group issues nothing until the time counter reaches the issue time plus ns. -/
def execSleep (i : BitVec 16) (s : State) : Result :=
  issue (.sleep i) (fun s => .next (modCur (groupHold (.sleep (s.time + i.setWidth 64))) s)) s

/-- ELECT (R120). -/
def execElect (p : BitVec 3) (s : State) : Result :=
  issue (.elect p) (predBack p (fun s =>
    match lowestLane (enabled s.cur) with | some l => maskOfLanes [l] | none => 0)) s

/-- What a whole-group wait on counters does when they change (R116, R119): it ends once its condition holds. -/
def releaseStrand (g : Group) (t : Strand) : Strand :=
  match t.hold with
  | .cyld target => if g.cntC = 0 then { t with hold := .none, pc := target } else t
  | .waitc l s c u => if waitcHolds l s c u g then { t with hold := .none, pc := t.pc + 4 } else t
  | _ => t

/-- Ends the waits on counters that their new values end, a SAFE's among them (R116, R119). -/
def releaseWaits (g : Group) : Group :=
  let g1 := progress (mapStrands (releaseStrand g) g)
  match g1.strand.hold with
  | .safe id => if countersZero g1 then
      (match safeEntry g1 id with
        | some e => if g1.preempt then beginSave e g1 else nextPc { g1 with strand := { g1.strand with hold := .none } }
        | none => g1) else g1
  | _ => g1

/-- Ends the counter waits of a group; the buddy of a group that begins a save learns BUDDY_GONE (R127). -/
def settleGroup (gid : Nat) (s : State) : State :=
  let s1 := modGroup gid releaseWaits s
  match findGroup gid s, findGroup gid s1 with
  | some g, some h => if g.saving.isNone && h.saving.isSome then endFuseOf h 2 s1 else s1
  | _, _ => s1

/-- SLEEP_WAKE (R119): the SLEEP of a group whose time has come ends. -/
def execSleepWake (gid : Nat) (s : State) : Result :=
  .next (modGroup gid (mapStrands (fun t =>
    match t.hold with
    | .sleep till => if till.toNat ≤ s.time.toNat then { t with hold := .none, pc := t.pc + 4 } else t
    | _ => t)) s)

/-- ILLEGAL_WORD (R77, step 1): the word traps ILLEGAL_OPCODE. -/
def execIllegalWord (w : BitVec 32) (s : State) : Result := .next (takeTrap (trapOf .illegalOpcode (zext w)) s)

/-- UNASSIGNED_CODE_WORD (R77, steps 2 and 3): ILLEGAL_OPCODE for an unassigned code, RESERVED_FIELD for a reserved field. -/
def execUnassignedCodeWord (w : BitVec 32) (s : State) : Result :=
  .next (takeTrap (trapOf (if selectorUnassigned w then .illegalOpcode else .reservedField) (zext w)) s)

end Sys2Proof.Machine
end

