-- ==== Sys2Proof/Machine/GroupState.lean ====
section
/-! DEFINITION. The instructions on group state: SETM, GETM, XSET, KMASK, TXL, TXI (R35, R121 to R124), and the changes of width
GDIV and GFUSE (R125 to R128). -/

namespace Sys2Proof.Machine

/-- Whether a GM word holds no reserved code and no reserved bit (R34, R35). -/
def gmLegal (gm : Word) : Bool :=
  fieldW gm 27 5 == 0 && fieldW gm 22 2 == 0 && decide (fieldW gm 17 3 < 5) && decide (fieldW gm 14 3 < 5)
    && decide (fieldW gm 8 3 < 5) && fieldW gm 4 4 != 15

/-- The field that a selector of SETM writes: its lowest bit and its width (R35). -/
def setmField (sel : Nat) : Option (Nat × Nat) :=
  match sel with
  | 0 => some (0, 4) | 1 => some (4, 4) | 2 => some (8, 3) | 3 => some (11, 1) | 4 => some (12, 2) | 5 => some (14, 3)
  | 6 => some (17, 3) | 7 => some (20, 2) | 8 => some (24, 3) | 9 => some (0, 16) | 10 => some (16, 16)
  | _ => none

/-- GM with bits [lo+n-1:lo] replaced. -/
def gmInsert (gm : Word) (lo n v : Nat) : Word := wd (gm.toNat - fieldW gm lo n * 2 ^ lo + v * 2 ^ lo)

/-- SETM (R35, R121). -/
def execSetm (sel : BitVec 8) (v : BitVec 16) (s : State) : Result :=
  issue (.setm sel v) (fun s =>
    let bad := trapOf .modeField (zext (wordOf (.setm sel v)))
    match setmField sel.toNat with
    | none => .next (takeTrap bad s)
    | some (lo, n) =>
      if 2 ^ n ≤ v.toNat then .next (takeTrap bad s)
      else
        let gm := gmInsert s.cur.gm lo n v.toNat
        if gmLegal gm then .next (modCur (fun g => nextPc { g with gm := gm }) s)
        else .next (takeTrap (trapOf .modeField (zext gm)) s)) s

/-- GETM (R121). -/
def execGetm (d : RegCode) (s : State) : Result :=
  issue (.getm d) (fun s => writeBack (enabled s.cur) (destWrites s.cur (wrOp d) [.u s.cur.gm]) s) s

/-- XSET (R122). -/
def execXset (a i : RegCode) (s : State) : Result :=
  issue (.xset a i) (fun s =>
    let sum := uWord s (rdOp 1 a) + i.setWidth 32
    orTrap (firstSome [mustBeU s (rdOp 1 a), if 255 < sum.toNat then some (trapOf .regIndex (zext sum)) else none])
      (fun s => .next (modCur (fun g => nextPc { g with xi := sum.setWidth 8 }) s)) s) s

/-- KMASK (R123): every lane of the width. -/
def execKmask (n : BitVec 1) (p : BitVec 3) (s : State) : Result :=
  issue (.kmask n p) (fun s =>
    .next (modCur (fun g => nextPc { g with
      kmask := fullMask (width g) &&& (if n = 0 then readPred g p.toNat else ~~~(readPred g p.toNat)) }) s)) s

/-- The translation register that TXL loads (R124): limit 0 where the pointer is not plain mapped device memory; it walks again for a write where a
page of its run has D = 0 (R358). -/
def txlReg (s : State) (ptr : DWord) : TReg :=
  match addrForm s ptr with
  | .plain va =>
    match findLeaf s s.cur.ctx s.cur.part s.cur.core va with
    | .leaf l =>
      if l.mtype == .device then
        let run := contiguousRun s s.cur.ctx s.cur.part s.cur.core l va 16385 (l.va + l.size - va) l.dirty
        { frame := ptr, base := dw (l.pa + (va - l.va)), limit := min (2 ^ 30) run.1, perm := l.perm, mtype := l.mtype, dirty := run.2,
          stale := false }
      else { TReg.start with frame := ptr }
    | .absent _ => { TReg.start with frame := ptr }
    | .broken => { TReg.start with frame := ptr }
  | .badForm | .noPackage | .pod _ _ | .window _ => { TReg.start with frame := ptr }

/-- TXL (R124). -/
def execTxl (a : RegCode) (t : BitVec 3) (s : State) : Result :=
  issue (.txl a t) (fun s =>
    let o := (rdOp 1 a).pair true
    orTrap (if (mustBeU s o).isSome then some (trapOf .shape (dw (effReg s.cur o))) else none)
      (fun s => .next (modCur (fun g =>
        nextPc { g with tregs := Sparse.set TReg.start g.tregs t.toNat (txlReg s (uPair s o)) }) s)) s) s

/-- TXI (R124). -/
def execTxi (t : BitVec 3) (s : State) : Result :=
  issue (.txi t) (fun s =>
    .next (modCur (fun g => nextPc { g with tregs := Sparse.set TReg.start g.tregs t.toNat TReg.start }) s)) s

/-! ### Changes of width -/

/-- The condition of code 7, PENDING (R125). -/
def widthPending (g : Group) : Bool :=
  strandCount g != 1 || !countersZero g || parkedLanes g || g.cchn.getLsbD 31 || g.inTrap

/-- A free group slot of a quarter (R7, R217). -/
def freeSlot (s : State) (part core quarter : Nat) : Option Nat :=
  (List.range 32).find? (fun n =>
    !(groups s).any (fun g => g.part == part && g.core == core && g.quarter == quarter && g.slot == n))

/-- Ends GDIV or GFUSE with a result code, in the lanes of the issuing strand (R125); any idempotent region is closed, and the
signature starts anew (R41, R401). -/
def widthCode (d : RegCode) (code : Nat) (s : State) : Result :=
  match narrowFault (activeLanes s.cur) s.cur (destWrites s.cur (wrOp d) [.u (wd code)]) with
  | some r => .next (takeTrap (trapOf .shape (dw r)) s)
  | none => .next (modCur (fun g =>
      nextPc (writeRegs (activeLanes g) (destWrites g (wrOp d) [.u (wd code)]) (freshSig g))) s)

/-- A half of a register (R126): h lanes from lane lo on. -/
def halfReg (lo h : Nat) : RegVal → RegVal
  | .u v => .u v
  | .a b s => .a (b + wd lo * s) s
  | .g ls => .g ((ls.drop lo).take h)

/-- Bits [lo+h-1:lo] of a lane mask. -/
def halfMask (lo h : Nat) (m : Mask) : Mask := (m >>> lo) &&& fullMask h

/-- A child of GDIV (R126, R251, R297, R401): the lanes from lo on, half as wide. -/
def divChild (lo : Nat) (g : Group) : Group :=
  let h := width g / 2
  { g with
    base := g.base + lo, lgw := g.lgw - 1,
    regs := g.regs.map (fun r => (r.1, halfReg lo h r.2)),
    rpoison := (g.rpoison.map (fun r => (r.1, halfMask lo h r.2))).filter (fun r => r.2 != 0),
    preds := (g.preds.map (fun r => (r.1, halfMask lo h r.2))).filter (fun r => r.2 != 0),
    kmask := halfMask lo h g.kmask, exited := halfMask lo h g.exited,
    sig := 0, steady := true, idemr := none, region := none,
    cntL := 0, cntS := 0, cntC := 0, cntT := 0, cchn := 0, ccnt := 0,
    strand := if halfMask lo h g.strand.mask = 0 then Strand.none
      else { g.strand with mask := halfMask lo h g.strand.mask, mrg := false } }

/-- The first code of GDIV's conditions (R126): REGION, PENDING, WIDTH, SLOTS. -/
def gdivCode (s : State) : Option Nat :=
  let g := s.cur
  if g.region.isSome then some 11
  else if widthPending g then some 7
  else if g.lgw ≤ 3 then some 8
  else if (freeSlot s g.part g.core g.quarter).isNone then some 10
  else none

/-- GDIV (R126). A group that waits in GFUSE for this one learns NOT_PAIRED (R128). A pre-emption that is due stays with the lower child
(DESIGN CHOICE, log entry 93). Both children come after the fences of the parent and after its remote operations that are still to be
acknowledged (R257). -/
def execGdiv (d : RegCode) (s : State) : Result :=
  issue (.gdiv d) (fun s =>
    match gdivCode s with
    | some c => widthCode d c s
    | none =>
      let s1 := endFuseOf s.cur 1 s
      let g := nextPc (writeRegs (activeLanes s.cur) (destWrites s.cur (wrOp d) [.u 0]) s.cur)
      let h := width g / 2
      let slot := (freeSlot s g.part g.core g.quarter).getD 0
      let up : Group := { divChild h g with
        id := s1.nextId, slot := slot, outs := g.outs.filter (fun o => match o.kind with | .fence _ => true | _ => false), preempt := false,
        inherits := g.inherits ++ (s1.barrow.filter (fun b => b.gid == some g.id)).map (·.id) }
      .next { s1 with cur := divChild 0 g, others := s1.others ++ [up], nextId := s1.nextId + 1 }) s

/-- The buddy of a group, where its lanes are one group of the same width (R127); a group all of whose lanes have exited is none, whether
or not it has retired (DESIGN CHOICE, log entry 93). -/
def buddyOf (s : State) (g : Group) : Option Group := (groups s).find? (fun h => isBuddy g h && residentLanes h != 0)

/-- A register of the fused group (R127). -/
def fuseReg (w : Nat) (lo up : RegVal) : RegVal :=
  match lo, up with
  | .u x, .u y => if x = y then .u x else .g ((List.range (2 * w)).map (fun l => if l < w then x else y))
  | .a b s, .a c t =>
    if c = b + s * wd w && s = t then .a b s
    else .g ((List.range (2 * w)).map (fun l => if l < w then (RegVal.a b s).lane l else (RegVal.a c t).lane (l - w)))
  | x, y => .g ((List.range (2 * w)).map (fun l => if l < w then x.lane l else y.lane (l - w)))

/-- Whether a narrow register would become G (R125, code 6); every narrow register counts, d among them (DESIGN CHOICE, log entry 93). -/
def fuseShape (lo up : Group) : Bool :=
  (List.range 240).any (fun r => narrow lo r && (fuseReg (width lo) (readReg lo r) (readReg up r)).isG)

/-- The conditions of R127, step 3, in their order: SITE, MODE, TRANSLATION, PENDING, SHAPE. TRANSLATION compares everything that a
translation register holds, its dirty mark too (DESIGN CHOICE, log entry 93). -/
def fuseCode (lo up : Group) : Nat :=
  if lo.strand.pc != up.strand.pc then 4
  else if lo.gm != up.gm || lo.xi != up.xi then 5
  else if lo.tregs != up.tregs then 9
  else if widthPending lo || widthPending up then 7
  else if fuseShape lo up then 6
  else 0

/-- The lanes of both masks, the upper ones from w on. -/
def joinMask (w : Nat) (lo up : Mask) : Mask := lo ||| (up <<< w)

/-- The fused group (R127), with d = U 0 and one strand of every lane that has not exited. -/
def fuseGroups (d : Nat) (lo up : Group) : Group :=
  let w := width lo
  let keys := fun (f : Group → List Nat) => dedupNat (f lo ++ f up)
  let g : Group := { lo with
    lgw := lo.lgw + 1,
    regs := (keys (fun g => g.regs.map (·.1))).foldl (fun m r =>
      Sparse.set (.u 0) m r (fuseReg w (readReg lo r) (readReg up r))) [],
    rpoison := (keys (fun g => g.rpoison.map (·.1))).foldl (fun m r =>
      Sparse.set 0 m r (joinMask w (Sparse.get 0 lo.rpoison r) (Sparse.get 0 up.rpoison r))) [],
    preds := (keys (fun g => g.preds.map (·.1))).foldl (fun m p =>
      Sparse.set 0 m p (joinMask w (Sparse.get 0 lo.preds p) (Sparse.get 0 up.preds p))) [],
    kmask := joinMask w lo.kmask up.kmask, exited := joinMask w lo.exited up.exited,
    sig := 0, steady := true, idemr := none, outs := lo.outs ++ up.outs, inherits := lo.inherits ++ up.inherits,
    strand := { lo.strand with mask := joinMask w lo.strand.mask up.strand.mask, mrg := false, hold := .none } }
  progress (nextPc (writeRegs (activeLanes g) (if 0xF0 ≤ d then [] else [(d, .u 0)]) g))

/-- Gives two groups that meet at GFUSE the same code (R127, step 3). -/
def fuseFail (code : Nat) (d : RegCode) (other : Nat) (s : State) : Result :=
  widthCode d code (modGroup other (fun g => progress (endFuse code g)) s)

/-- The result register that a waiting group named. -/
def fuseDest (g : Group) : Nat := match g.strand.hold with | .gfuse d _ _ => d | _ => 0xF0

/-- Joins the issuing group with its waiting buddy (R127, step 4): the upper group's slot is freed, and its remote
operations that wait for acknowledgement become the fused group's. -/
def fuseWith (d : Nat) (h : Group) (s : State) : State :=
  let g := s.cur
  let lower := g.base < h.base
  let f := if lower then fuseGroups d g h else fuseGroups (fuseDest h) h g
  let gone := if lower then h.id else g.id
  { s with cur := f, others := s.others.filter (fun x => x.id != h.id),
           barrow := s.barrow.map (fun b => { b with gid := if b.gid = some gone then some f.id else b.gid,
                                                     left := if b.left = some gone then some f.id else b.left }) }

/-- GFUSE (R127). -/
def execGfuse (d : RegCode) (c : BitVec 2) (s : State) : Result :=
  issue (.gfuse d c) (fun s =>
    let g := s.cur
    if 7 ≤ g.lgw then widthCode d 8 s
    else match buddyOf s g with
      | none => widthCode d 1 s
      | some h =>
        if g.region.isSome then widthCode d 11 s
        else if widthPending g then widthCode d 7 s
        else if inFuse h then
          let code := if g.base < h.base then fuseCode g h else fuseCode h g
          if code = 0 then .next (fuseWith (effReg g (wrOp d)) h s) else fuseFail code d h.id s
        else .next (modCur (groupHold (.gfuse (effReg g (wrOp d)) c.toNat s.time)) s)) s

/-- The timeout of a class of GFUSE in ns (R127); none is unlimited. -/
def fuseLimit (c : Nat) : Option Nat :=
  match c with
  | 1 => some 1000 | 2 => some 10000 | 3 => some 100000
  | _ => none

/-- GFUSE_TIMEOUT (R127): the class of a waiting group has expired. -/
def execGfuseTimeout (gid : Nat) (s : State) : Result :=
  match findGroup gid s with
  | some g => match g.strand.hold with
    | .gfuse _ c since => match fuseLimit c with
      | some n => if since.toNat + n ≤ s.time.toNat then .next (modGroup gid (fun g => progress (endFuse 3 g)) s) else .next s
      | none => .next s
    | _ => .next s
  | none => .next s

/-- Whether a checkpoint quiesces a context: its launches are not admitted (R411, step 2). -/
def quiescing (s : State) (c : Nat) : Bool := match (getCtx s c).ckpt with | some k => k.phase == .quiesce || k.phase == .meet | none => false

end Sys2Proof.Machine
end

