-- ==== Sys2Proof/Machine/Cache.lean ====
section
/-! DEFINITION. The caches (R160, R161, R163, R239, R241, R242, R244, R344): the lines of a core's L1, their ownership and its recall by
the home slice, and host lines kept in L2. What a byte holds depends on none of them (R239). -/

namespace Sys2Proof.Machine

/-! ### One core's L1 -/

/-- The ways of a core's array that a carve-out code gives to scratchpad (R241, R243). -/
def scratchWays : Nat → Nat
  | 0 => 0 | 1 => 1 | 2 => 2 | 3 => 4 | 4 => 6 | _ => 8

/-- The number of the 128-byte line of device memory of an address (R240). -/
def lineOf (pa : Nat) : Nat := pa / 128

/-- Whether a superblock is that of a line: its set is PA[14:9] and its tag PA[51:15] (R241). -/
def L1Block.covers (b : L1Block) (line : Nat) : Bool := b.set_ == line / 4 % 64 && b.tag == line / 256

/-- The line of a number in an L1. -/
def findLine (c : Core) (line : Nat) : Option L1Line :=
  (c.l1.find? (fun b => b.covers line)).bind (fun b => b.lines.find? (fun x => x.at_ == line % 4))

/-- Whether an L1 owns a line (R242). -/
def ownsLine (c : Core) (line : Nat) : Bool := match findLine c line with | some x => x.owned | none => false

/-- Applies f to a line of an L1. -/
def modLine (line : Nat) (f : L1Line → L1Line) (c : Core) : Core :=
  { c with l1 := updateWhere (fun b => b.covers line) (fun b => { b with lines := updateWhere (fun x => x.at_ == line % 4) f b.lines }) c.l1 }

/-- The number of a line of a superblock. -/
def L1Block.number (b : L1Block) (x : L1Line) : Nat := (b.tag * 64 + b.set_) * 4 + x.at_

/-- Keeps the lines of an L1 for which p holds, and the superblocks that still have one. -/
def keepLines (p : Nat → L1Line → Bool) (c : Core) : Core :=
  { c with l1 := (c.l1.map (fun b => { b with lines := b.lines.filter (fun x => p (b.number x) x) })).filter (fun b => !b.lines.isEmpty) }

/-- The way that a new superblock of a set takes (R241): a free one, else that of a superblock which gives way, those whose lines arrived
under hint 2 first; n numbers the step. -/
def wayFor (n set_ : Nat) (c : Core) : Nat :=
  let here := c.l1.filter (fun b => b.set_ == set_)
  match (List.range 10).find? (fun w => decide (scratchWays c.carve ≤ w) && !here.any (fun b => b.way == w)) with
  | some w => w
  | none =>
    let streams := here.filter (fun b => b.lines.all (fun x => x.stream))
    let pool := if streams.isEmpty then here else streams
    match pool[Config.l1Victim n % pool.length]? with | some b => b.way | none => 9

/-- Fills a line of an L1 on a miss (R241). -/
def fillLine (n line : Nat) (stream : Bool) (c : Core) : Core :=
  let x : L1Line := { at_ := line % 4, dirty := false, owned := false, stream := stream, gangs := [] }
  if (findLine c line).isSome then c
  else if c.l1.any (fun b => b.covers line) then
    { c with l1 := updateWhere (fun b => b.covers line) (fun b => { b with lines := b.lines ++ [x] }) c.l1 }
  else
    let set_ := line / 4 % 64
    let w := wayFor n set_ c
    { c with l1 := c.l1.filter (fun b => !(b.set_ == set_ && b.way == w)) ++ [{ way := w, set_ := set_, tag := line / 256, lines := [x] }] }

/-- Marks a line as written by a gang under ownership (R242, R344). -/
def writeLine (line gang : Nat) (c : Core) : Core :=
  modLine line (fun x => { x with owned := true, dirty := true, gangs := if x.gangs.contains gang then x.gangs else x.gangs ++ [gang] }) c

/-- What a change of a carve-out leaves of an L1 (R244): the superblocks of the ways that become scratchpad have written back and gone. -/
def carveL1 (code : Nat) (l : List L1Block) : List L1Block := l.filter (fun b => decide (scratchWays code ≤ b.way))

/-! ### Ownership -/

/-- Applies f to the L1 of a core. -/
def modL1 (part core : Nat) (f : Core → Core) (s : State) : State := setCore part core (f (getCore s part core)) s

/-- The home slices recall the lines between two from the cores that own them, save one (R242): dirty data and bits go back, and a line
that is recalled leaves its owner's L1 (log entry 98). -/
def recallLines (but : Option Nat) (lo hi : Nat) (s : State) : State :=
  let mine := fun (n : Nat) (x : L1Line) => x.owned && decide (lo ≤ n) && decide (n ≤ hi)
  (s.cores.filter (fun e => some e.1 != but && e.2.l1.any (fun b => b.lines.any (fun x => mine (b.number x) x)))).foldl
    (fun s e => { s with cores := Sparse.set Core.start s.cores e.1 (keepLines (fun n x => !mine n x) e.2) }) s

/-- A request for n bytes at a place that their home slices serve (R242). -/
def homeServes (loc : Loc) (n : Nat) (s : State) : State :=
  match loc with
  | .dev pa => recallLines none (lineOf pa) (lineOf (pa + n - 1)) s
  | .scr _ _ => s
  | .host _ => s
  | .pod _ _ => s

/-- A core takes exclusive ownership of a line (R242). -/
def takeLine (g : Group) (line : Nat) (s : State) : State :=
  modL1 g.part g.core (fun c => modLine line (fun x => { x with owned := true }) (fillLine s.steps line false c))
    (recallLines (some (coreKey g.part g.core)) line line s)

/-- A load of a group at a line (R160, R241, R242). -/
def loadLine (g : Group) (hint line : Nat) (s : State) : State :=
  if hint = 4 then recallLines none line line s
  else if (findLine (getCore s g.part g.core) line).isSome then s
  else modL1 g.part g.core (fillLine s.steps line (hint == 2)) (recallLines none line line s)

/-- A plain store of a group at a line (R160, R242): ownership is taken under hint 0 or 3 where the line is valid; else it is written
through, but to a line that the core owns. -/
def storeLine (g : Group) (hint line : Nat) (s : State) : State :=
  let c := getCore s g.part g.core
  let s1 := if hint = 2 then modL1 g.part g.core (modLine line (fun x => { x with stream := true })) s else s
  if hint != 4 && (ownsLine c line || ((hint == 0 || hint == 3) && (findLine c line).isSome)) then
    modL1 g.part g.core (writeLine line g.gang) (recallLines (some (coreKey g.part g.core)) line line s1)
  else recallLines none line line s1

/-- Whether a full/empty operation writes its word. -/
def feWrites : FeKind → Bool
  | .ldwt => false
  | .fetest => false
  | .ldcn => true
  | .stfl => true
  | .stfu => true
  | .fefull => true
  | .feempty => true

/-- Whether a line belongs to a unit that is on its way, whose lines have no owner (R359). -/
def movingLine (s : State) (line : Nat) : Bool :=
  s.ctxs.any (fun e => match e.2.mig with | some m => decide (lineOf m.old ≤ line) && decide (line < lineOf m.old + 512) | none => false)

/-- Whether an operation only reads. -/
def OpKind.onlyReads : OpKind → Bool
  | .load => true
  | .ldaq => true
  | .store => false
  | .strl => false
  | .atomic _ => false
  | .fe _ => false
  | .fence _ => false
  | .prel _ => false
  | .bid => false

/-- An access of a group at a line of device memory (R160, R242, R359). -/
def touchLine (g : Group) (o : MemOp) (line : Nat) (s : State) : State :=
  if movingLine s line && !o.kind.onlyReads then recallLines none line line s
  else match o.kind with
  | .load => loadLine g o.hint line s
  | .ldaq => loadLine g o.hint line s
  | .store => storeLine g o.hint line s
  | .strl => storeLine g o.hint line s
  | .atomic _ => modL1 g.part g.core (writeLine line g.gang) (takeLine g line s)
  | .fe k =>
    if o.scope ≤ 1 then
      let s1 := takeLine g line s
      if feWrites k then modL1 g.part g.core (writeLine line g.gang) s1 else s1
    else recallLines none line line s
  | .fence _ => s
  | .prel _ => s
  | .bid => s

/-- What a lane's access, which is aligned (R155), does to the line it touches; snooped says that its host memory is host-snooped: a load
of that under hint 3 keeps its line in L2 (R161). -/
def touchAt (g : Group) (o : MemOp) (l : LaneAcc) (snooped : Bool) (s : State) : State :=
  match l.loc with
  | .dev pa => touchLine g o (lineOf pa) s
  | .host ha =>
    let x : HostLine := { gid := g.id, line := lineOf ha }
    if snooped && o.hint == 3 && (match o.kind with | .load => true | .ldaq => true | _ => false) && !s.l2host.contains x then
      { s with l2host := s.l2host ++ [x] }
    else s
  | .scr _ _ => s
  | .pod _ _ => s

/-! ### Acquires -/

/-- Whether a kind of operation is an acquire (R162, R165). -/
def OpKind.acquires : OpKind → Bool
  | .ldaq => true
  | .fe .ldwt => true
  | .fe .ldcn => true
  | .fe .stfl => false
  | .fe .stfu => false
  | .fe .fefull => false
  | .fe .feempty => false
  | .fe .fetest => false
  | .load => false
  | .store => false
  | .strl => false
  | .atomic _ => false
  | .fence _ => false
  | .prel _ => false
  | .bid => false

/-- The acquire side of a scope takes effect for a group (R161, R163, R242): at device scope or wider the lines that its core does not own
leave its L1, and at system scope the host lines that it keeps leave L2. -/
def acquireAt (scope : Nat) (g : Group) (s : State) : State :=
  let s1 := if 2 ≤ scope then modL1 g.part g.core (keepLines (fun _ x => x.owned)) s else s
  if scope = 4 then { s1 with l2host := s1.l2host.filter (fun e => e.gid != g.id) } else s1

/-! ### The cache work of a launch -/

/-- Applies f to the L1 of every core of the partitions of a launch. -/
def mapL1 (parts : BitVec 4) (f : Core → Core) (s : State) : State :=
  (s.cores.filter (fun e => parts.getLsbD (e.1 / 128))).foldl (fun s e => { s with cores := Sparse.set Core.start s.cores e.1 (f e.2) }) s

/-- A handle as a launch lists it (R343, R344): its memory type, the mode, and where its range lies, each piece with whether it is device memory and
its ends. -/
structure Listed where
  mtype : Nat
  mode  : Nat
  spans : List (Bool × Nat × Nat)
  deriving DecidableEq, Repr

/-- Where a virtual range of a context lies, by its page tables. -/
def rangeSpans (s : State) (c lo hi : Nat) : List (Bool × Nat × Nat) :=
  ((ctxEntries s c).filter (fun x => x.e.testBit 0 && decide (x.va < hi) && decide (lo < x.va + 2 ^ levelShift x.level))).map (fun x =>
    (x.device, x.frame + (max lo x.va - x.va), x.frame + (min hi (x.va + 2 ^ levelShift x.level) - x.va)))

/-- Whether a line of device or host memory belongs to a listed range. -/
def Listed.covers (h : Listed) (dev : Bool) (line : Nat) : Bool :=
  h.spans.any (fun p => p.1 == dev && decide (p.2.1 < 128 * line + 128) && decide (128 * line < p.2.2))

/-- The acquire side of a launch at its start (R344); hs are its handles. -/
def launchAcquire (r : LaunchRec) (hs : List Listed) (s : State) : State :=
  if r.handles.isEmpty then
    let s1 := if r.acq != 0 then mapL1 r.parts (keepLines (fun _ x => x.owned)) s else s
    if r.acq.getLsbD 2 then { s1 with l2host := [] } else s1
  else
    let read := hs.filter (fun h => h.mode % 2 == 1)
    let s1 := mapL1 r.parts (keepLines (fun n x => x.owned || !read.any (fun h => h.covers true n))) s
    { s1 with l2host := s1.l2host.filter (fun e => !read.any (fun h => h.mtype != 0 && h.covers false e.line)) }

/-- The release side of a gang at its completion (R344): owned dirty lines, those that the gang wrote or those of the ranges that it
writes, go back to their home slices. -/
def launchRelease (gang : Nat) (r : LaunchRec) (hs : List Listed) (s : State) : State :=
  let p := fun (n : Nat) (x : L1Line) => x.owned && x.dirty &&
    (if r.handles.isEmpty then x.gangs.contains gang else hs.any (fun h => decide (2 ≤ h.mode) && h.covers true n))
  mapL1 15 (fun c => { c with l1 := c.l1.map (fun b =>
    { b with lines := updateWhere (fun x => p (b.number x) x) (fun x => { x with dirty := false, gangs := [] }) b.lines }) }) s

end Sys2Proof.Machine
end

