-- ==== Sys2Proof/Machine/Complete.lean ====
section
/-! DEFINITION. The completion of outstanding operations: values written to registers, counters, held strands, barrow entries
and remote failures (R154, R157, R195 to R198, R223, R290, R298, R300). -/

namespace Sys2Proof.Machine

/-- An outstanding operation of a group. -/
def findOp (id : Nat) (g : Group) : Option MemOp := g.outs.find? (fun o => o.id == id)

/-- Applies f to an outstanding operation. -/
def modOp (id : Nat) (f : MemOp → MemOp) (g : Group) : Group := { g with outs := updateWhere (fun o => o.id == id) f g.outs }

/-- Lowers a counter (R40). -/
def dropCtr (c : Ctr) (g : Group) : Group :=
  match c with
  | .l => { g with cntL := g.cntL - 1 }
  | .s => { g with cntS := g.cntS - 1 }
  | .none => g

/-- Raises a counter (R40). -/
def raiseCtr (c : Ctr) (g : Group) : Group :=
  match c with
  | .l => { g with cntL := g.cntL + 1 }
  | .s => { g with cntS := g.cntS + 1 }
  | .none => g

/-- Whether a counter stands at its limit (R40). -/
def ctrFull (c : Ctr) (g : Group) : Bool :=
  match c with
  | .l => g.cntL == 63
  | .s => g.cntS == 63
  | .none => false

/-- The words that a loaded value of z bytes fills (R159): the top bit is copied for z below 4 under the signed types. -/
def loadWords (z ty v : Nat) : List Word :=
  if z < 4 then [wd (if tySigned ty then wrapTo 32 (toSigned (8 * z) v) else v)]
  else (List.range (z / 4)).map (fun k => wd (v / 2 ^ (32 * k)))

/-- The value that a lane of an operation writes: a predicate bit (R165), or registers from d in the lanes of en (R25, R26). -/
def writeLoaded (o : MemOp) (en : Mask) (v : Nat) (g : Group) : Group :=
  match o.pred with
  | some p => writePred p en (allLanes (v % 2 == 1)) g
  | none =>
    if !o.ret || 0xF0 ≤ o.d then g
    else
      let ws := (loadWords o.z (match o.kind with | .load => o.ty | _ => 1) v)
      writeRegs en (((List.range ws.length).map (fun k => o.d + k)).zip
        (ws.map (fun w => if o.uni then RegVal.u w else .g (List.replicate (width g) w)))) g

/-- A lane of an operation completes with a value (R157, R223): lanes that have exited receive nothing (R114); a U result is
written when the last lane completes. -/
def laneDone (id lane : Nat) (v : Nat) (g : Group) : Group :=
  match findOp id g with
  | none => g
  | some o =>
    let o1 := { o with lanes := updateWhere (fun l => l.lane == lane) (fun l => { l with done := true, ret := BitVec.ofNat 512 v }) o.lanes }
    let g1 := modOp id (fun _ => o1) g
    let g2 :=
      if o.uni then (if o1.lanes.all (fun l => l.done) then writeLoaded o1 (residentLanes g) v g1 else g1)
      else writeLoaded o1 (maskOfLanes [lane] &&& residentLanes g) v g1
    mapStrands (fun t => if t.hold = .op id then { t with pend := t.pend &&& ~~~(maskOfLanes [lane]) } else t) g2

/-- A strand held at an operation that has completed goes on (R157). -/
def releaseOp (id : Nat) (t : Strand) : Strand :=
  if t.hold = .op id then { t with hold := .none, pc := t.pc + 4, replay := none, pend := 0 } else t

/-- Removes an operation whose lanes have all completed (R40, R157). -/
def closeOp (id : Nat) (g : Group) : Group :=
  match findOp id g with
  | none => g
  | some o =>
    if o.lanes.all (fun l => l.done) then
      mapStrands (releaseOp id) (progress (dropCtr o.ctr { g with outs := g.outs.filter (fun x => x.id != id) }))
    else g

/-- Whether an operation of a group is an acquire that its last open lane, a lane given, completes: its scope, with the group (R162). -/
def acquireDue (gid id lane : Nat) (s : State) : Option (Nat × Group) :=
  match findGroup gid s with
  | none => none
  | some g => match findOp id g with
    | none => none
    | some o => if o.kind.acquires && o.lanes.all (fun l => l.done || l.lane == lane) then some (o.scope, g) else none

/-- Completes a lane of an operation of a group, and the operation with its last lane; an acquire then takes effect (R242). -/
def completeLane (gid id lane v : Nat) (s : State) : State :=
  let s1 := settleGroup gid (modGroup gid (fun g => closeOp id (laneDone id lane v g)) s)
  match acquireDue gid id lane s with
  | some (scope, g) => acquireAt scope g s1
  | none => s1

/-- The lanes of an operation that have not completed. -/
def openLanes (o : MemOp) : Mask := maskOfLanes ((o.lanes.filter (fun l => !l.done)).map (·.lane))

/-- The lanes of an operation that are held at a page fault (R154). -/
def heldLanes (o : MemOp) : Mask := maskOfLanes ((o.lanes.filter (fun l => l.held)).map (·.lane))

/-- A strand held at page faults of an operation whose lane has come free of its fault goes on once none is left (R154). -/
def freeLane (id lane : Nat) (t : Strand) : Strand :=
  if t.hold = .lanes id then
    let p := t.pend &&& ~~~(maskOfLanes [lane])
    if p = 0 then { t with hold := .none, pc := t.pc + 4, pend := 0, replay := none } else { t with pend := p }
  else t

/-- Whether a place is host memory. -/
def Loc.isHost : Loc → Bool
  | .host _ => true
  | .dev _ => false
  | .scr _ _ => false
  | .pod _ _ => false

/-- A strand held at page faults of an atomic one of whose lanes leads to host memory stays until every AtomicOp has completed (R154, R157,
R176). -/
def awaitHost (id : Nat) (m : Mask) (t : Strand) : Strand := if t.hold = .lanes id then { t with hold := .op id, pend := m } else t

/-- Whether an operation of a group is an atomic. -/
def isAtomicOp (id : Nat) (g : Group) : Bool :=
  match findOp id g with
  | some o => (match o.kind with | .atomic _ => true | _ => false)
  | none => false

/-- Gives a lane that was held at a page fault its place (R154, R357). -/
def placeHeld (id lane : Nat) (loc : Loc) (g : Group) : Group :=
  let g1 := modOp id (fun o =>
    { o with lanes := updateWhere (fun l => l.lane == lane) (fun l => { l with held := false, loc := loc }) o.lanes }) g
  if loc.isHost && isAtomicOp id g then mapStrands (awaitHost id (((findOp id g1).map openLanes).getD 0)) g1
  else mapStrands (freeLane id lane) g1

/-- Takes the lanes that are held at page faults out of an operation: what has its place goes on (R154, R399). -/
def dropHeld (id : Nat) (g : Group) : Group :=
  closeOp id (modOp id (fun o => { o with lanes := o.lanes.filter (fun l => !l.held) }) g)

/-- Ends an operation without its open lanes: its counter falls and its waits leave the bench (R166, R198, R250); the strand
it holds stays at the instruction. -/
def cancelOp (id : Nat) (g : Group) : Group :=
  match findOp id g with
  | none => g
  | some o => progress (dropCtr o.ctr { g with outs := g.outs.filter (fun x => x.id != id) })

/-- Ends an operation of a group without its open lanes, and the waits on counters that its fall ends (R119). -/
def endOpen (gid id : Nat) (s : State) : State := settleGroup gid (modGroup gid (cancelOp id) s)

/-- Puts a group's strand that holds a lane at the issue position (R47). -/
def focusLane (gid lane : Nat) (s : State) : State := modCur (focusStrand lane) (focus gid s)

/-- The trap of a held replayable instruction (R154): the lanes in m form the replay mask. -/
def replayTrap (gid lane : Nat) (m : Mask) (t : Trap) (s : State) : State :=
  let s1 := focusLane gid lane s
  takeTrap t (modCur (fun g =>
    { g with replay := some (g.strand.pc, m), strand := { g.strand with hold := .none, pend := 0, replay := none } }) s1)

/-! ### Barrow entries -/

/-- Removes a barrow entry's number from what a strand waits for (R195, R197). -/
def dropDrain (id : Nat) (t : Strand) : Strand :=
  match t.hold with
  | .drain ids => let l := ids.filter (fun i => i != id)
    if l.isEmpty then { t with hold := .none, pc := t.pc + 4, replay := none } else { t with hold := .drain l }
  | .rcommit ids => { t with hold := .rcommit (ids.filter (fun i => i != id)) }
  | _ => t

/-- Closes a remote region and discards its checkpoint (R197); SR_RCKP reads 0 without a region (DESIGN CHOICE, log entry 104). -/
def closeRegion (g : Group) : Group := { g with region := none, rckp := 0 }

/-- An RCOMMIT that has nothing left to wait for commits its region (R197), but for a region that has failed (R198). -/
def commitRegion (g : Group) : Group :=
  if (allStrands g).any (fun t => t.hold == .rcommit []) && !(match g.region with | some r => r.failing.isSome | none => false) then
    progress (closeRegion (mapStrands (fun t =>
      if t.hold = .rcommit [] then { t with hold := .none, pc := t.pc + 4, replay := none } else t) g))
  else g

/-- Whether an episode is complete (R298): what this package's arrival covers is acknowledged, and every member's token is here. -/
def episodeDone (s : State) (e : Episode) : Bool := e.cover.isEmpty && e.members.all (fun m => m == pkgId s || e.got.contains m)

/-- Whether a strand is held at an episode (R196). -/
def atEpisode (e : Episode) (t : Strand) : Bool := match t.hold with | .pbar c b n _ => c == e.ctx && b == e.bar && n == e.ep | _ => false

/-- Whether a token of an episode is still to be sent to a member that is not lost (R298, R408). -/
def tokensLeft (s : State) (e : Episode) : Bool :=
  e.members.any (fun m => m != pkgId s && !e.sentTo.contains m && decide ((Sparse.get 0 s.health m).toNat < 2))

/-- Ends the episodes that are complete, and the strands held at them, an acquire at pod scope (R196, R242, R262, R298). -/
def completeEpisodes (s : State) : State :=
  let done := s.episodes.filter (fun e => episodeDone s e && !e.failed)
  let free := fun (t : Strand) => done.any (fun e => atEpisode e t)
  ((groups s).filter (fun g => (allStrands g).any free)).foldl (fun s g => acquireAt 3 g s) <| mapGroups (fun g => (allStrands g).any free)
    (fun g => progress (mapStrands (fun t => if free t then { t with hold := .none, pc := t.pc + 4, replay := none } else t) g))
    { s with episodes := s.episodes.filter (fun e => !(done.contains e || e.failed) || tokensLeft s e) }

/-- Removes a barrow entry that has been acknowledged (R290): strands in PDRAIN and RCOMMIT, and pod-barrier arrivals, no
longer wait for it (R195, R197, R298). -/
def retireEntry (id : Nat) (s : State) : State :=
  completeEpisodes <| mapGroups (fun g => (allStrands g).any (fun t => match t.hold with | .drain _ => true | .rcommit _ => true | _ => false))
    (fun g => commitRegion (mapStrands (dropDrain id) g))
    { s with barrow := s.barrow.filter (fun b => b.id != id),
             episodes := s.episodes.map (fun e => { e with cover := e.cover.filter (fun i => i != id) }) }

/-- The barrow entry of a number. -/
def findEntry (id : Nat) (s : State) : Option Barrow := s.barrow.find? (fun b => b.id == id)

/-- Applies f to a barrow entry. -/
def modEntry (id : Nat) (f : Barrow → Barrow) (s : State) : State := { s with barrow := updateWhere (fun b => b.id == id) f s.barrow }

/-- Marks a group's region as failed: it issues nothing more until its rollback (R198). -/
def failRegion (cause : Cause) (g : Group) : Group :=
  { g with region := g.region.map (fun r => { r with failing := some (r.failing.getD (BitVec.ofNat 8 cause.code)) }) }

/-- A remote failure of operation `op` of a group (R114, R158, R198, R300): to the region's handler where the operation was issued
inside the region and lanes are left to run it, a context error otherwise. -/
def remoteFail (gid op : Nat) (cause : Cause) (va : DWord) (s : State) : State :=
  match findGroup gid s with
  | none => s
  | some g =>
    match g.region with
    | some r => if r.firstOp ≤ op && residentLanes g != 0 then
        due (.regionRollback gid (BitVec.ofNat 8 cause.code)) (modGroup gid (failRegion cause) s)
      else contextError cause.code va (focus gid s)
    | none => contextError cause.code va (focus gid s)

/-- The cause of a failure reply's code (R300). -/
def causeOfCode (c : Nat) : Cause :=
  if c = 0x0C then .feBudget else if c = 0x14 then .peerLost else if c = 0x16 then .remotePoison else .remoteDenied

/-- The pod address of an offset in a package's export window (R152). -/
def podAddr (pkg off : Nat) : DWord := dw (2 ^ 56 + pkg * 2 ^ 46 + off)

/-- A copy whose barrow entry has been answered (R193, R290, R300): its bytes have all arrived, or it has failed. -/
def copyReplied (e : Nat) (fail : Option Cause) (s : State) : State :=
  { s with engines := updateWhere (fun x => x.id == e) (fun x =>
      match fail with
      | some c => { x with fail := some (c, x.dst) }
      | none => { x with remote := false, landed := x.size, filled := true }) s.engines }

/-- What the state keeps for a peer (R291). -/
def getPeer (s : State) (p : Nat) : Peer := Sparse.get Peer.start s.peers p

/-- Replaces what is kept for a peer. -/
def setPeer (p : Nat) (v : Peer) (s : State) : State := { s with peers := Sparse.set Peer.start s.peers p v }

/-- Whether a flit carries something of a barrow entry of this package. -/
def mentions (me id : Nat) : FlitBody → Bool
  | .parcel p => p.src == me && p.entry == id && p.pull.isNone
  | .ops l => l.any (fun r => r.tag == id)
  | .replies _ => false
  | .overflow _ _ => false
  | .tier _ _ => false
  | .idle => false

/-- Whether a flit with something of an entry is not yet acknowledged by the entry's package (R290). -/
def stillOut (s : State) (b : Barrow) : Bool :=
  let p := getPeer s b.dst
  (p.unacked ++ p.replay).any (fun f => mentions (pkgId s) b.id f.2.2)

/-- An entry whose reply has been delivered retires once every flit with something of it is acknowledged (R290). -/
def answerEntry (b : Barrow) (s : State) : State :=
  if stillOut s b then modEntry b.id (fun b => { b with answered := true }) s else retireEntry b.id s

/-! ### Operations that end before they complete -/

/-- Whether a place lies in another package, or in this one through a pod address. -/
def Loc.isPod : Loc → Bool
  | .pod _ _ => true
  | .dev _ => false
  | .scr _ _ => false
  | .host _ => false

/-- Whether a remote operation counts on a channel (R161, R193). -/
def OpKind.counted : OpKind → Bool
  | .store => true
  | .strl => true
  | .atomic _ => true
  | .load => false
  | .ldaq => false
  | .fe _ => false
  | .fence _ => false
  | .prel _ => true
  | .bid => false

/-- The channel id of a remote operation to a package: the group's open channel, where it leads there (R193). -/
def channelFor (g : Group) (p : Nat) : Option Nat :=
  if g.cchn.getLsbD 31 && fieldW g.cchn 8 10 == p then some (fieldW g.cchn 0 8) else none

/-- What a remote operation asks of its target (R288). -/
def OpKind.remote : OpKind → RemKind
  | .load => .load
  | .ldaq => .load
  | .store => .store
  | .strl => .strl
  | .atomic op => .atomic op
  | .fe k => .fe k
  | .prel c => .prel c
  | .fence _ => .load
  | .bid => .load

/-- The operation record of a remote lane (R288, R249). -/
def remoteRecord (s : State) (g : Group) (o : MemOp) (tag : Nat) (l : LaneAcc) (p off : Nat) : OpRecord :=
  { src := pkgId s, ctx := g.ctx, part := g.part, core := g.core, slot := g.quarter * 32 + g.slot, lane := l.lane, tag := tag,
    kind := o.kind.remote, off := off, size := o.z, ty := BitVec.ofNat 4 o.ty, round := BitVec.ofNat 3 o.round,
    data := l.data, data2 := l.data2, chan := if o.kind.counted then channelFor g p else none,
    spin := o.spins, park := o.limit, scope := BitVec.ofNat 3 o.scope, instr := o.id }

/-- A barrow entry for a record of a group's operation (R289); since is the number of slots to its package that have begun (R316). -/
def barrowEntry (id dst gid gang op since : Nat) (reply : Bool) (r : OpRecord) : Barrow :=
  { id := id, dst := dst, gid := some gid, gang := some gang, op := op, rcd := r, copy := none, total := 1, cur := none, sent := 0, gone := [],
    relayed := [], refused := [], since := since, reply := reply, answered := false, doneQ := false }

/-- The entry that withdraws what an entry has sent (R169, R433). -/
def withdrawal (id since : Nat) (b : Barrow) : Barrow :=
  { b with id := id, copy := none, total := 1, cur := none, sent := 0, gone := [], relayed := [], refused := [],
           since := since, reply := true, answered := false, doneQ := false, queued := false, rcd := { b.rcd with tag := id, kind := .withdraw b.id } }

/-- Whether a barrow's acceptance completes a lane (R40, R157): a write that returns nothing and waits for nothing. -/
def acceptedByBarrow (k : OpKind) (ret : Bool) : Bool :=
  match k with
  | .store => true
  | .strl => true
  | .prel _ => true
  | .atomic _ => !ret
  | .fe .stfu => true
  | .fe .fefull => true
  | .fe .feempty => true
  | .fe _ => false
  | .load => false
  | .ldaq => false
  | .fence _ => false
  | .bid => false

/-- Places remote lanes of an operation of a group in their barrows (R161, R289). -/
def pushRemote (g : Group) (o : MemOp) : List LaneAcc → State → State
  | [], s => s
  | l :: ls, s =>
    match l.loc with
    | .pod p off =>
      let (id, s1) := freshId s
      pushRemote g o ls { s1 with barrow := s1.barrow ++ [barrowEntry id p g.id g.gang o.id (getPeer s p).slots (!acceptedByBarrow o.kind o.ret)
          (remoteRecord s g o id l p off)] }
    | .dev _ => pushRemote g o ls s
    | .scr _ _ => pushRemote g o ls s
    | .host _ => pushRemote g o ls s

/-- The barrow entry of a lane of an operation. -/
def entryOf (gid op lane : Nat) (s : State) : Option Barrow :=
  s.barrow.find? (fun b => b.gid == some gid && b.op == op && b.rcd.lane == lane && b.copy.isNone &&
    (match b.rcd.kind with | .withdraw _ => false | _ => true))

/-- Whether an open lane of an operation is under way at its target (R169). -/
def lanesAway (s : State) (gid : Nat) (o : MemOp) : Bool :=
  o.lanes.any (fun l => !l.done && l.loc.isPod && (entryOf gid o.id l.lane s).isSome)

/-- A strand that an operation holds, brought back to the SAFE before its instruction (R169). -/
def backedOut (id : Nat) (t : Strand) : Strand :=
  if t.hold = .op id then { t with hold := .none, pend := 0, replay := none, pc := t.pc - 4 } else t

/-- A strand that an operation holds executes its instruction again for lanes of a mask (R154, R407). -/
def executedAgain (id : Nat) (m : Mask) (t : Strand) : Strand :=
  if t.hold = .op id then { t with hold := .none, pend := 0, replay := some (m &&& t.mask) } else t

/-- An operation that was to be backed out, of which a lane has completed at its target, goes on waiting (R169): what was withdrawn is
attempted again. -/
def resumeOp (g : Group) (o : MemOp) (s : State) : State :=
  pushRemote g o (o.lanes.filter (fun l => !l.done && l.loc.isPod)) (modGroup g.id (modOp o.id (fun o => { o with ending := none })) s)

/-- The end of an operation that is being ended, once none of its lanes is under way at its target (R154, R166, R169, R176): the trap with
its replay mask, the return to the instruction for its open lanes, or the return to the SAFE where no lane has completed. -/
def finishEnd (gid id : Nat) (s : State) : State :=
  match findGroup gid s with
  | none => s
  | some g => match findOp id g with
    | none => s
    | some o =>
      if lanesAway s gid o then s
      else match o.ending with
        | none => s
        | some (.trap c lane va) => replayTrap gid lane (openLanes o) (laneTrap c lane va) (endOpen gid id s)
        | some (.watchdog us) =>
          replayTrap gid ((lowestLane (openLanes o)).getD 0) (openLanes o) (trapOf .watchdog us) (endOpen gid id s)
        | some .again => endOpen gid id (modGroup gid (mapStrands (executedAgain id (openLanes o))) s)
        | some .drop => endOpen gid id s
        | some .backOut =>
          if o.lanes.any (fun l => l.done) then resumeOp g o s else endOpen gid id (modGroup gid (mapStrands (backedOut id)) s)

/-- The answer to a withdrawal (R169): the lane that it names no longer waits at its target (1), or has completed there (0). -/
def withdrawn (b : Barrow) (t : Nat) (v : Nat) (s : State) : State :=
  let s1 := answerEntry b (if v = 1 then (match findEntry t s with | some e => answerEntry e s | none => s) else s)
  match b.gid with
  | some gid => finishEnd gid b.op s1
  | none => s1

/-- A remote load's value with the bytes that completed lanes of its instruction have read already: a load reads each byte once (R155). -/
def readOnce (o : MemOp) (off v : Nat) : Nat :=
  natLE ((List.range o.z).map (fun i =>
    match o.lanes.find? (fun a => a.done && (match a.loc with | .pod _ u => decide (u ≤ off + i) && decide (off + i < u + o.z) | _ => false)) with
    | some a => (match a.loc with | .pod _ u => a.ret.extractLsb' (8 * (off + i - u)) 8 | _ => 0)
    | none => BitVec.ofNat 8 (v / 2 ^ (8 * i))))

/-- The value that a reply brings to a lane of an operation of a group (R155): what a load reads, every lane reads once. -/
def replyValue (gid op : Nat) (b : Barrow) (v : Nat) (s : State) : Nat :=
  match b.rcd.kind, (findGroup gid s).bind (findOp op) with
  | .load, some o => readOnce { o with lanes := o.lanes.filter (fun a => match a.loc with | .pod p _ => p == b.dst | _ => false) } b.rcd.off v
  | _, _ => v

/-- The reply to a lane's remote operation (R290, R296, R300): the value, or the failure; the entry retires. A reply to an
operation that has been abandoned is discarded (R198). -/
def deliverReply (r : Reply) (s : State) : State :=
  match findEntry r.tag s with
  | none => s
  | some b =>
    match b.rcd.kind, b.copy, b.gid with
    | .withdraw t, _, _ => withdrawn b t (if r.fail.isSome then 1 else r.data.toNat) s
    | _, some e, gid =>
      let c := r.fail.map (fun c => causeOfCode c.toNat)
      match c, gid with
      | some c, some gid => answerEntry b (remoteFail gid b.op c (podAddr b.dst b.rcd.off) (copyReplied e (some c) s))
      | _, _ => answerEntry b (copyReplied e c s)
    | _, none, none => answerEntry b s
    | _, none, some gid =>
      match r.fail with
      | some c => answerEntry b (remoteFail gid b.op (causeOfCode c.toNat) (podAddr b.dst b.rcd.off) s)
      | none => finishEnd gid b.op (completeLane gid b.op r.lane (replyValue gid b.op b r.data.toNat s) (answerEntry b s))

end Sys2Proof.Machine
end

