-- ==== Sys2Proof/Machine/BarrierObject.lean ====
section
/-! DEFINITION. Barrier objects in scratchpad (R188, R189, R255): their fields, the flip of a phase, the waits that it ends, and
the pending bytes of bound copies. -/

namespace Sys2Proof.Machine

/-- The bytes of a barrier object as a number (R188); the object lies in the leader's scratchpad (R233). -/
def barObj (s : State) (tm off : Nat) : Nat := readBytes s tm (.scr false off) 16

/-- EXP (R188). -/
def barExp (v : Nat) : Nat := bits v 0 16

/-- ARR (R188). -/
def barArr (v : Nat) : Nat := bits v 16 16

/-- PH (R188). -/
def barPh (v : Nat) : Bool := v.testBit 32

/-- PEND (R188). -/
def barPend (v : Nat) : Nat := bits v 64 48

/-- Writes the bytes of a barrier object. -/
def setBar (tm off v : Nat) (s : State) : State := writeBytes tm (.scr false off) 16 v s

/-- The object with ARR replaced. -/
def withArr (v n : Nat) : Nat := v - barArr v * 2 ^ 16 + n % 2 ^ 16 * 2 ^ 16

/-- The object with PEND replaced, modulo 2^48. -/
def withPend (v n : Nat) : Nat := v - barPend v * 2 ^ 64 + n % 2 ^ 48 * 2 ^ 64

/-- The object after a flip: PH inverted, ARR 0 (R189). -/
def flipped (v : Nat) : Nat :=
  let u := withArr v 0
  if barPh u then u - 2 ^ 32 else u + 2 ^ 32

/-- Whether the flip test holds (R189). -/
def flipDue (v : Nat) : Bool := barArr v == barExp v && barPend v == 0

/-- Ends every BARW of a team whose phase differs from its bit, whatever changed it (R189). -/
def releaseBarw (tm : Nat) (s : State) : State :=
  let free := fun (t : Strand) => match t.hold with | .barw off b _ => barPh (barObj s tm off) != b | _ => false
  mapGroups (fun g => g.team == tm && (allStrands g).any free)
    (fun g => progress (mapStrands (fun t => if free t then { t with hold := .none, pc := t.pc + 4, replay := none } else t) g)) s

/-- The flip of an object (R189), without the arrivals that wait for it. -/
def flipObj (tm off : Nat) (s : State) : State := releaseBarw tm (setBar tm off (flipped (barObj s tm off)) s)

/-- Counts one arrival, and flips where the test then holds (R189). -/
def bumpArr (tm off : Nat) (s : State) : State :=
  let v := barObj s tm off
  let u := withArr v (barArr v + 1)
  if flipDue u then flipObj tm off (setBar tm off u s) else setBar tm off u s

/-- The first strand of a team that a BARA holds at an object: its group, its lanes and its destination. -/
def heldBara (tm off : Nat) (s : State) : Option (Group × Mask × Nat) :=
  firstSome ((teamGroups s tm).flatMap (fun g => (allStrands g).map (fun t =>
    match t.hold with
    | .bara o d => if o = off && t.mask != 0 then some (g, t.mask, d) else none
    | _ => none)))

/-- The destination writes of a phase. -/
def phaseWrite (d : Nat) (ph : Bool) : List (Nat × RegVal) := if 0xF0 ≤ d then [] else [(d, .u (wd (boolNat ph)))]

/-- The strand of lanes m that a BARA holds goes on, live or shelved, with a phase in its destination (R189, R226). -/
def passBara (m : Mask) (d v : Nat) (g : Group) : Group :=
  progress (mapStrands (fun t => if t.mask = m then { t with hold := .none, pc := t.pc + 4, replay := none } else t)
    (writeRegs m (phaseWrite d (barPh v)) g))

/-- The strand of lanes m that a BARA holds traps SHAPE for its narrow destination (R27). -/
def shapeBara (gid : Nat) (m : Mask) (r : Nat) (s : State) : State :=
  takeTrap (trapOf .shape (dw r))
    (modCur (fun g => progress (setStrand { g.strand with hold := .none } g)) (focusLane gid ((lowestLane m).getD 0) s))

/-- The arrivals that a flip lets go on (R189): each counts in the new phase where ARR < EXP there; n bounds their number. -/
def serveBaras (tm off : Nat) : Nat → State → State
  | 0, s => s
  | n + 1, s =>
    match heldBara tm off s with
    | none => s
    | some (g, m, d) =>
      let v := barObj s tm off
      match narrowFault m g (phaseWrite d (barPh v)) with
      | some r => serveBaras tm off n (shapeBara g.id m r s)
      | none =>
        let s1 := modGroup g.id (passBara m d v) s
        serveBaras tm off n (if barArr v < barExp v then bumpArr tm off s1 else s1)

/-- The flip of an object, and the arrivals that waited for it (R189). -/
def flip (tm off : Nat) (s : State) : State :=
  let s1 := flipObj tm off s
  { serveBaras tm off (((teamGroups s tm).map strandCount).foldl (· + ·) 0) s1 with last := s.last }

/-- The flip test after a fall of PEND (R189). -/
def testFlip (tm off : Nat) (s : State) : State := if flipDue (barObj s tm off) then flip tm off s else s

/-- Pending bytes fall as bytes land (R183, R255). -/
def landPend (tm off n : Nat) (s : State) : State :=
  let v := barObj s tm off
  testFlip tm off (setBar tm off (withPend v (barPend v + 2 ^ 48 - n % 2 ^ 48)) s)

/-- A copy bound at issue adds its size to PEND (R183). -/
def bindPend (tm off n : Nat) (s : State) : State :=
  let v := barObj s tm off
  setBar tm off (withPend v (barPend v + n)) s

end Sys2Proof.Machine
end

