-- ==== Sys2Proof/Machine/FullEmpty.lean ====
section
/-! DEFINITION. Full/empty words: the step on one word, the bench with its records in memory, spinning and parking, and the
wake sequence (R164 to R168, R246 to R250, R433). -/

namespace Sys2Proof.Machine

/-- Whether a remote operation ends with a reply where it succeeds (R290, R296). -/
def repliesTo : RemKind → Bool
  | .load => true
  | .atomic _ => true
  | .fe .ldwt => true
  | .fe .ldcn => true
  | .fe .stfl => true
  | .fe .fetest => true
  | .fe _ => false
  | .store => false
  | .strl => false
  | .prel _ => false
  | .pull _ _ => false
  | .completion _ _ => false
  | .withdraw _ => true

/-- Sends the reply of a served operation to its source: at once for the issuing package, else with the next slot; one that returns
nothing draws a reply only where it fails (R290, R296, R300). -/
def replyTo (r : OpRecord) (data : Nat) (fail : Option Cause) (s : State) : State :=
  let y : Reply := { tag := r.tag, lane := r.lane, data := BitVec.ofNat 512 data, fail := fail.map (fun c => BitVec.ofNat 8 c.code) }
  if r.src = pkgId s then deliverReply y s
  else if fail.isNone && !repliesTo r.kind then s
  else
    let p := getPeer s r.src
    setPeer r.src { p with replies := p.replies ++ [y] } s

/-- Counts an arrival on the channel of an operation (R193, R194). -/
def countArrival (r : OpRecord) (s : State) : State :=
  match r.chan with
  | none => s
  | some c =>
    let x := getCtx s r.ctx
    let k := r.src * 256 + c
    setCtx r.ctx { x with arrivals := Sparse.set 0 x.arrivals k (Sparse.get 0 x.arrivals k + 1) } s

/-! ### The step on a word -/

/-- The step of a full/empty operation on a word (R165): the value it returns, the state after it, and whether the word's
state changed; none where the word is in the wrong state. -/
def feStep (k : FeKind) (tm : Nat) (loc : Loc) (data : DWord) (s : State) : Option (Nat × State × Bool) :=
  let full := readFe s tm loc
  match k with
  | .ldwt => if full then some (readBytes s tm loc 8, s, false) else none
  | .ldcn => if full then some (readBytes s tm loc 8, writeFe tm loc false s, true) else none
  | .stfl => if full then none else some (0, writeFe tm loc true (writeBytes tm loc 8 data.toNat s), true)
  | .stfu => some (0, writeFe tm loc true (writeBytes tm loc 8 data.toNat s), !full)
  | .fefull => some (0, writeFe tm loc true s, !full)
  | .feempty => some (0, writeFe tm loc false s, full)
  | .fetest => some (boolNat full, s, false)

/-! ### The bench -/

/-- The bytes of a context's bench that hold buckets (R248). -/
def benchSize (s : State) (c : Nat) : Nat := 2 ^ (getCtx s c).lgbench

/-- The tag of a word: bits [48:17] of its virtual address (R248). -/
def benchTag (va : Nat) : Nat := bits va 17 32

/-- The bucket index of a word in a bench of 2^b buckets (R248). -/
def bucketIndex (b va : Nat) : Nat :=
  bits va 3 14 ^^^ ((benchTag va * 0x9E3779B1 % 2 ^ 32) >>> (32 - b))

/-- The bucket index of a word of a context. -/
def bucketOf (s : State) (c va : Nat) : Nat := bucketIndex ((getCtx s c).lgbench - 6) va

/-- The parked waits of a bucket, in the order of parking (R249). -/
def parkedIn (s : State) (c i : Nat) : List FeWait :=
  s.waits.filter (fun w => w.ctx == c && w.mode == .parked && bucketOf s c w.va.toNat == i)

/-- The partition, core, slot and lane that a wait record names (R249, R433); a count-word read names its group with lane 0. -/
def waitPlace (s : State) (w : FeWait) : Nat × Nat × Nat × Nat :=
  let ofGroup := fun (gid lane : Nat) => match findGroup gid s with
    | some g => (g.part, g.core, g.quarter * 32 + g.slot, lane)
    | none => (0, 0, 0, lane)
  match w.who with
  | .lane gid _ lane => ofGroup gid lane
  | .remote r => (r.part, r.core, r.slot, r.lane)
  | .engine e => match s.engines.find? (fun x => x.id == e) with
    | some x => match x.gid with
      | some gid => ofGroup gid 0
      | none => (x.part, 0x7F, 0x7F, 0)
    | none => (0, 0x7F, 0x7F, 0)
  | .tile tm k => match (Sparse.get TileStream.start (getTeam s tm).streams k).ops with
    | o :: _ => ofGroup o.gid 0
    | [] => (0, 0, 0, 0)

/-- The KIND of a wait record (R249). -/
def kindCode : FeKind → Nat
  | .ldwt => 0 | .ldcn => 1 | _ => 2

/-- The record of a parked wait (R249). -/
def waitRecord (s : State) (w : FeWait) : Nat :=
  let (part, core, slot, lane) := waitPlace s w
  benchTag w.va.toNat * 2 ^ 32 + kindCode w.kind * 2 ^ 30 +
    (match w.entry with
      | some i => 2 ^ 29 + i
      | none => part * 2 ^ 27 + core * 2 ^ 20 + slot * 2 ^ 13 + lane * 2 ^ 6)

/-- The AGENT of a remote-wait entry (R433): an engine fill of a group, of a packet, or a remote lane. -/
def waitAgent (w : FeWait) (core : Nat) : Nat :=
  match w.who with
  | .engine _ => if core = 0x7F then 2 else 1
  | .remote r => (match r.kind with | .completion _ _ => if core = 0x7F then 2 else 1 | _ => 0)
  | .lane _ _ _ => 0
  | .tile _ _ => 0

/-- The source package of a wait (R249). -/
def waitSource (s : State) (w : FeWait) : Nat := match w.who with | .remote r => r.src | _ => pkgId s

/-- The remote-wait entry of a wait (R249). -/
def waitEntry (s : State) (w : FeWait) : Nat :=
  let (part, core, slot, lane) := waitPlace s w
  let deadline := match w.since with
    | some t => if w.limit = 0 then 2 ^ 64 - 1 else (t.toNat + 1000 * w.limit) % 2 ^ 64
    | none => 2 ^ 64 - 1
  (if kindCode w.kind = 2 then w.data.toNat else 0) * 2 ^ 192 + deadline * 2 ^ 128 + waitSource s w * 2 ^ 118 + part * 2 ^ 116 +
    core * 2 ^ 109 + slot * 2 ^ 102 + lane * 2 ^ 95 + waitAgent w core * 2 ^ 93 + 1

/-- Writes the bucket that holds a word's records (R249); ovf says that a lane found it full. -/
def syncBucket (c va : Nat) (ovf : Bool) (s : State) : State :=
  let i := bucketOf s c va
  let base := (getCtx s c).bench + 64 * i
  let ps := parkedIn s c i
  let old := (readByte s 0 (.dev base) 0).getLsbD 7
  let hdr := ps.length + (if (old || ovf) && ps.length ≠ 0 then 128 else 0)
  writeList 0 (.dev base)
    (bytesLE 8 hdr ++ ((List.range 7).flatMap (fun k => bytesLE 8 (match ps[k]? with | some w => waitRecord s w | none => 0)))) s

/-- Writes the remote-wait entry i of a context (R249): its holder's fields, or zero. -/
def syncEntry (c i : Nat) (s : State) : State :=
  let base := (getCtx s c).bench + benchSize s c + 32 * i
  writeList 0 (.dev base)
    (bytesLE 32 (match s.waits.find? (fun w => w.ctx == c && w.entry == some i) with | some w => waitEntry s w | none => 0)) s

/-- Brings the bench's bytes up to date after a wait's record has changed (R250). -/
def syncWait (w : FeWait) (ovf : Bool) (s : State) : State :=
  let s1 := syncBucket w.ctx w.va.toNat ovf s
  match w.entry with | some i => syncEntry w.ctx i s1 | none => s1

/-- Removes a wait, and its record with it (R250). -/
def dropWait (w : FeWait) (s : State) : State := syncWait w false { s with waits := s.waits.filter (fun x => x.id != w.id) }

/-- The lowest free remote-wait entry of a context (R249). -/
def freeEntry (s : State) (c : Nat) : Option Nat :=
  (List.range (min (benchSize s c / 256) (s.waits.length + 1))).find? (fun i => !s.waits.any (fun w => w.ctx == c && w.entry == some i))

/-- Whether a wait needs a remote-wait entry (R249, R433). -/
def needsEntry (w : FeWait) : Bool :=
  match w.who with | .remote _ => true | .engine _ => true | .lane _ _ _ => false | .tile _ _ => false

/-- Parks a wait at the end of its bucket, or leaves it in retry mode where the bucket is full or no entry is free (R166, R249,
R250). -/
def parkWait (w : FeWait) (s : State) : State :=
  let since := match w.since with | some t => some t | none => some s.time
  let entry := match w.entry with | some i => some i | none => if needsEntry w then freeEntry s w.ctx else none
  let s1 := { s with waits := s.waits.filter (fun x => x.id != w.id) }
  let full := decide (7 ≤ (parkedIn s1 w.ctx (bucketOf s w.ctx w.va.toNat)).length)
  let w1 := { w with since := since, tried := s.time, entry := entry, mode := if full || (needsEntry w && entry.isNone) then .retry else .parked }
  syncWait w1 full { s1 with waits := s1.waits ++ [w1] }

/-- What a wait does when its attempt has failed (R166, R247): it spins again, or parks; in retry mode it stays there, but that one
without a remote-wait entry tries to take one (R249). -/
def waitAgain (w : FeWait) (s : State) : State :=
  match w.mode with
  | .spin n => if n + 1 < w.spins then { s with waits := updateWhere (fun x => x.id == w.id) (fun x => { x with mode := .spin (n + 1), tried := s.time }) s.waits }
    else parkWait w s
  | .parked => s
  | .retry => if needsEntry w && w.entry.isNone then parkWait w s
    else { s with waits := updateWhere (fun x => x.id == w.id) (fun x => { x with tried := s.time }) s.waits }

/-! ### Completion and waking -/

/-- Applies f to an engine operation. -/
def modEngine (e : Nat) (f : EngOp → EngOp) (s : State) : State := { s with engines := updateWhere (fun x => x.id == e) f s.engines }

/-- Applies f to a tile stream of a team. -/
def modStream (tm k : Nat) (f : TileStream → TileStream) (s : State) : State :=
  let t := getTeam s tm
  setTeam tm { t with streams := Sparse.set TileStream.start t.streams k (f (Sparse.get TileStream.start t.streams k)) } s

/-- Applies f to the head of a tile stream. -/
def modHead (tm k : Nat) (f : TileOp → TileOp) (s : State) : State :=
  modStream tm k (fun x => { x with ops := match x.ops with | o :: l => f o :: l | [] => [] }) s

/-- A tile stream of a team. -/
def getStream (s : State) (tm k : Nat) : TileStream := Sparse.get TileStream.start (getTeam s tm).streams k

/-- Whether every operation of the batches up to a number has retired (R205); numbers outside the window of R205 do not wait. -/
def batchRetired (x : TileStream) (a : Nat) : Bool :=
  let d := (x.batch.toNat + 65536 - a) % 65536
  d = 0 || 32768 < d || !x.ops.any (fun o => decide ((a + 65536 - o.batch) % 65536 < 32768))

/-- Ends the TWTs of a team's stream whose batches have retired (R205). -/
def releaseTwt (tm k : Nat) (s : State) : State :=
  let free := fun (t : Strand) => match t.hold with | .twt j a => j == k && batchRetired (getStream s tm k) a | _ => false
  mapGroups (fun g => g.team == tm && (allStrands g).any free)
    (fun g => progress (mapStrands (fun t => if free t then { t with hold := .none, pc := t.pc + 4, replay := none } else t) g)) s

/-- Removes an operation of a tile stream: T falls, and the waits on it end (R40, R205). -/
def retireTile (tm k id : Nat) (s : State) : State :=
  match (getStream s tm k).ops.find? (fun o => o.id == id) with
  | none => s
  | some o =>
    settleGroup o.gid (modGroup o.gid (fun g => progress { g with cntT := g.cntT - 1 })
      (releaseTwt tm k (modStream tm k (fun x => { x with ops := x.ops.filter (fun o => o.id != id) }) s)))

/-- The report of a failed operation to its group (R180): at its next issue, or at once as a context error where all its lanes
have exited. -/
def reportFail (gid : Nat) (c : Cause) (v : DWord) (s : State) : State :=
  match findGroup gid s with
  | none => s
  | some g =>
    if residentLanes g = 0 then contextError c.code v (focus gid s)
    else modGroup gid (fun g => { g with efails := g.efails ++ [(c, v)] }) s

/-- Gives a waiter the outcome of its step (R166, R203, R290, R433). -/
def completeWaiter (who : Waiter) (v : Nat) (s : State) : State :=
  match who with
  | .lane gid op lane => completeLane gid op lane v s
  | .remote r => match r.kind with
    | .completion _ _ => replyTo r 0 none (countArrival r s)
    | _ => replyTo r v none s
  | .engine e => modEngine e (fun x => { x with filled := true, parked := false }) s
  | .tile tm k => modHead tm k (fun o => { o with count := some (dw v), counted := true }) s

/-- Whether an idempotent restart of a group is due (R399). -/
def restartDue (gid : Nat) (s : State) : Bool :=
  s.agenda.any (fun i => match i with | .idempotentRestart g _ => g == gid | _ => false) ||
  (match findGroup gid s with
    | some g => (match g.idemr with | some r => r.due.isSome | none => false)
    | none => false)

/-- Poison that an operation of a group meets (R396, R399): ignored where the group is about to restart or its gang aborts. -/
def poisonGroup (gid : Nat) (addr : DWord) (s : State) : State :=
  match findGroup gid s with
  | some g => if restartDue gid s || g.stopped || (getGang s g.gang).status == .aborting then s else consumePoison addr (focus gid s)
  | none => s

/-- A waiter whose word turns out to be poisoned when it is woken (R396, R300). -/
def poisonWaiter (who : Waiter) (addr : DWord) (s : State) : State :=
  match who with
  | .lane gid _ _ => poisonGroup gid addr s
  | .remote r => replyTo r 0 (some .remotePoison) s
  | .engine e => modEngine e (fun x => { x with parked := false, fail := some (.poison, addr) }) s
  | .tile tm k => match (Sparse.get TileStream.start (getTeam s tm).streams k).ops with
    | o :: _ => poisonGroup o.gid addr s
    | [] => s

/-- Whether a parked wait is woken by a change of a word (R250): the same word; in scratchpad also of the same team and core. -/
def wokenBy (c tm va : Nat) (loc : Loc) (w : FeWait) : Bool :=
  w.ctx == c && w.mode == .parked && w.va.toNat / 8 == va / 8 &&
  (match loc, w.loc with
    | .scr f _, .scr h _ => w.team == tm && f == h
    | .dev _, .dev _ => true
    | _, _ => false)

/-- The oldest parked wait of a kind on a word. -/
def oldest (k : FeKind) (c tm va : Nat) (loc : Loc) (s : State) : Option FeWait :=
  s.waits.find? (fun w => w.kind == k && wokenBy c tm va loc w)

/-- The wake sequence after a change of a word's state (R167): n bounds the number of waiters. A poisoned word is consumed by
the waiter that reads it, and no step takes place (R396). -/
def wakeWord (c tm va : Nat) (loc : Loc) : Nat → State → State
  | 0, s => s
  | n + 1, s =>
    let pass := fun (w : FeWait) =>
      if isPoisoned s tm loc 8 then poisonWaiter w.who (poisonLocator loc) (dropWait w s)
      else match feStep w.kind tm loc w.data s with
        | some (v, s1, _) => wakeWord c tm va loc n (completeWaiter w.who v (dropWait w s1))
        | none => s
    if readFe s tm loc then
      match oldest .ldwt c tm va loc s with
      | some w => pass w
      | none => match oldest .ldcn c tm va loc s with
        | some w => pass w
        | none => s
    else match oldest .stfl c tm va loc s with
      | some w => pass w
      | none => s

/-- Host fills held at a word that is empty (R324, R433): each writes and fills in turn; one through a context's address wakes
under R167, one through a physical address wakes nobody (R370); at a poisoned word none takes place (R396). -/
def wakeFills (pa : Nat) : Nat → State → State
  | 0, s => s
  | n + 1, s =>
    if readFe s 0 (.dev pa) then s
    else match s.fills.find? (fun f => f.pa / 8 == pa / 8) with
      | none => s
      | some f =>
        let s0 := { s with fills := s.fills.filter (fun x => x != f) }
        if isPoisoned s0 0 (.dev pa) 8 then wakeFills pa n s0
        else
        let s1 := writeFe 0 (.dev pa) true (writeBytes 0 (.dev pa) 8 f.val.toNat s0)
        wakeFills pa n (match f.ctx with
          | some c => wakeWord c 0 f.va.toNat (.dev pa) (s1.waits.length + 1) s1
          | none => s1)

/-- The wake sequence of a word, and the host fills that follow the parked fills of a change to empty (R167, R433). -/
def wake (c tm va : Nat) (loc : Loc) (s : State) : State :=
  let s1 := wakeWord c tm va loc (s.waits.length + 1) s
  match loc with
  | .dev pa => wakeFills pa s1.fills.length s1
  | .scr _ _ => s1
  | .host _ => s1
  | .pod _ _ => s1

/-- A whole attempt of a full/empty operation: the step, and the wakes that its change brings (R165, R167); none where the
operation must wait. -/
def feAttempt (k : FeKind) (c tm va : Nat) (loc : Loc) (data : DWord) (s : State) : Option (Nat × State) :=
  match feStep k tm loc data s with
  | some (v, s1, changed) => some (v, if changed then wake c tm va loc s1 else s1)
  | none => none

end Sys2Proof.Machine
end

