-- ==== Sys2Proof/Machine/Serve.lean ====
section
/-! DEFINITION. The effect of an access at the place where it is performed: atomics (R171 to R176), and remote operations served
at their target, for other packages and for the issuing package (R152, R161, R170, R193, R194, R296, R300). -/

namespace Sys2Proof.Machine

/-- An atomic's new value from the old one m, the operand x and the new value n of a compare-and-swap (R172, R173). -/
def atomicNew (op : AtomOp) (ty mode m x n : Nat) : Nat :=
  let w := if ty64 ty then 64 else 32
  let float := tyFloat ty
  match op with
  | .add => if float then mapElems ty (fun a b _ => faddOf ty mode a b) m x 0 else (m + x) % 2 ^ w
  | .min => if float then minF (fmtOf ty) m x else if intOf ty x < intOf ty m then x else m
  | .max => if float then maxF (fmtOf ty) m x else if intOf ty m < intOf ty x then x else m
  | .and => m &&& x
  | .or => m ||| x
  | .xor => m ^^^ x
  | .swp => x
  | .cas => if m = x then n else m
  | .inc => if x ≤ m then 0 else m + 1
  | .dec => if m = 0 || decide (x < m) then x else m - 1
where
  /-- A floating-point add of two elements (R172). -/
  faddOf (ty mode a b : Nat) : Nat := encodeF (fmtOf ty) mode (sumF mode [decodeF (fmtOf ty) a, decodeF (fmtOf ty) b])

/-- Stores z bytes at a place (R159). A whole poisoned unit of device memory, or a whole word of scratchpad, that is written
loses its poison (R395). -/
def storeAt (tm : Nat) (loc : Loc) (z v : Nat) (s : State) : State :=
  let s1 := writeBytes tm loc z v s
  match loc with
  | .dev _ => if z = 64 then setPoison tm loc z false s1 else s1
  | .scr _ _ => if 8 ≤ z then setPoison tm loc z false s1 else s1
  | .host _ => s1
  | .pod _ _ => s1

/-- What an access of a remote operation needs (R353). -/
def remoteKind : RemKind → AccKind
  | .load => .rd
  | .store => .wr
  | .strl => .wr
  | .atomic _ => .at
  | .fe .ldwt => .feRead
  | .fe .fetest => .feRead
  | .fe _ => .feWrite
  | .prel _ => .wr
  | .pull _ _ => .rd
  | .completion _ _ => .feWrite
  | .withdraw _ => .rd

/-- The ingress of a remote operation (R300). -/
inductive Ingress where
  | ok (va : Nat) (loc : Loc)
  | denied
  | absent (va : Nat) (paged : Bool)
  deriving DecidableEq, Repr

/-- The local virtual address of an offset of a context's export window; none outside it or where it has none (R300). -/
def exportVa (s : State) (c off n : Nat) : Option Nat :=
  let x := getCtx s c
  let va := x.expbase.toNat + off
  if x.live && decide (off + n ≤ x.explen) && decide (va + n ≤ Config.window) then some va else none

/-- The checks and the translation of n bytes at an offset of the export window (R300, R356). -/
def ingress (c off n : Nat) (k : AccKind) (s : State) : Ingress × State :=
  match exportVa s c off n with
  | none => (.denied, s)
  | some va =>
    match translate c 0 dieCore va k s with
    | (.ok pa m, s1) => (.ok va (placeOf pa m), homeServes (placeOf pa m) n s1)
    | (.absent p, s1) => (.absent va p, s1)
    | (.page, s1) => (.denied, s1)
    | (.protect, s1) => (.denied, s1)

/-- The full/empty operation of a remote operation, a completion's landing fill among them (R183). -/
def remoteFe : RemKind → Option FeKind
  | .fe k => some k
  | .completion _ _ => some .stfl
  | _ => none

/-- Whether the host performs an atomic as a PCI Express AtomicOp (R176). -/
def hostPerforms (op : AtomOp) (ty : Nat) : Bool :=
  match op with
  | .add => tyInt ty
  | .swp => true
  | .cas => true
  | _ => false

/-- The wait of a remote full/empty operation at its target (R170, R249). -/
def remoteWait (r : OpRecord) (k : FeKind) (va : Nat) (loc : Loc) (s : State) : State :=
  let (id, s1) := freshId s
  let w : FeWait := { id := id, ctx := r.ctx, team := 0, who := .remote r, kind := k, va := dw va, loc := loc,
                      data := r.data.setWidth 64, spins := r.spin, limit := r.park, mode := .spin 0, since := none, tried := s.time, entry := none }
  if r.spin = 0 then parkWait w s1 else { s1 with waits := s1.waits ++ [w] }

/-- A remote operation performed at its target's place (R161, R165, R172, R194, R300). -/
def serveAt (r : OpRecord) (va : Nat) (loc : Loc) (s : State) : State :=
  match remoteFe r.kind with
  | some k =>
    if loc.isHost then replyTo r 0 (some .remoteDenied) s
    else if isPoisoned s 0 loc 8 then replyTo r 0 (some .remotePoison) s
    else match feAttempt k r.ctx 0 va loc (r.data.setWidth 64) s with
      | some (v, s1) => completeWaiter (.remote r) v s1
      | none => remoteWait r k va loc s
  | none =>
    match r.kind with
    | .load =>
      if isPoisoned s 0 loc r.size then replyTo r 0 (some .remotePoison) s
      else replyTo r (readBytes s 0 loc r.size) none s
    | .store => replyTo r 0 none (countArrival r (storeAt 0 loc r.size r.data.toNat s))
    | .strl => replyTo r 0 none (countArrival r (storeAt 0 loc r.size r.data.toNat s))
    | .atomic op =>
      if isPoisoned s 0 loc r.size then replyTo r 0 (some .remotePoison) s
      else if loc.isHost && !hostPerforms op r.ty.toNat then replyTo r 0 (some .remoteDenied) s
      else
        let m := readBytes s 0 loc r.size
        let v := atomicNew op r.ty.toNat r.round.toNat m (r.data.toNat % 2 ^ (8 * r.size)) r.data2.toNat
        replyTo r m none (countArrival r (writeBytes 0 loc r.size v s))
    | .prel c => { s with prels := s.prels ++ [{ src := r.src, rcd := r, count := c }] }
    | .fe _ => s
    | .pull _ _ => s
    | .completion _ _ => s
    | .withdraw _ => s

/-- Whether two operation records come from one group (R274). -/
def sameIssuer (r q : OpRecord) : Bool :=
  r.src == q.src && r.ctx == q.ctx && r.part == q.part && r.core == q.core && r.slot == q.slot

/-- Bytes at the target that a remote operation touches. -/
def remoteBytes (r : OpRecord) : Nat := match r.kind with | .completion _ _ => 8 | _ => r.size

/-- What one flit of a pull's data is read from (R152, R288): the bytes with their bits and poison; or why there are none. -/
def pullPiece (r : OpRecord) (fe o n : Nat) (s : State) : (ParcelFlit ⊕ Option (Nat × Bool)) × State :=
  match ingress r.ctx (r.off + o) n (if fe = 1 then .feRead else .rd) s with
  | (.denied, s1) => (.inr none, s1)
  | (.absent va p, s1) => (.inr (some (va, p)), s1)
  | (.ok _ loc, s1) =>
    if loc.isHost && fe ≠ 0 then (.inr none, s1) else
    (.inl { src := pkgId s, dst := r.src, ctx := r.ctx, part := r.part, core := r.core, slot := r.slot, entry := r.tag, place := 0, num := o / 65536, off := o,
            bytes := (List.range n).map (fun i => readByte s1 0 loc i), feMode := BitVec.ofNat 2 fe,
            feBits := if fe = 1 then (List.range (n / 8)).map (fun k => match loc with
              | .dev pa => readFe s1 0 (.dev (pa + 8 * k))
              | _ => true) else [],
            poison := (List.range ((n + 63) / 64)).map (fun k => match loc with
              | .dev pa => isPoisoned s1 0 (.dev (pa + 64 * k)) (min 64 (n - 64 * k))
              | _ => false),
            first := o % 65536 == 0, last := o + n == r.size, final := o + n == r.size, relayed := false, pull := some r.tag }, s1)

/-- The data of a pull from offset o on, in flits of at most 256 bytes of one page each; fuel bounds their number. -/
def pullData (r : OpRecord) (fe : Nat) : Nat → Nat → List ParcelFlit → State → (List ParcelFlit ⊕ Option (Nat × Bool)) × State
  | 0, _, l, s => (.inl l, s)
  | k + 1, o, l, s =>
    if r.size ≤ o then (.inl l, s)
    else
      let va := (getCtx s r.ctx).expbase.toNat + r.off + o
      let n := min (min 256 (r.size - o)) (65536 - va % 65536)
      match pullPiece r fe o n s with
      | (.inl p, s1) => pullData r fe k (o + n) (l ++ [p]) s1
      | (.inr f, s1) => (.inr f, s1)

/-- A pull request served at its target (R184, R274, R356): its data is queued for its source. -/
def servePull (r : OpRecord) (fe : Nat) (s : State) : State :=
  match pullData r fe (r.size / 128 + 2) 0 [] s with
  | (.inl l, s1) =>
    let p := getPeer s1 r.src
    setPeer r.src { p with parcels := p.parcels ++ l } s1
  | (.inr none, s1) => replyTo r 0 (some .remoteDenied) s1
  | (.inr (some (va, pg)), s1) =>
    reportFault r.ctx va .rd 2 r.src pg { s1 with served := { src := r.src, rcd := r, held := some va } :: s1.served }

/-- The completion record of a copy counts as an arrival once, as soon as the copy's bytes have landed (R193): the record without its
channel. -/
def countOnce (r : OpRecord) (s : State) : OpRecord × State :=
  match r.kind with
  | .completion _ _ => ({ r with chan := none }, countArrival r s)
  | _ => (r, s)

/-- A remote operation served at its target (R296, R300, R356): one whose page is absent is held there. -/
def serveNow (r0 : OpRecord) (s0 : State) : State :=
  let (r, s) := countOnce r0 s0
  match r.kind with
  | .completion none _ => replyTo r 0 none s
  | .pull _ fe => servePull r fe.toNat s
  | _ =>
    match ingress r.ctx r.off (remoteBytes r) (remoteKind r.kind) s with
    | (.ok va loc, s1) => serveAt r va loc s1
    | (.denied, s1) => replyTo r 0 (some .remoteDenied) s1
    | (.absent va p, s1) =>
      reportFault r.ctx va (remoteKind r.kind) 2 r.src p { s1 with served := { src := r.src, rcd := r, held := some va } :: s1.served }

/-- Takes a remote full/empty operation, or the landing fill of a copy, named by its source and its number there, out of the bench or out of what waits here to be
served; none where it has been performed (R169, R249, R433). -/
def dropRemote (src tag : Nat) (s : State) : Option State :=
  match s.waits.find? (fun w => match w.who with | .remote r => r.src == src && r.tag == tag | _ => false) with
  | some w => some (dropWait w s)
  | none =>
    let mine := fun (x : Served) => x.rcd.src == src && x.rcd.tag == tag && x.parcel.isNone
    if s.served.any mine then some { s with served := s.served.filter (fun x => !mine x) } else none

/-- A withdrawal at its target (R169): the answer says whether the operation no longer waits there. -/
def serveWithdrawal (r : OpRecord) (tag : Nat) (s : State) : State :=
  match dropRemote r.src tag s with
  | some s1 => replyTo r 1 none s1
  | none => replyTo r 0 none s

/-- Whether two addresses of z and y bytes share a byte. -/
def meetVa (a z b y : Nat) : Bool := decide (a < b + y) && decide (b < a + z)

/-- Whether an operation was issued by the group of another, and after it (R274). -/
def follows (q r : OpRecord) : Bool := sameIssuer q r && decide (q.tag < r.tag)

/-- Whether an earlier full/empty operation of a record's group waits here on bytes that the record touches (R257). -/
def behindWait (s : State) (r : OpRecord) : Bool :=
  s.waits.any (fun w => match w.who with
    | .remote q => follows q r && q.instr != r.instr && (match q.kind with | .fe _ => true | _ => false) &&
        meetVa q.off 8 r.off (remoteBytes r)
    | _ => false)

/-- Whether an earlier direct parcel of a record's group has here a part of a word that awaits its other part (R261, R274). -/
def behindSplit (s : State) (r : OpRecord) : Bool :=
  s.split.any (fun x => x.src == r.src && x.ctx == r.ctx && x.direct == some (r.part, r.core, r.slot) && decide (x.entry < r.tag))

/-- Whether what waits here for its service waits in truth for a fault, a PREL, a word or a parcel of its own group. -/
def stuckServed (s : State) (before : List Served) (x : Served) : Bool :=
  x.held.isSome || before.any (fun y => y.held.isSome && sameIssuer y.rcd x.rcd && decide (y.rcd.tag ≤ x.rcd.tag)) ||
  s.prels.any (fun y => follows y.rcd x.rcd) || behindWait s x.rcd || behindSplit s x.rcd

/-- Whether an operation stands behind what waits here (R257, R274, R291, R316, R356): an earlier one or a PREL of its group, a parcel of
its source held at a fault, or an earlier one of its source that can be served. -/
def standsBehind (s : State) (r : OpRecord) (before : List Served) : Bool :=
  before.any (fun x => (sameIssuer x.rcd r && decide (x.rcd.tag ≤ r.tag)) ||
    (x.src == r.src && ((x.parcel.isSome && x.held.isSome) || !stuckServed s before x))) ||
  s.prels.any (fun x => follows x.rcd r) || behindWait s r || behindSplit s r

/-- Whether a record is the completion of a copy of which a parcel waits here. -/
def ownParcelWaits (r : OpRecord) (s : State) : Bool :=
  s.served.any (fun x => x.parcel.isSome && x.src == r.src && x.rcd.tag == r.tag)

/-- An arriving remote operation (R274, R296, R316): it waits behind what stands before it; a copy's completion record has counted by
then, but where a parcel of its copy waits too (R193). -/
def serveOp (r : OpRecord) (s : State) : State :=
  match r.kind with
  | .withdraw t => serveWithdrawal r t s
  | _ =>
    if !standsBehind s r s.served then serveNow r s
    else
      let (r1, s1) := if ownParcelWaits r s then (r, s) else countOnce r s
      { s1 with served := s1.served ++ [{ src := r.src, rcd := r1, held := none }] }

end Sys2Proof.Machine
end

