-- ==== Sys2Proof/Machine/Perform.lean ====
section
/-! DEFINITION. The performance of outstanding memory operations: what an operation must wait for (R155, R162, R163, R257 to
R259, R274), and the events by which it completes (R157, R166, R176, R247). -/

namespace Sys2Proof.Machine

/-! ### Order -/

/-- An operation that reads memory (R163). -/
def readLike (o : MemOp) : Bool :=
  match o.kind with
  | .load => true
  | .ldaq => true
  | .atomic _ => o.ret
  | .fe .ldwt => true
  | .fe .ldcn => true
  | .fe .fetest => true
  | .fe _ => false
  | .store => false
  | .strl => false
  | .fence _ => false
  | .prel _ => false
  | .bid => true

/-- An acquire (R162, R165). -/
def isAcquire (o : MemOp) : Bool := o.kind.acquires

/-- A release (R162, R165, R194). -/
def isRelease (o : MemOp) : Bool :=
  match o.kind with
  | .strl => true
  | .prel _ => true
  | .fe .stfl => true
  | .fe .stfu => true
  | .fe .fefull => true
  | _ => false

/-- Whether an operation has a remote lane. -/
def hasRemote (o : MemOp) : Bool := o.lanes.any (fun l => l.loc.isPod)

/-- A fence mark, and its kind (R163). -/
def fenceKind (o : MemOp) : Option Nat :=
  match o.kind with
  | .fence k => some k.toNat
  | _ => none

/-- Whether an operation writes, or is remote: what a release fence holds back (R163). -/
def writeLike (o : MemOp) : Bool :=
  hasRemote o ||
  (match o.kind with
    | .store => true
    | .strl => true
    | .atomic _ => true
    | .prel _ => true
    | .fe .ldwt => false
    | .fe .fetest => false
    | .fe _ => true
    | .load => false
    | .ldaq => false
    | .fence _ => false
    | .bid => true)

/-- Whether an open lane of an operation counts as performed at a scope (R259): below pod scope a remote one that returns or waits, which
its barrow has accepted at issue; below system scope an AtomicOp of the host, which the host-link queue has. -/
def countsPerformed (scope : Nat) (o : MemOp) (l : LaneAcc) : Bool :=
  (decide (scope < 3) && l.loc.isPod && !acceptedByBarrow o.kind o.ret) ||
  (decide (scope < 4) && l.loc.isHost && !l.held && (match o.kind with | .atomic _ => true | _ => false))

/-- Whether an operation is still to be performed at a scope (R259). -/
def notPerformed (scope : Nat) (o : MemOp) : Bool :=
  (fenceKind o).isNone && o.lanes.any (fun l => !l.done && !countsPerformed scope o l)

/-- Whether a group, or the one from which it was divided, has a remote operation issued before a number that is not yet acknowledged
(R257, R259, R290). -/
def unacked (s : State) (g : Group) (id : Nat) : Bool :=
  s.barrow.any (fun b => b.copy.isNone && ((b.gid == some g.id && decide (b.op < id)) || g.inherits.contains b.id))

/-- Whether every access of a list that a group issued before a number is performed at a scope (R162, R163, R259). -/
def allPerformed (s : State) (g : Group) (scope id : Nat) (before : List MemOp) : Bool :=
  !before.any (notPerformed scope) && !(decide (3 ≤ scope) && unacked s g id)

/-- Whether a read of a list has still to complete (R163). -/
def readsOpen (before : List MemOp) : Bool := before.any (fun o => readLike o && o.lanes.any (fun l => !l.done))

/-- Whether a fence still holds back later accesses (R163): an acquire fence until every earlier read has completed, a release fence
until every earlier access is performed at the scope, a full fence until both. -/
def fenceOpen (s : State) (g : Group) (f : MemOp) (before : List MemOp) : Bool :=
  match fenceKind f with
  | some 0 => readsOpen before
  | some 1 => !allPerformed s g f.scope f.id before
  | some _ => readsOpen before || !allPerformed s g f.scope f.id before
  | none => false

/-- Whether a fence of a kind holds back an operation (R163). -/
def fenceHolds (kind : Nat) (writes : Bool) : Bool := if kind = 1 then writes else true

/-- Whether a fence among the operations of a list holds back an access; acc are the operations before the list. -/
def fencedBy (s : State) (g : Group) (writes : Bool) : List MemOp → List MemOp → Bool
  | _, [] => false
  | acc, f :: l =>
    (match fenceKind f with
      | some k => fenceHolds k writes && fenceOpen s g f acc
      | none => false) || fencedBy s g writes (acc ++ [f]) l

/-- Whether a strand of a group waits at a barrier that it reached before a number: the wait is an acquire (R262, R266). -/
def barrierOpen (g : Group) (id : Nat) : Bool :=
  (allStrands g).any (fun t => match t.hold with | .barw _ _ n => decide (n ≤ id) | .pbar _ _ _ n => decide (n ≤ id) | _ => false)

/-- Whether a later access of a group must wait for an acquiring read or a fence among the operations before it (R162, R163, R165). -/
def behindReads (s : State) (g : Group) (writes : Bool) (before : List MemOp) : Bool :=
  before.any (fun j => isAcquire j && j.lanes.any (fun l => !l.done)) || fencedBy s g writes [] before

/-- Whether a later access of a group, by its number, must wait for an acquire before it, a barrier's too (R262). -/
def behindAcquire (s : State) (g : Group) (writes : Bool) (id : Nat) (before : List MemOp) : Bool :=
  behindReads s g writes before || barrierOpen g id

/-- Where a place leads in this package: through the context's own export window for a pod address that names this package (R152). -/
def homeOf (s : State) (c : Nat) (loc : Loc) : Loc :=
  match loc with
  | .pod p off => if p = pkgId s then
      (match exportVa s c off 1 with
        | some va => (match findLeaf s c 0 dieCore va with
          | .leaf l => placeOf (l.pa + (va - l.va)) l.mtype
          | _ => loc)
        | none => loc) else loc
  | _ => loc

/-- Whether two places of z and y bytes share a byte. -/
def overlap (a : Loc) (z : Nat) (b : Loc) (y : Nat) : Bool :=
  match a, b with
  | .dev p, .dev q => decide (p < q + y) && decide (q < p + z)
  | .scr f p, .scr h q => f == h && decide (p < q + y) && decide (q < p + z)
  | .host p, .host q => decide (p < q + y) && decide (q < p + z)
  | .pod p o, .pod q u => p == q && decide (o < u + y) && decide (u < o + z)
  | _, _ => false

/-- Whether a lane of a full/empty operation has made its first attempt and waits (R166). -/
def laneWaits (s : State) (gid op lane : Nat) : Bool := s.waits.any (fun w => w.who == .lane gid op lane)

/-- Whether an open lane of an operation touches z bytes at a virtual address and a place (R257): one without a place, or against a place
not known, is compared by its virtual address. For other packages the porter keeps the order. -/
def laneTouches (s : State) (c : Nat) (j : MemOp) (b : LaneAcc) (va z : Nat) (loc : Option Loc) : Bool :=
  !b.done && (match loc, b.held with
    | some l, false => !(match homeOf s c b.loc with | .pod _ _ => true | _ => false) && overlap (homeOf s c l) z (homeOf s c b.loc) j.z
    | _, _ => meetVa va z b.va.toNat j.z)

/-- Whether an operation of a group through the issuing package's own window, which a barrow has accepted and which has not been
performed, touches z bytes at a place (R152, R257). -/
def ownWindowOpen (s : State) (g : Group) (id z : Nat) (loc : Loc) : Bool :=
  s.barrow.any (fun b => b.gid == some g.id && b.dst == pkgId s && b.copy.isNone && decide (b.op < id) &&
    overlap loc z (homeOf s g.ctx (.pod b.dst b.rcd.off)) b.rcd.size)

/-- Whether an operation of a group has a lane through the issuing package's own window that has not been sent on its way. -/
def ownUnsent (s : State) (gid op : Nat) : Bool :=
  s.barrow.any (fun b => b.gid == some gid && b.op == op && b.dst == pkgId s && b.copy.isNone && b.sent == 0)

/-- Whether a copy of a group through the issuing package's own window, issued before a number, has still bytes to land (R152, R274). -/
def ownCopyOpen (s : State) (gid id : Nat) : Bool :=
  s.engines.any (fun x => x.gid == some gid && decide (x.id < id) && ownPodCopy s x && x.fail.isNone && decide (x.landed < x.size))

/-- The auctions at which an offer to a handle may be applied: the home, and the replica to which it may be forwarded (R209). -/
def auctionReach (s : State) (h : Word) : List Word :=
  h :: (match auctionOf s h with
    | some x => (match x.replica with | some (p, c, k) => [wd (p * 2 ^ 30 + c * 2 ^ 23 + k)] | none => [])
    | none => [])

/-- The auctions at which the open offers of an operation may yet be applied (R209). -/
def offersTo (s : State) (o : MemOp) : List Word :=
  match o.kind with
  | .bid => (o.lanes.filter (fun l => !l.done)).flatMap (fun l => auctionReach s (loHalf l.data2))
  | _ => []

/-- Whether an earlier operation j still has to act on bytes of a later one o (R155, R257), on an auction of it (R319), or to go through the issuing
package's own window before it (R274); for other packages the porter keeps that order. -/
def sameBytes (s : State) (g : Group) (o j : MemOp) : Bool :=
  (offersTo s o).any (fun h => (offersTo s j).contains h) ||
  o.lanes.any (fun a => !a.done && !a.held && j.lanes.any (fun b => laneTouches s g.ctx j b a.va.toNat o.z (some a.loc))) ||
  (ownUnsent s g.id o.id && ownUnsent s g.id j.id)

/-- Whether an access to host memory must wait for an earlier store of its group to be accepted (R259). -/
def hostBehind (o j : MemOp) : Bool :=
  o.lanes.any (fun a => !a.done && a.loc.isHost && !a.held) &&
  (match j.kind with | .store => true | .strl => true | _ => false) && j.lanes.any (fun b => !b.done && !b.held && b.loc.isHost)

/-- The operations that a group issued before one. -/
def earlierOps (g : Group) (o : MemOp) : List MemOp := g.outs.takeWhile (fun j => j.id != o.id)

/-- Whether an outstanding operation may be performed now (R155, R162, R163, R165, R257, R259). -/
def canPerform (s : State) (g : Group) (o : MemOp) : Bool :=
  let before := earlierOps g o
  o.ending.isNone &&
  !behindAcquire s g (writeLike o) o.id before &&
  !before.any (sameBytes s g o) && !before.any (hostBehind o) &&
  !o.lanes.any (fun a => !a.done && !a.held && ownWindowOpen s g o.id o.z (homeOf s g.ctx a.loc)) &&
  !(ownUnsent s g.id o.id && ownCopyOpen s g.id o.id) &&
  (!isRelease o || allPerformed s g (match o.kind with | .prel _ => 2 | _ => o.scope) o.id before)

/-- Removes the fence marks that no longer hold anything back (R163); acc are the operations before the list. -/
def purgeFences (s : State) (g : Group) : List MemOp → List MemOp → List MemOp
  | acc, [] => acc
  | acc, f :: l =>
    if (fenceKind f).isSome && !fenceOpen s g f acc then purgeFences s g acc l else purgeFences s g (acc ++ [f]) l

/-- The widest scope of the acquire fences of a group that are settled (R163); 0 where none is. -/
def settledAcquire (s : State) (g : Group) : Nat :=
  let left := purgeFences s g [] g.outs
  ((g.outs.filter (fun f => (fenceKind f).isSome && fenceKind f != some 1 && !left.any (fun x => x.id == f.id))).map (·.scope)).foldl max 0

/-- Drops the settled fence marks of a group; what they acquire takes effect (R163). -/
def dropFences (gid : Nat) (s : State) : State :=
  match findGroup gid s with
  | none => s
  | some g => acquireAt (settledAcquire s g) g (modGroup gid (fun g => { g with outs := purgeFences s g [] g.outs }) s)

/-! ### Performing lanes -/

/-- The doubleword that a full/empty operation writes. -/
def feData (l : LaneAcc) : DWord := l.data.setWidth 64

/-- A lane that must wait after its first attempt (R166, R168), under the budget that its instruction captured at issue (R48). -/
def startWait (g : Group) (o : MemOp) (k : FeKind) (l : LaneAcc) (s : State) : State :=
  let (id, s1) := freshId s
  let w : FeWait := { id := id, ctx := g.ctx, team := g.team, who := .lane g.id o.id l.lane, kind := k, va := l.va, loc := l.loc,
                      data := feData l, spins := o.spins, limit := o.limit, mode := .spin 0, since := none, tried := s.time, entry := none }
  if w.spins = 0 then parkWait w s1 else { s1 with waits := s1.waits ++ [w] }

/-- Performs one lane of an operation at its place in this package: the state after it, and the poison it met (R155, R165, R174,
R396). -/
def performLane (g : Group) (o : MemOp) (l : LaneAcc) (s : State) : State × Option DWord :=
  let bad := isPoisoned s g.team l.loc o.z
  let skip := modGroup g.id (fun h => closeOp o.id (modOp o.id (fun x =>
    { x with lanes := updateWhere (fun a => a.lane == l.lane) (fun a => { a with done := true }) x.lanes }) h)) s
  match o.kind with
  | .load | .ldaq =>
    (completeLane g.id o.id l.lane (readBytes s g.team l.loc o.z) s, if bad then some (poisonLocator l.loc) else none)
  | .store | .strl => (completeLane g.id o.id l.lane 0 (storeAt g.team l.loc o.z l.data.toNat s), none)
  | .atomic op =>
    if bad then (skip, some (poisonLocator l.loc))
    else
      let m := readBytes s g.team l.loc o.z
      let v := atomicNew op o.ty o.round m (l.data.toNat % 2 ^ (8 * o.z)) l.data2.toNat
      (completeLane g.id o.id l.lane m (writeBytes g.team l.loc o.z v s), none)
  | .fe k =>
    if bad then (skip, some (poisonLocator l.loc))
    else match feAttempt k g.ctx g.team l.va.toNat l.loc (feData l) s with
      | some (v, s1) => (completeLane g.id o.id l.lane v s1, none)
      | none => (startWait g o k l s, none)
  | .bid =>
    let r := applyBid (loHalf l.data2) l.va.toNat (l.data.extractLsb' 0 32, l.data.extractLsb' 32 32) s
    (completeLane g.id o.id l.lane r.1.toNat r.2, none)
  | .fence _ | .prel _ => (s, none)

/-- Marks lanes of an operation as accepted (R40). -/
def acceptLane (gid op lane : Nat) (s : State) : State := completeLane gid op lane 0 s

/-- Performs a remote lane (R40, R152): its barrow accepts it; in the issuing package it is served at once. -/
def performRemote (g : Group) (o : MemOp) (l : LaneAcc) (s : State) : State :=
  match entryOf g.id o.id l.lane s with
  | none => s
  | some b =>
    let s1 := if acceptedByBarrow o.kind o.ret && !l.done then
        acceptLane g.id o.id l.lane (modEntry b.id (fun b => { b with since := (getPeer s b.dst).slots }) s)
      else s
    if b.dst = pkgId s && b.sent = 0 then serveOp b.rcd (modEntry b.id (fun b => { b with sent := 1 }) s1) else s1

/-- What a lane's access does to the caches, whatever its outcome (R160, R161, R242). -/
def useCaches (g : Group) (o : MemOp) (l : LaneAcc) (s : State) : State :=
  let snooped := l.loc.isHost && (match findLeaf s g.ctx g.part g.core l.va.toNat with | .leaf x => x.mtype == .hostSnooped | _ => false)
  touchAt g o l snooped s

/-- Whether a lane is still to be performed by the memory pipeline: not done, held or waiting, and not an AtomicOp of the host. -/
def lanePending (s : State) (gid : Nat) (o : MemOp) (l : LaneAcc) : Bool :=
  !l.done && !l.held && !laneWaits s gid o.id l.lane && !(l.loc.isHost && (match o.kind with | .atomic _ => true | _ => false))

/-- Performs lanes of an operation in increasing lane order (R155, R168, R174): the state, and the first poison met. -/
def performLanes (g : Group) (o : MemOp) : List LaneAcc → State → Option DWord → State × Option DWord
  | [], s, p => (s, p)
  | l :: ls, s, p =>
    if !lanePending s g.id o l then performLanes g o ls s p
    else if l.loc.isPod then performLanes g o ls (performRemote g o l s) p
    else
      let r := performLane g o l (useCaches g o l s)
      performLanes g o ls r.1 (match p with | some a => some a | none => r.2)

/-- Performs an outstanding operation, where its order allows (R155, R257). -/
def performOp (gid id : Nat) (c : Ctr) (s : State) : State :=
  match findGroup gid s with
  | none => s
  | some g => match findOp id g with
    | none => s
    | some o =>
      if o.ctr != c || !canPerform s g o then s
      else
        let r := performLanes g o o.lanes s none
        let s1 := releaseBarw g.team (dropFences gid r.1)
        match r.2 with
        | some a => poisonGroup gid a s1
        | none => s1

/-- LOAD_RETURN (R157): operation k of group g is performed, its values are written, and L falls. -/
def execLoadReturn (g k : Nat) (s : State) : Result := .next (performOp g k .l s)

/-- STORE_ACCEPT (R40): operation k of group g is performed or accepted by its barrow, and S falls. -/
def execStoreAccept (g k : Nat) (s : State) : Result := .next (performOp g k .s s)

/-! ### Ending an operation before it completes -/

/-- The waits of an operation of a group leave the bench. -/
def dropWaitsOf (gid op : Nat) (s : State) : State :=
  (s.waits.filter (fun w => match w.who with | .lane g o _ => g == gid && o == op | _ => false)).foldl (fun s w => dropWait w s) s

/-- Whether a record asks for an operation that may wait at its target (R170). -/
def mayWait : RemKind → Bool
  | .fe .ldwt => true
  | .fe .ldcn => true
  | .fe .stfl => true
  | _ => false

/-- Withdraws a full/empty operation that may wait at its target (R169, log entry 82): one that has not been sent leaves its barrow, one
through the own window leaves this package's bench, and for another package a withdrawal follows it. -/
def withdrawEntry (b : Barrow) (s : State) : State :=
  if b.sent = 0 then retireEntry b.id s
  else if b.dst = pkgId s then
    match dropRemote b.rcd.src b.id s with
    | some s1 => retireEntry b.id s1
    | none => s
  else if s.barrow.any (fun x => x.rcd.kind == .withdraw b.id) then s
  else
    let (id, s1) := freshId s
    { s1 with barrow := s1.barrow ++ [withdrawal id (getPeer s b.dst).slots b] }

/-- Withdraws every remote lane of an operation of a group that may wait at its target (R169). -/
def withdrawRemote (gid op : Nat) (s : State) : State :=
  (s.barrow.filter (fun b => b.gid == some gid && b.op == op && b.copy.isNone && mayWait b.rcd.kind)).foldl (fun s b => withdrawEntry b s) s

/-- Brings a held operation of a group to its end (R154, R166, R169, R176): its waits end here and at its targets, and what it has under
way elsewhere is awaited. -/
def endOp (gid id : Nat) (e : OpEnd) (s : State) : State :=
  finishEnd gid id (withdrawRemote gid id (dropWaitsOf gid id (modGroup gid (modOp id (fun o => { o with ending := some e })) s)))

/-- A failing lane of an operation (R154): an operation that holds its strand ends; of any other, only the lanes held at page faults do,
and they form the replay mask. -/
def failLane (gid id lane : Nat) (c : Cause) (va : DWord) (s : State) : State :=
  match findGroup gid s with
  | none => s
  | some g => match findOp id g with
    | none => s
    | some o =>
      if (allStrands g).any (fun t => t.hold == .op id) then endOp gid id (.trap c lane va) s
      else replayTrap gid lane (heldLanes o) (laneTrap c lane va) (settleGroup gid (modGroup gid (dropHeld id) s))

/-- The lowest open lane of an operation that waits for the host. -/
def hostLane (o : MemOp) : Option LaneAcc := o.lanes.find? (fun l => !l.done && !l.held && l.loc.isHost)

/-- HOST_ATOMICOP_COMPLETION (R176): the host answers the lowest open AtomicOp of an operation; without support the
instruction traps HOST_ATOMIC, and the lanes that have not completed are replayed (R154). -/
def execHostAtomicopCompletion (gid k : Nat) (supported : Bool) (s : State) : Result :=
  match findGroup gid s with
  | none => .next s
  | some g => match findOp k g with
    | none => .next s
    | some o => match o.kind, hostLane o with
      | .atomic op, some l =>
        if !canPerform s g o then .next s
        else if supported then
          let m := readBytes s g.team l.loc o.z
          let v := atomicNew op o.ty o.round m (l.data.toNat % 2 ^ (8 * o.z)) l.data2.toNat
          .next (completeLane gid k l.lane m (writeBytes g.team l.loc o.z v s))
        else .next (failLane gid k l.lane .hostAtomic l.va s)
      | _, _ => .next s

/-! ### Waiting lanes -/

/-- The wait record of a number. -/
def findWait (k : Nat) (s : State) : Option FeWait := s.waits.find? (fun w => w.id == k)

/-- What a further attempt of a wait of a group does to the caches (R242). -/
def cachesOfWait (w : FeWait) (s : State) : State :=
  match w.who with
  | .lane gid op lane =>
    (match findGroup gid s with
      | none => s
      | some g => match findOp op g with
        | none => s
        | some o => match o.lanes.find? (fun l => l.lane == lane) with
          | some l => useCaches g o l s
          | none => s)
  | .remote _ => homeServes w.loc 8 s
  | .engine _ => homeServes w.loc 8 s
  | .tile _ _ => homeServes w.loc 8 s

/-- What a full/empty operation needs of a translation (R353). -/
def feAccess : FeKind → AccKind
  | .ldwt => .feRead
  | .fetest => .feRead
  | .ldcn => .feWrite
  | .stfl => .feWrite
  | .stfu => .feWrite
  | .fefull => .feWrite
  | .feempty => .feWrite

/-- The page of a waiting operation's word, where it is absent: an attempt faults first (R356, R362). -/
def waitPage (s : State) (w : FeWait) : Option Bool :=
  match w.loc, addrForm s w.va with
  | .scr _ _, _ => none
  | .pod _ _, _ => none
  | _, .plain v =>
    let p := waitPlace s w
    match findLeaf s w.ctx p.1 (match w.who with | .lane .. => p.2.1 | _ => dieCore) v with
    | .absent g => some g
    | _ => none
  | _, _ => none

/-- A waiting operation whose page is absent leaves its wait and is held at the fault, to attempt its step anew once that is answered (R154, R356,
R362). -/
def faultWait (w : FeWait) (paged : Bool) (s : State) : State :=
  let s1 := dropWait w s
  let k := feAccess w.kind
  match w.who with
  | .lane gid op lane => reportFault w.ctx w.va.toNat k 0 0 paged (modGroup gid (modOp op (fun o =>
      { o with lanes := updateWhere (fun l => l.lane == lane) (fun l => { l with held := true }) o.lanes })) s1)
  | .remote r => reportFault w.ctx w.va.toNat k 2 r.src paged { s1 with served := s1.served ++ [{ src := r.src, rcd := r, held := some w.va.toNat }] }
  | .engine e => reportFault w.ctx w.va.toNat k 1 0 paged (modEngine e (fun x => { x with held := some w.va.toNat, parked := false }) s1)
  | .tile _ _ => reportFault w.ctx w.va.toNat k 1 0 paged s1

/-- A further attempt of a wait (R166, R247): it completes, or it waits again; one whose page is absent faults first (R362), and poison is consumed
(R396). -/
def attemptWait (w : FeWait) (s0 : State) : State :=
  match waitPage s0 w with
  | some p => faultWait w p s0
  | none =>
  let s := cachesOfWait w s0
  if isPoisoned s w.team w.loc 8 then poisonWaiter w.who (poisonLocator w.loc) (dropWait w s)
  else match feStep w.kind w.team w.loc w.data s with
    | none => waitAgain w s
    | some (v, s1, changed) =>
      let s2 := releaseBarw w.team (completeWaiter w.who v (dropWait w s1))
      if changed then wake w.ctx w.team w.va.toNat w.loc s2 else s2

/-- Whether n ns have passed since the last attempt of a wait (R166, R247). -/
def spaced (s : State) (w : FeWait) (n : Nat) : Bool := decide (w.tried.toNat + n ≤ s.time.toNat)

/-- Whether two waits are those of lanes of one instruction on one word (R168). -/
def sameCohort (w x : FeWait) : Bool :=
  w.va == x.va && w.kind == x.kind && w.ctx == x.ctx &&
  (match w.who, x.who with
    | .lane g o _, .lane h p _ => g == h && o == p
    | .remote r, .remote q => sameIssuer r q && r.instr == q.instr
    | _, _ => false)

/-- The waits of lanes of one instruction on one word that are in a mode, in lane order (R168). -/
def cohort (w : FeWait) (p : WaitMode → Bool) (s : State) : List FeWait :=
  if s.waits.any (fun x => x.id == w.id) then
    s.waits.filter (fun x => x.id == w.id || (sameCohort w x && p x.mode))
  else []

/-- The attempts of the lanes of a cohort, in lane order, each as it stands when its turn comes (R168). -/
def attemptCohort (l : List FeWait) (s : State) : State :=
  l.foldl (fun s x => match findWait x.id s with | some w => attemptWait w s | none => s) s

/-- Whether a wait is in spin. -/
def WaitMode.spins : WaitMode → Bool
  | .spin _ => true
  | .parked => false
  | .retry => false

/-- Whether a wait is in retry mode. -/
def WaitMode.retries : WaitMode → Bool
  | .spin _ => false
  | .parked => false
  | .retry => true

/-- A further attempt of the lanes of an instruction that wait on one word in a mode (R166, R168, R247), no sooner than n ns after the
last; it is due for the first of them. -/
def retryCohort (k n : Nat) (p : WaitMode → Bool) (s : State) : State :=
  match findWait k s with
  | some w =>
    let l := cohort w p s
    if p w.mode && (l.head?.map (·.id)) == some k && l.all (fun x => spaced s x n) then attemptCohort l s else s
  | none => s

/-- FE_SPIN_RETRY (R168, R247): lanes in spin make a further attempt, no sooner than 64 ns after the last. -/
def execFeSpinRetry (k : Nat) (s : State) : Result := .next (retryCohort k 64 WaitMode.spins s)

/-- FE_BUCKET_RETRY (R166, R168): lanes in retry mode attempt again, every µs. -/
def execFeBucketRetry (k : Nat) (s : State) : Result := .next (retryCohort k 1000 WaitMode.retries s)

/-- Whether the park limit of a wait has run out (R166). -/
def budgetOver (s : State) (w : FeWait) : Bool :=
  w.limit != 0 && (match w.since with | some t => decide (t.toNat + 1000 * w.limit ≤ s.time.toNat) | none => false)

/-- The end of a budget (R166, R170, R203): the lane's instruction traps FE_BUDGET, and every lane of it that has not completed
joins the replay mask; a remote lane fails at its source; a count word fails its operation. -/
def expireWait (w : FeWait) (s : State) : State :=
  match w.who with
  | .lane gid op lane => failLane gid op lane .feBudget w.va (dropWait w s)
  | .remote r => replyTo r 0 (some .feBudget) (dropWait w s)
  | .engine _ => s
  | .tile tm k =>
    match (getStream s tm k).ops with
    | o :: _ => reportFail o.gid .feBudget w.va (retireTile tm k o.id (dropWait w s))
    | [] => dropWait w s

/-- FE_BUDGET_EXPIRY (R166): the park limit of wait k has run out. -/
def execFeBudgetExpiry (k : Nat) (s : State) : Result :=
  match findWait k s with
  | some w => if budgetOver s w then .next (expireWait w s) else .next s
  | none => .next s

end Sys2Proof.Machine
end

