-- ==== Sys2Proof/Machine/Memory.lean ====
section
/-! DEFINITION. The issue of the memory instructions: address formation, the checks of R154 in their order, and the loads,
stores, full/empty operations, atomics and fences (R150 to R176). -/

namespace Sys2Proof.Machine

/-- What a memory instruction asks for: the operation, its size and offset scale, its data or destination operand, whether it
returns a value, the predicate it writes, and its address fields. -/
structure MemReq where
  kind  : OpKind
  z     : Nat
  scale : Nat
  od    : Option Opnd
  ret   : Bool
  pred  : Option Nat
  a     : RegCode
  t     : BitVec 3
  imm   : BitVec 5
  deriving DecidableEq, Repr

/-- One lane's address (R150): its virtual address, the address `ea`, and whether it lies under the translation register. -/
structure LaneAddr where
  lane : Nat
  va   : DWord
  ea   : DWord
  phys : Bool
  deriving DecidableEq, Repr

/-- What an access needs (R353). -/
def OpKind.acc : OpKind → AccKind
  | .load => .rd
  | .ldaq => .rd
  | .store => .wr
  | .strl => .wr
  | .atomic _ => .at
  | .fe .ldwt => .feRead
  | .fe .fetest => .feRead
  | .fe _ => .feWrite
  | .fence _ => .rd
  | .prel _ => .wr
  | .bid => .rd

/-- The counter of an operation (R157). -/
def MemReq.ctr (r : MemReq) : Ctr := if r.ret then .l else .s

/-- Whether an instruction holds its strand until every lane completes, whatever it addresses (R157). -/
def OpKind.holds : OpKind → Bool
  | .fe .ldwt => true
  | .fe .ldcn => true
  | .fe .fetest => true
  | .fe .stfl => true
  | .fe _ => false
  | .load => false
  | .ldaq => false
  | .store => false
  | .strl => false
  | .atomic _ => false
  | .fence _ => false
  | .prel _ => false
  | .bid => false

/-- The address of one lane (R39, R150). -/
def laneAddr (s : State) (r : MemReq) (l : Nat) : LaneAddr :=
  let t := readTReg s.cur r.t.toNat
  let o := (opLane s (rdOp 1 r.a) 0 l).toNat + r.imm.toNat * r.scale
  let va := t.frame + dw o
  if !t.stale && decide (o + r.z ≤ t.limit) then { lane := l, va := va, ea := t.base + dw o, phys := true }
  else { lane := l, va := va, ea := va, phys := false }

/-- The addresses of the enabled lanes, in increasing lane order. -/
def laneAddrs (s : State) (r : MemReq) : List LaneAddr := (lanesOf (enabled s.cur)).map (laneAddr s r)

/-- The trap of the lowest lane for which a check gives a cause, with its virtual address (R154). -/
def firstLane (l : List LaneAddr) (f : LaneAddr → Option Cause) : Option Trap :=
  firstSome (l.map (fun a => (f a).map (fun c => laneTrap c a.lane a.va)))

/-- ALIGN for the lowest misaligned lane (R153). -/
def alignCheck (z : Nat) (l : List LaneAddr) : Option Trap :=
  (l.find? (fun a => a.ea.toNat % z != 0)).map (fun a => laneTrap .align a.lane a.ea)

/-- The address form and the scratchpad bound (R151, R152). -/
def formCheck (s : State) (z : Nat) (a : LaneAddr) : Option Cause :=
  if a.phys then none
  else match addrForm s a.va with
    | .badForm => some .page
    | .noPackage => some .protect
    | .pod _ _ => none
    | .window off => if s.cur.hdr.scratch < off + z then some .protect else none
    | .plain _ => none

/-- The permissions of a translation register (R154, step 5). -/
def tregCheck (s : State) (r : MemReq) (a : LaneAddr) : Option Cause :=
  if a.phys && !permits (readTReg s.cur r.t.toNat).perm r.kind.acc then some .protect else none

/-- Whether n bytes at an address overlap a range-lock entry of a group's core (R254). -/
def lockHit (g : Group) (va n : Nat) (k : RangeLock) : Bool :=
  k.part == g.part && k.core == g.core && k.ctx == g.ctx && decide (va < k.lo + k.len) && decide (k.lo < va + n)

/-- Whether n bytes at an address lie in the storage of an auction of the group's core and team (R207). -/
def auctionHit (s : State) (g : Group) (va n : Nat) : Bool :=
  s.auctions.any (fun a => a.part == g.part && a.core == g.core && a.team == g.team &&
    decide (va < Config.window + a.off + 16 + 8 * a.cap) && decide (Config.window + a.off < va + n))

/-- The range-lock table (R154, step 6), and auction storage (R207). -/
def rangeCheck (s : State) (r : MemReq) (a : LaneAddr) : Option Cause :=
  if a.va.toNat / 2 ^ 56 ≠ 0 then none
  else if auctionHit s s.cur a.va.toNat r.z then some .rangeLock
  else if s.locks.any (fun k => lockHit s.cur a.va.toNat r.z k && (k.dst || r.kind.acc != .rd)) then some .rangeLock
  else none

/-- Whether a load's result is U (R25). -/
def loadUniform (s : State) (r : MemReq) : Bool :=
  (match r.kind with | .load => true | .ldaq => true | _ => false) &&
  (opWord s (rdOp 1 r.a) 0).isU && enabled s.cur == residentLanes s.cur

/-- SHAPE for a narrow destination of a G result (R154, step 2). -/
def destCheck (s : State) (r : MemReq) : Option Trap :=
  match r.od with
  | some o =>
    if !r.ret || r.pred.isSome || 0xF0 ≤ o.code.toNat || loadUniform s r then none
    else (((List.range ((r.z + 3) / 4)).map (fun k => effReg s.cur o + k)).find? (fun x => narrow s.cur x)).map
      (fun x => trapOf .shape (dw x))
  | none => none

/-- The first phase of R154, steps 2 to 6. -/
def phaseOne (s : State) (r : MemReq) : Option Trap :=
  let l := laneAddrs s r
  firstSome [destCheck s r, alignCheck r.z l, firstLane l (formCheck s r.z), firstLane l (tregCheck s r), firstLane l (rangeCheck s r)]

/-- The outcome of the second phase for one lane (R154). -/
inductive LaneOut where
  | ok (l : LaneAcc)
  | absent (l : LaneAcc) (paged : Bool)
  | trap (t : Trap)
  deriving DecidableEq, Repr

/-- The data operands of a lane: the bytes that it writes or combines, and a compare-and-swap's new value (R159, R173). -/
def laneData (s : State) (r : MemReq) (l : Nat) : BitVec 512 × DWord :=
  match r.od, r.kind with
  | some o, .atomic .cas => (BitVec.ofNat 512 (opAll s o l % 2 ^ (8 * r.z)), dw (opAll s o l / 2 ^ (8 * r.z)))
  | some _, .load => (0, 0)
  | some _, .ldaq => (0, 0)
  | some o, _ => (BitVec.ofNat 512 (opAll s o l % 2 ^ (8 * r.z)), 0)
  | none, _ => (0, 0)

/-- A lane of an instruction at a place, or held where it has none. -/
def laneAt (s : State) (r : MemReq) (a : LaneAddr) (held : Bool) (loc : Loc) : LaneAcc :=
  { lane := a.lane, va := a.va, loc := loc, data := (laneData s r a.lane).1, data2 := (laneData s r a.lane).2, held := held, done := false,
    ret := 0 }

/-- The check of the memory type of an operation under a GM type (R161, R164, R176). -/
def typeCheck (k : OpKind) (ty : Nat) (loc : Loc) : Option Cause :=
  if !loc.isHost then none
  else match k with
    | .fe _ => some .feSpace
    | .atomic op => if hostPerforms op ty then none else some .hostAtomic
    | _ => none

/-- The outcome of the translation of one lane's address. -/
inductive PlaceOut where
  | at_ (loc : Loc)
  | absent (paged : Bool)
  | trap (c : Cause)
  deriving DecidableEq, Repr

/-- The translation of a virtual address for an operation of a group, with its permissions and its memory type (R154, R353). -/
def placeVa (g : Group) (k : OpKind) (ty : Nat) (va : DWord) (s : State) : PlaceOut × State :=
  match addrForm s va with
  | .window off => (.at_ (.scr g.follower off), s)
  | .pod p off => (.at_ (.pod p off), s)
  | .badForm => (.trap .page, s)
  | .noPackage => (.trap .protect, s)
  | .plain v =>
    match translate g.ctx g.part g.core v k.acc s with
    | (.ok pa m, s1) =>
      (match typeCheck k ty (placeOf pa m) with
        | some c => .trap c
        | none => .at_ (placeOf pa m), s1)
    | (.absent p, s1) => (.absent p, s1)
    | (.page, s1) => (.trap .page, s1)
    | (.protect, s1) => (.trap .protect, s1)

/-- The second phase of R154 for one lane: translation, permissions and memory type. A translation register that held its page
clean walks again for a write (R358). -/
def placeLane (r : MemReq) (a : LaneAddr) (s : State) : LaneOut × State :=
  let t := readTReg s.cur r.t.toNat
  if a.phys && !mustDirty s s.cur.ctx r.kind.acc t.dirty then (.ok (laneAt s r a false (placeOf a.ea.toNat t.mtype)), s)
  else match placeVa s.cur r.kind (gmType s.cur) a.va s with
    | (.at_ loc, s1) => (.ok (laneAt s r a false loc), s1)
    | (.absent p, s1) => (.absent (laneAt s r a true (.dev 0)) p, s1)
    | (.trap c, s1) => (.trap (laneTrap c a.lane a.va), s1)

/-- The second phase for every lane, in increasing order. -/
def placeLanes (r : MemReq) : List LaneAddr → State → List LaneOut × State
  | [], s => ([], s)
  | a :: l, s =>
    let x := placeLane r a s
    let y := placeLanes r l x.2
    (x.1 :: y.1, y.2)

/-- The lanes that have their places, and those that are held at a page fault. -/
def goodLanes (l : List LaneOut) : List LaneAcc :=
  l.filterMap (fun x => match x with | .ok a => some a | .absent a _ => some a | .trap _ => none)

/-- The lanes whose page is absent, and whether each lies in a paged unit. -/
def absentLanes (l : List LaneOut) : List (DWord × Bool) :=
  l.filterMap (fun x => match x with | .absent a p => some (a.va, p) | .ok _ => none | .trap _ => none)

/-- The trap of the lowest failing lane. -/
def laneTraps (l : List LaneOut) : Option Trap :=
  firstSome (l.map (fun x => match x with | .trap t => some t | .ok _ => none | .absent _ _ => none))

/-- The first barrow that lacks entries for the remote lanes of an instruction, and how many they take there (R289). -/
def barrowLack (s : State) (pkgs : List Nat) : Option Stall :=
  (pkgs.find? (fun p => p != pkgId s && decide (barrowSize < barrowCount s p + (pkgs.filter (fun q => q == p)).length))).map
    (fun p => .barrow p (pkgs.filter (fun q => q == p)).length)

/-- Whether the barrows have room for the remote lanes of an instruction (R289). -/
def barrowRoom (s : State) (pkgs : List Nat) : Bool := (barrowLack s pkgs).isNone

/-- The packages that an instruction's lanes name. -/
def remotePkgs (s : State) (l : List LaneAddr) : List Nat :=
  l.filterMap (fun a => if a.phys then none else match addrForm s a.va with
    | .pod p _ => some p
    | .badForm => none
    | .noPackage => none
    | .window _ => none
    | .plain _ => none)

/-- The operations on the channel that an instruction counts at issue (R161, R193). -/
def countedLanes (g : Group) (k : OpKind) (l : List LaneAcc) : Nat :=
  if !k.counted || (match k with | .prel _ => true | _ => false) then 0
  else (l.filter (fun a => match a.loc with | .pod p _ => (channelFor g p).isSome | .dev _ => false | .scr _ _ => false | .host _ => false)).length

/-- Whether an instruction closes an open idempotent region (R397): full/empty operations that consume or fill, atomics, and any
access to a pod address. -/
def closesRegion (k : OpKind) (l : List LaneAcc) : Bool :=
  l.any (fun a => a.loc.isPod) ||
  (match k with
    | .fe .ldwt => false
    | .fe .fetest => false
    | .fe _ => true
    | .atomic _ => true
    | .prel _ => true
    | .load => false
    | .ldaq => false
    | .store => false
    | .strl => false
    | .fence _ => false
    | .bid => true)

/-- The lanes that an instruction acts for when it is not replayed (R33). -/
def guarded (g : Group) : Mask := g.strand.mask &&& guardMask g

/-- The outstanding operation of an instruction's lanes, with the group state that it reads at issue (R48). -/
def newOp (s : State) (r : MemReq) (id : Nat) (l : List LaneAcc) : MemOp :=
  let b := s.cur.feb.getD (gmField s.cur 20 2) 0
  { id := id, kind := r.kind, z := r.z, d := match r.od with | some o => effReg s.cur o | none => 0xF0, ret := r.ret, pred := r.pred,
    uni := loadUniform s r, ctr := r.ctr, scope := gmScope s.cur, hint := gmField s.cur 17 3, ty := gmType s.cur, round := gmRound s.cur,
    spins := fieldW b 0 8, limit := fieldW b 8 24, again := guarded s.cur &&& ~~~(enabled s.cur) != 0,
    via := (laneAddrs s r).any (·.phys), ending := none, lanes := l }

/-- Whether the strand is held until the operation completes (R157, R176). -/
def holdsStrand (k : OpKind) (l : List LaneAcc) : Bool :=
  k.holds || (match k with | .atomic _ => l.any (fun a => a.loc.isHost) | _ => false)

/-- Enters an operation among the outstanding ones: its counter rises, and its remote lanes enter their barrows (R40, R157, R289). -/
def enterOp (r : MemReq) (l : List LaneAcc) (s : State) : Nat × State :=
  let (id, s1) := freshId s
  let o := newOp s r id l
  let s2 := pushRemote s1.cur o l s1
  (id, modCur (fun g => raiseCtr r.ctr
    { g with outs := g.outs ++ [o], ccnt := g.ccnt + wd (countedLanes s.cur r.kind l),
             idemr := if closesRegion r.kind l then none else g.idemr }) s2)

/-- Reports the faults of absent lanes (R356). -/
def reportLanes (c : Nat) (k : AccKind) : List (DWord × Bool) → State → State
  | [], s => s
  | (va, p) :: l, s => reportLanes c k l (reportFault c va.toNat k 0 0 p s)

/-- What becomes of the strand once its operation has been entered (R154, R157): held until the operation completes, held until its
lanes have come free of their faults, or on its way. -/
def afterIssue (k : OpKind) (id : Nat) (l : List LaneAcc) (s : State) : State :=
  let bad := maskOfLanes ((l.filter (fun a => a.held)).map (·.lane))
  if holdsStrand k l then
    modCur (fun g => holdStrand (clkOf s) (.op id)
      { g with strand := { g.strand with pend := maskOfLanes (l.map (·.lane)), replay := none } }) s
  else if bad = 0 then modCur nextPc s
  else modCur (fun g => holdStrand (clkOf s) (.lanes id) { g with strand := { g.strand with pend := bad, replay := none } }) s

/-- The second phase of a memory instruction (R154): where a lane traps no lane acts, and all of them form the replay mask
(log entry 14); otherwise the lanes with a place go on, and those whose page is absent are held. -/
def phaseTwo (r : MemReq) (s : State) : Result :=
  let x := placeLanes r (laneAddrs s r) s
  match laneTraps x.1 with
  | some t => .next (takeTrap t (modCur (fun g => { g with replay := some (g.strand.pc, enabled s.cur) }) x.2))
  | none =>
    let y := enterOp r (goodLanes x.1) x.2
    .next (afterIssue r.kind y.1 (goodLanes x.1) (reportLanes s.cur.ctx r.kind.acc (absentLanes x.1) y.2))

/-- The number of the counter that an operation raises (R40). -/
def Ctr.number : Ctr → Nat
  | .l => 0
  | .s => 1
  | .none => 4

/-- The issue of a memory instruction after the checks of R77 (R40, R154, R289). -/
def memBody (r : MemReq) (s : State) : Result :=
  if enabled s.cur = 0 then .next (modCur nextPc s)
  else orTrap (phaseOne s r) (fun s =>
    if ctrFull r.ctr s.cur then stallCounter r.ctr.number s
    else match barrowLack s (remotePkgs s (laneAddrs s r)) with
      | some k => stallFor k s
      | none => phaseTwo r s) s

/-! ### Plain loads and stores -/

/-- A load of z bytes (R159). -/
def loadReq (k : OpKind) (z : Nat) (o : Opnd) (a : RegCode) (t : BitVec 3) (i : BitVec 5) : MemReq :=
  { kind := k, z := z, scale := z, od := some o, ret := true, pred := none, a := a, t := t, imm := i }

/-- A store of z bytes (R159). -/
def storeReq (k : OpKind) (z : Nat) (o : Opnd) (a : RegCode) (t : BitVec 3) (i : BitVec 5) : MemReq :=
  { kind := k, z := z, scale := z, od := some o, ret := false, pred := none, a := a, t := t, imm := i }

/-- LD1 (R159). -/
def execLd1 (d a : RegCode) (t : BitVec 3) (i : BitVec 5) (s : State) : Result :=
  issue (.ld1 d a t i) (memBody (loadReq .load 1 (wrOp d) a t i)) s
/-- LD2 (R159). -/
def execLd2 (d a : RegCode) (t : BitVec 3) (i : BitVec 5) (s : State) : Result :=
  issue (.ld2 d a t i) (memBody (loadReq .load 2 (wrOp d) a t i)) s
/-- LD4 (R159). -/
def execLd4 (d a : RegCode) (t : BitVec 3) (i : BitVec 5) (s : State) : Result :=
  issue (.ld4 d a t i) (memBody (loadReq .load 4 (wrOp d) a t i)) s
/-- LD8 (R159). -/
def execLd8 (d a : RegCode) (t : BitVec 3) (i : BitVec 5) (s : State) : Result :=
  issue (.ld8 d a t i) (memBody (loadReq .load 8 ((wrOp d).pair true) a t i)) s
/-- LD16 (R159). -/
def execLd16 (d a : RegCode) (t : BitVec 3) (i : BitVec 5) (s : State) : Result :=
  issue (.ld16 d a t i) (memBody (loadReq .load 16 ((wrOp d).many 4 true) a t i)) s
/-- LD64 (R159). -/
def execLd64 (d a : RegCode) (t : BitVec 3) (i : BitVec 5) (s : State) : Result :=
  issue (.ld64 d a t i) (memBody (loadReq .load 64 ((wrOp d).many 16 true) a t i)) s
/-- LDAQ (R162): an acquire load of 8 bytes. -/
def execLdaq (d a : RegCode) (t : BitVec 3) (i : BitVec 5) (s : State) : Result :=
  issue (.ldaq d a t i) (memBody (loadReq .ldaq 8 ((wrOp d).pair true) a t i)) s
/-- ST1 (R159). -/
def execSt1 (d a : RegCode) (t : BitVec 3) (i : BitVec 5) (s : State) : Result :=
  issue (.st1 d a t i) (memBody (storeReq .store 1 (rdOp 0 d) a t i)) s
/-- ST2 (R159). -/
def execSt2 (d a : RegCode) (t : BitVec 3) (i : BitVec 5) (s : State) : Result :=
  issue (.st2 d a t i) (memBody (storeReq .store 2 (rdOp 0 d) a t i)) s
/-- ST4 (R159). -/
def execSt4 (d a : RegCode) (t : BitVec 3) (i : BitVec 5) (s : State) : Result :=
  issue (.st4 d a t i) (memBody (storeReq .store 4 (rdOp 0 d) a t i)) s
/-- ST8 (R159). -/
def execSt8 (d a : RegCode) (t : BitVec 3) (i : BitVec 5) (s : State) : Result :=
  issue (.st8 d a t i) (memBody (storeReq .store 8 ((rdOp 0 d).pair true) a t i)) s
/-- ST16 (R159). -/
def execSt16 (d a : RegCode) (t : BitVec 3) (i : BitVec 5) (s : State) : Result :=
  issue (.st16 d a t i) (memBody (storeReq .store 16 ((rdOp 0 d).many 4 true) a t i)) s
/-- ST64 (R159). -/
def execSt64 (d a : RegCode) (t : BitVec 3) (i : BitVec 5) (s : State) : Result :=
  issue (.st64 d a t i) (memBody (storeReq .store 64 ((rdOp 0 d).many 16 true) a t i)) s
/-- STRL (R162): a release store of 8 bytes. -/
def execStrl (d a : RegCode) (t : BitVec 3) (i : BitVec 5) (s : State) : Result :=
  issue (.strl d a t i) (memBody (storeReq .strl 8 ((rdOp 0 d).pair true) a t i)) s

/-! ### Full/empty operations -/

/-- LDWT (R165). -/
def execLdwt (d a : RegCode) (t : BitVec 3) (i : BitVec 5) (s : State) : Result :=
  issue (.ldwt d a t i) (memBody (loadReq (.fe .ldwt) 8 ((wrOp d).pair true) a t i)) s
/-- LDCN (R165). -/
def execLdcn (d a : RegCode) (t : BitVec 3) (i : BitVec 5) (s : State) : Result :=
  issue (.ldcn d a t i) (memBody (loadReq (.fe .ldcn) 8 ((wrOp d).pair true) a t i)) s
/-- STFL (R165). -/
def execStfl (d a : RegCode) (t : BitVec 3) (i : BitVec 5) (s : State) : Result :=
  issue (.stfl d a t i) (memBody (storeReq (.fe .stfl) 8 ((rdOp 0 d).pair true) a t i)) s
/-- STFU (R165). -/
def execStfu (d a : RegCode) (t : BitVec 3) (i : BitVec 5) (s : State) : Result :=
  issue (.stfu d a t i) (memBody (storeReq (.fe .stfu) 8 ((rdOp 0 d).pair true) a t i)) s

/-- A full/empty operation without a data operand (R165). -/
def feReq (k : FeKind) (pred : Option Nat) (a : RegCode) (t : BitVec 3) (i : BitVec 5) : MemReq :=
  { kind := .fe k, z := 8, scale := 8, od := none, ret := pred.isSome, pred := pred, a := a, t := t, imm := i }

/-- FEFULL (R165). -/
def execFefull (a : RegCode) (t : BitVec 3) (i : BitVec 5) (s : State) : Result :=
  issue (.fefull a t i) (memBody (feReq .fefull none a t i)) s
/-- FEEMPTY (R165). -/
def execFeempty (a : RegCode) (t : BitVec 3) (i : BitVec 5) (s : State) : Result :=
  issue (.feempty a t i) (memBody (feReq .feempty none a t i)) s
/-- FETEST (R165): the bit into a predicate. -/
def execFetest (p : BitVec 3) (a : RegCode) (t : BitVec 3) (i : BitVec 5) (s : State) : Result :=
  issue (.fetest p a t i) (memBody (feReq .fetest (some p.toNat) a t i)) s

/-! ### Atomics -/

/-- An atomic (R171): 8 bytes under the 64-bit types, 4 otherwise; the offset scale is 4; $zero returns nothing. -/
def atomReq (op : AtomOp) (ty : Nat) (o : Opnd) (a : RegCode) (t : BitVec 3) (i : BitVec 5) : MemReq :=
  { kind := .atomic op, z := if ty64 ty then 8 else 4, scale := 4, od := some o, ret := o.code != 0xF0, pred := none, a := a,
    t := t, imm := i }

/-- An atomic on one register or a pair (R171, R172). -/
def atomic (x : Instr) (op : AtomOp) (d a : RegCode) (t : BitVec 3) (i : BitVec 5) (s : State) : Result :=
  issue x (fun s => memBody (atomReq op (gmType s.cur) (tyOp s.cur (rwOp d)) a t i) s) s

/-- AADD (R172). -/
def execAadd (d a : RegCode) (t : BitVec 3) (i : BitVec 5) (s : State) : Result := atomic (.aadd d a t i) .add d a t i s
/-- AMIN (R172). -/
def execAmin (d a : RegCode) (t : BitVec 3) (i : BitVec 5) (s : State) : Result := atomic (.amin d a t i) .min d a t i s
/-- AMAX (R172). -/
def execAmax (d a : RegCode) (t : BitVec 3) (i : BitVec 5) (s : State) : Result := atomic (.amax d a t i) .max d a t i s
/-- AAND (R172). -/
def execAand (d a : RegCode) (t : BitVec 3) (i : BitVec 5) (s : State) : Result := atomic (.aand d a t i) .and d a t i s
/-- AOR (R172). -/
def execAor (d a : RegCode) (t : BitVec 3) (i : BitVec 5) (s : State) : Result := atomic (.aor d a t i) .or d a t i s
/-- AXOR (R172). -/
def execAxor (d a : RegCode) (t : BitVec 3) (i : BitVec 5) (s : State) : Result := atomic (.axor d a t i) .xor d a t i s
/-- ASWP (R172). -/
def execAswp (d a : RegCode) (t : BitVec 3) (i : BitVec 5) (s : State) : Result := atomic (.aswp d a t i) .swp d a t i s
/-- AINC (R172). -/
def execAinc (d a : RegCode) (t : BitVec 3) (i : BitVec 5) (s : State) : Result := atomic (.ainc d a t i) .inc d a t i s
/-- ADEC (R172). -/
def execAdec (d a : RegCode) (t : BitVec 3) (i : BitVec 5) (s : State) : Result := atomic (.adec d a t i) .dec d a t i s
/-- ACAS (R173): the compare value, then the new value. -/
def execAcas (d a : RegCode) (t : BitVec 3) (i : BitVec 5) (s : State) : Result :=
  issue (.acas d a t i) (fun s =>
    memBody (atomReq .cas (gmType s.cur)
      (if ty64 (gmType s.cur) then (rwOp d).many 4 true else (rwOp d).many 2 false) a t i) s) s

/-! ### Fences -/

/-- FENCE (R163): a mark among the group's outstanding operations, which holds back later ones until what it names is
performed. -/
def execFence (k : BitVec 2) (sc : BitVec 3) (s : State) : Result :=
  issue (.fence k sc) (fun s =>
    let (id, s1) := freshId s
    let f : MemOp := { id := id, kind := .fence k, z := 0, d := 0xF0, ret := false, pred := none, uni := false, ctr := .none,
                       scope := sc.toNat, hint := 0, ty := 0, round := 0, spins := 0, limit := 0, again := false, via := false, ending := none, lanes := [] }
    .next (dropFences s.cur.id (modCur (fun g => nextPc { g with outs := g.outs ++ [f] }) s1))) s

end Sys2Proof.Machine
end

