-- ==== Sys2Proof/Machine/Auctions.lean ====
section
/-! DEFINITION. Expert selection and the auction instructions KTOP, ACFG, BID and TAKE (R206 to R210). -/

namespace Sys2Proof.Machine

/-! ### KTOP -/

/-- A lane at its place in a list ordered by score, descending, ties to the lower lane (R206); k is the order of scores. -/
def rankInsert (k : Nat → Int) (l : Nat) : List Nat → List Nat
  | [] => [l]
  | x :: r => if k x < k l || (k x == k l && decide (l < x)) then l :: x :: r else x :: rankInsert k l r

/-- Lanes, or groups, by descending score. -/
def ranked (k : Nat → Int) (l : List Nat) : List Nat := l.foldl (fun r x => rankInsert k x r) []

/-- The score code of a KTOP group from its eligible lanes, best first (R206). -/
def topScore (sc : Nat → Nat) : List Nat → Option Nat
  | [] => none
  | [a] => some (sc a)
  | a :: b :: _ => if isNanCode f32 (add32 (sc a) (sc b)) then none else some (add32 (sc a) (sc b))

/-- The ranks of the lanes: the list of lanes that take ranks 0, 1, … (R206). -/
def ktopRanks (w groups limit : Nat) (elig : List Nat) (sc : Nat → Nat) : List Nat :=
  let size := w / groups
  let key := fun l => orderKey f32 (sc l)
  let score := fun x => topScore sc (ranked key (elig.filter (fun l => l / size == x)))
  let kept := (ranked (fun x => orderKey f32 ((score x).getD 0)) ((List.range groups).filter (fun x => (score x).isSome))).take limit
  ranked key (elig.filter (fun l => kept.contains (l / size)))

/-- The position of an element of a list. -/
def rankOf (x : Nat) : List Nat → Option Nat
  | [] => none
  | y :: l => if x = y then some 0 else (rankOf x l).map (· + 1)

/-- The checks of KTOP's operand b (R206). -/
def ktopTrap (s : State) (b : RegCode) : Option Trap :=
  let v := uWord s (rdOp 2 b)
  let w := width s.cur
  let n := fieldW v 8 8
  firstSome [mustBeU s (rdOp 2 b),
    if fieldW v 24 8 ≠ 0 then some (trapOf .reservedField (dw (effReg s.cur (rdOp 2 b)))) else none,
    if w < fieldW v 0 8 || n = 0 || w < n || 2 ^ n.log2 ≠ n || fieldW v 16 8 = 0 || n < fieldW v 16 8 then
      some (trapOf .width (zext v)) else none]

/-- KTOP (R206). -/
def execKtop (d a b : RegCode) (s : State) : Result :=
  issue (.ktop d a b) (fun s =>
    if enabled s.cur = 0 then .next (modCur nextPc s)
    else orTrap (ktopTrap s b) (fun s =>
      let g := s.cur
      let v := uWord s (rdOp 2 b)
      let sc := fun l => (opLane s (rdOp 1 a) 0 l).toNat
      let elig := (lanesOf (members g)).filter (fun l => !isNanCode f32 (sc l))
      let rs := ktopRanks (width g) (fieldW v 8 8) (fieldW v 16 8) elig sc
      let out := fun l => match rankOf l rs with
        | some r => if r < fieldW v 0 8 then wd r else 0xFF
        | none => 0xFF
      writeBack (enabled g) (destWrites g (wrOp d) [.g ((List.range (width g)).map out)]) s) s) s

/-! ### Auctions -/

/-- AUCTION_CONFIG naming a handle (R207). -/
def auctionTrap (h : Word) : Trap := trapOf .auctionConfig (zext h)

/-- Whether two auctions of one team on one core share storage. -/
def storageOverlap (a b : Auction) : Bool :=
  a.part == b.part && a.core == b.core && a.team == b.team && a.slot != b.slot &&
  decide (a.off < b.off + 16 + 8 * b.cap) && decide (b.off < a.off + 16 + 8 * a.cap)

/-- The auction that ACFG describes (R208). -/
def acfgAuction (g : Group) (h c0 c1 : Word) : Auction :=
  let (p, c, k) := handleParts h
  { part := p, core := c, slot := k, team := g.team, cap := fieldW c0 18 9, off := fieldW c0 0 18,
    replica := if c1.getLsbD 16 then some (fieldW c1 27 2, fieldW c1 20 7, fieldW c1 17 3) else none,
    expert := fieldW c1 0 16, heap := [], offers := 0, accepts := 0, evicts := 0, sum := 0 }

/-- Whether ACFG's handle and configuration are refused (R207, R208). -/
def acfgBad (s : State) (h c0 c1 : Word) : Bool :=
  let a := acfgAuction s.cur h c0 c1
  !handleForm h || a.part != s.cur.part || a.core != s.cur.core || fieldW c0 27 5 != 0 || fieldW c1 29 3 != 0 ||
  decide (256 < a.cap) || a.off % 16 != 0 ||
  (a.cap != 0 && (decide (s.cur.hdr.scratch < a.off + 16 + 8 * a.cap) || s.auctions.any (storageOverlap a)))

/-- Whether an operation on an auction must wait at issue (R319): an offer of the group that may be applied there, or an acquire or a fence, is
open. -/
def auctionBusy (s : State) (h : Word) : Bool :=
  s.cur.outs.any (fun o => (offersTo s o).contains h) ||
  behindAcquire s s.cur true s.nextId s.cur.outs

/-- ACFG (R208): a slot is configured anew, or with capacity 0 deconfigured. -/
def execAcfg (d a : RegCode) (s : State) : Result :=
  issueStrand (.acfg d a) (fun s =>
    let h := uWord s (rdOp 0 d)
    let c := uPair s ((rdOp 1 a).pair true)
    let x := acfgAuction s.cur h (loHalf c) (hiHalf c)
    orTrap (firstSome [mustBeU s (rdOp 0 d), mustBeU s ((rdOp 1 a).pair true),
        if acfgBad s h (loHalf c) (hiHalf c) then some (auctionTrap h) else none])
      (fun s =>
        let others := s.auctions.filter (fun y => !(y.part == x.part && y.core == x.core && y.slot == x.slot))
        if auctionBusy s h then stallIssue s else .next (modCur (fun g => nextPc (closeIdem g)) { s with auctions := if x.cap = 0 then others else others ++ [x] })) s) s

/-- The address that stands for an auction among an operation's places: above every address of device memory, and one for each
operation. -/
def bidPlace (id : Nat) : Loc := .dev (2 ^ 60 + 64 * id)

/-- The lanes of a BID: the score in the low word of data, the token above it, the handle and the configuring team. -/
def bidLanes (s : State) (h : Word) (team id : Nat) (a b : RegCode) : List LaneAcc :=
  (lanesOf (enabled s.cur)).map (fun l =>
    { lane := l, va := dw team, loc := bidPlace id,
      data := BitVec.ofNat 512 ((opLane s (rdOp 2 b) 0 l).toNat + 2 ^ 32 * (opLane s (rdOp 1 a) 0 l).toNat),
      data2 := zext h, held := false, done := false, ret := 0 })

/-- AUCTION_CONFIG for the lowest lane whose token has bits [31:29] set (R209). -/
def tokenTrap (s : State) (a : RegCode) : Option Trap :=
  ((lanesOf (enabled s.cur)).find? (fun l => fieldW (opLane s (rdOp 1 a) 0 l) 29 3 != 0)).map
    (fun l => laneTrap .auctionConfig l (zext (opLane s (rdOp 1 a) 0 l)))

/-- BID (R209): the offers are applied later, and the reply comes as a load's does. -/
def execBid (d a b : RegCode) (s : State) : Result :=
  issue (.bid d a b) (fun s =>
    let h := uWord s (rdOp 0 d)
    let r := effReg s.cur (wrOp d)
    if enabled s.cur = 0 then .next (modCur nextPc s)
    else orTrap (firstSome [mustBeU s (rdOp 0 d),
        if r < 0xF0 && narrow s.cur r then some (trapOf .shape (dw r)) else none,
        if (auctionOf s h).isNone then some (auctionTrap h) else none, tokenTrap s a])
      (fun s =>
        if ctrFull .l s.cur then stallCounter 0 s
        else
          let (id, s1) := freshId s
          let team := match auctionOf s h with | some x => x.team | none => 0
          let o : MemOp := { id := id, kind := .bid, z := 4, d := r, ret := true, pred := none, uni := false, ctr := .l,
                             scope := gmScope s.cur, hint := 0, ty := 1, round := 0, spins := 0, limit := 0, again := false, via := false, ending := none, lanes := bidLanes s h team id a b }
          .next (modCur (fun g => nextPc (raiseCtr .l { g with outs := g.outs ++ [o], idemr := none })) s1)) s) s

/-- TAKE (R210): the takings as U, cleared in the same step. -/
def execTake (d a : RegCode) (s : State) : Result :=
  issueStrand (.take d a) (fun s =>
    let h := uWord s (rdOp 1 a)
    orTrap (mustBeU s (rdOp 1 a)) (fun s =>
      match auctionOf s h with
      | none => .next (takeTrap (auctionTrap h) s)
      | some x =>
        let ws := destWrites s.cur ((wrOp d).many 4 false) [.u x.offers, .u x.accepts, .u x.evicts, .u x.sum]
        match narrowFault (activeLanes s.cur) s.cur ws with
        | some r => .next (takeTrap (trapOf .shape (dw r)) s)
        | none => if auctionBusy s h then stallIssue s else .next (modCur (fun g => nextPc (writeRegs (activeLanes g) ws (closeIdem g)))
            (putAuction { x with offers := 0, accepts := 0, evicts := 0, sum := 0 } s))) s) s

end Sys2Proof.Machine
end

