-- ==== Sys2Proof/Machine/Barrier.lean ====
section
/-! DEFINITION. The barrier instructions BARI, BARA and BARW (R189). -/

namespace Sys2Proof.Machine

/-- The address of a scratchpad offset in the window (R151). -/
def windowAddr (off : Nat) : DWord := dw (Config.window + off)

/-- The checks of an object's offset (R189). -/
def barrierTrap (g : Group) (off : Nat) : Option Trap :=
  if off % 16 ≠ 0 then some (trapOf .align (windowAddr off))
  else if g.hdr.scratch < off + 16 then some (trapOf .protect (windowAddr off))
  else none

/-- Whether an earlier access of a group to an object's bytes is still to be performed (R155). -/
def touchesObj (g : Group) (off : Nat) : Bool :=
  g.outs.any (fun o => o.lanes.any (fun l => !l.done && !l.held && overlap l.loc o.z (.scr false off) 16))

/-- Whether an access that a group has issued is still to be performed at a scope (R255, R262, R270). -/
def unperformed (scope : Nat) (g : Group) : Bool := g.outs.any (notPerformed scope)

/-- Whether a remote access of a group is held back still, so that its barrow has not accepted it (R163, R259, log entry 86). -/
def remoteHeldBack (s : State) (g : Group) : Bool :=
  g.outs.any (fun o => o.lanes.any (fun l => !l.done && l.loc.isPod) && !canPerform s g o)

/-- Whether BARI or BARW waits at issue (R155, R162, R163): for earlier accesses to the object, and for acquires and fences. -/
def objWaits (s : State) (off : Nat) (writes : Bool) : Bool := touchesObj s.cur off || behindReads s s.cur writes s.cur.outs

/-- Whether BARA waits at issue (R255, R262, R270): for every earlier access at team scope, and for acquires and fences. -/
def baraWaits (s : State) : Bool := unperformed 1 s.cur || behindReads s s.cur true s.cur.outs || remoteHeldBack s s.cur

/-- BARI (R189): a new object; a BARW that its phase 0 releases goes on. -/
def execBari (a b : RegCode) (s : State) : Result :=
  issueStrand (.bari a b) (fun s =>
    let off := (uWord s (rdOp 1 a)).toNat
    let e := uWord s (rdOp 2 b)
    orTrap (firstSome [mustBeU s (rdOp 1 a), mustBeU s (rdOp 2 b), barrierTrap s.cur off,
        if fieldW e 16 16 ≠ 0 then some (trapOf .reservedField (dw (effReg s.cur (rdOp 2 b)))) else none])
      (fun s => if objWaits s off true then stallIssue s
        else .next (modCur nextPc (releaseBarw s.cur.team (setBar s.cur.team off e.toNat s)))) s) s

/-- BARA (R189): an arrival in the current phase; where the phase's arrivals are complete, a flip first, at once or when PEND
reaches 0. A narrow d that would become G traps before the arrival counts. -/
def execBara (d a : RegCode) (s : State) : Result :=
  issueStrand (.bara d a) (fun s =>
    let off := (uWord s (rdOp 1 a)).toNat
    let v := barObj s s.cur.team off
    let r := effReg s.cur (wrOp d)
    let now := decide (barArr v < barExp v)
    let ph := if now then barPh v else !barPh v
    orTrap (firstSome [mustBeU s (rdOp 1 a), barrierTrap s.cur off,
        (narrowFault (activeLanes s.cur) s.cur (phaseWrite r ph)).map (fun x => trapOf .shape (dw x))])
      (fun s =>
        let arrive := fun (s : State) =>
          modCur (fun g => nextPc (writeRegs (activeLanes g) (phaseWrite r ph) g)) s
        let back := focusLane s.cur.id ((lowestLane (activeLanes s.cur)).getD 0)
        let count := fun (s : State) =>
          let v := barObj s s.cur.team off
          if barArr v < barExp v then
            let u := withArr v (barArr v + 1)
            let s1 := setBar s.cur.team off u s
            if flipDue u then flip s.cur.team off s1 else s1
          else s
        if baraWaits s then stallIssue s
        else if now then .next (count (arrive (modCur closeIdem s)))
        else if barPend v = 0 then .next (count (arrive (back (flip s.cur.team off (modCur closeIdem s)))))
        else .next (modCur (holdStrand (clkOf s) (.bara off r)) (modCur closeIdem s))) s) s

/-- BARW (R189): the strand is held until the phase differs from bit 0 of b. -/
def execBarw (a b : RegCode) (s : State) : Result :=
  issueStrand (.barw a b) (fun s =>
    let off := (uWord s (rdOp 1 a)).toNat
    let bit := (uWord s (rdOp 2 b)).getLsbD 0
    orTrap (firstSome [mustBeU s (rdOp 1 a), mustBeU s (rdOp 2 b), barrierTrap s.cur off])
      (fun s => if objWaits s off false then stallIssue s
        else if barPh (barObj s s.cur.team off) != bit then .next (modCur nextPc s)
        else .next (modCur (holdStrand (clkOf s) (.barw off bit s.nextId)) s)) s) s

end Sys2Proof.Machine
end

