-- ==== Sys2Proof/Machine/TileMath.lean ====
section
/-! DEFINITION. The sums of the matrix engine (R70 to R73), element formats of its operands, and the conversion of TCVT (R204). -/

namespace Sys2Proof.Machine

/-- Whether a pair of GM types of A and B is accepted (R200). -/
def tilePair (a b : Nat) : Bool :=
  match a with
  | 6 => b == 6
  | 7 => b == 7
  | 10 | 11 => b == 10 || b == 11
  | 12 | 13 => b == 12 || b == 13
  | 14 => b == 14
  | _ => false

/-- The depth K of a format (R200). -/
def tileDepth (ty : Nat) : Nat := match ty with | 6 | 7 => 32 | 14 => 128 | _ => 64

/-- Bits of one element of a format. -/
def tileBits (ty : Nat) : Nat := tyWidth ty

/-- Bytes that n columns of one row of B take (R57, R200). -/
def tileRowBytes (ty n : Nat) : Nat := (n * tileBits ty + 7) / 8

/-- Whether an operation sums integers (R73). -/
def tileInt (ty : Nat) : Bool := ty == 10 || ty == 11

/-- The exact value of an element code (R49, R54, R56). -/
def tileVal (ty c : Nat) : FVal := decodeF (fmtOf ty) c

/-- A zero value as +0 (R70). -/
def posZero (v : FVal) : FVal := if v.isZero then .fin false 0 0 else v

/-- A binary32 code whose zero is +0 (R70). -/
def posCode (c : Nat) : Nat := if magBits f32 c = 0 then 0 else c

/-- The group result of floating-point formats (R70, R72): the exact sum, the scales, one rounding. -/
def groupResult (ps : List (FVal × FVal)) (scales : List FVal) : Nat :=
  let sum := posZero (sumF 0 (ps.map (fun p => posZero (p.1.mul p.2))))
  posCode (encodeF f32 0 (posZero (scales.foldl (fun v q => v.mul q) sum)))

/-- The group sum of integer formats (R73). -/
def groupInt (tyA tyB : Nat) (ps : List (Nat × Nat)) : Int := ps.foldl (fun t p => t + intOf tyA p.1 * intOf tyB p.2) 0

/-- One group result entering an accumulator element (R71). -/
def accStep (acc f : Nat) : Nat := add32 acc f

/-- The depths of group g that lie below k. -/
def groupDepths (g k : Nat) : List Nat := ((List.range 8).map (fun i => 8 * g + i)).filter (fun d => decide (d < k))

/-- What one element of a matrix operation is computed from: A's row i and B's column j by depth, and the scales of a group. -/
structure TileElem where
  tyA    : Nat
  tyB    : Nat
  k      : Nat
  a      : Nat → Nat
  b      : Nat → Nat
  scales : Nat → List FVal

/-- The new value of an accumulator element (R70 to R73): old is none in overwrite mode. -/
def tileElement (e : TileElem) (old : Option Word) : Word :=
  let gs := List.range ((e.k + 7) / 8)
  if tileInt e.tyA then
    gs.foldl (fun (acc : Word) g => acc + BitVec.ofInt 32 (groupInt e.tyA e.tyB ((groupDepths g e.k).map (fun d => (e.a d, e.b d)))))
      (old.getD 0)
  else
    let f := fun g => groupResult ((groupDepths g e.k).map (fun d => (tileVal e.tyA (e.a d), tileVal e.tyB (e.b d)))) (e.scales g)
    match old, gs with
    | some v, gs => wd (gs.foldl (fun acc g => accStep acc (f g)) v.toNat)
    | none, [] => 0
    | none, g :: gs => wd (gs.foldl (fun acc g => accStep acc (f g)) (f g))

/-- Element d of a row of A: registers of packed elements (R200). -/
def rowElem (ty : Nat) (row : List Word) (d : Nat) : Nat :=
  let p := 32 / tileBits ty
  fieldW (row.getD (d / p) 0) (d % p * tileBits ty) (tileBits ty)

/-- Byte q of a list of registers from register r on (R200). -/
def rowByte (row : List Word) (r q : Nat) : Nat := fieldW (row.getD (r + q / 4) 0) (q % 4 * 8) 8

/-- The destination types of TCVT (R204). -/
def tcvtType (ty : Nat) : Bool := ty == 4 || ty == 6 || ty == 7 || (10 ≤ ty && ty < 14)

/-- An element of a tile converted for TCVT (R204). -/
def tcvtElem (src dst mode : Nat) (sat : Bool) (x : Word) : Nat := convertEl src dst mode sat x.toNat

end Sys2Proof.Machine
end

