-- ==== Sys2Proof/Machine/TileStore.lean ====
section
/-! DEFINITION. The accumulator tiles of a team (R199, R204, R395), and the work of a matrix multiply on them (R200). -/

namespace Sys2Proof.Machine

/-- The place of an element of a tile on one core. -/
def tileKey (tile row c : Nat) : Nat := tile * 2 ^ 14 + row * 2 ^ 7 + c

/-- Element (row, col) of a tile: columns 128 to 255 lie on the follower (R200). -/
def readTile (t : Team) (tile row col : Nat) : Word :=
  if col < 128 then Sparse.get 0 t.tilesL (tileKey tile row col) else Sparse.get 0 t.tilesF (tileKey tile row (col - 128))

/-- What SR_TVAL names of an element (R396). -/
def tileLocator (tile row col : Nat) : Nat := tile * 2 ^ 16 + row * 2 ^ 8 + col

/-- The key of the poison of an element's 8-byte word, which holds two columns (R395). -/
def tilePoisonKey (tile row col : Nat) : Nat := tileLocator tile row (col / 2 * 2)

/-- Whether an element's word is poisoned (R395). -/
def tilePoisoned (t : Team) (tile row col : Nat) : Bool := Sparse.get false t.tpoison (tilePoisonKey tile row col)

/-- Writes an element, with its poison, of an operation that writes the first n columns of the row: a word that the operation writes whole takes its
poison from what is written, another keeps what it has beside it (R395). -/
def writeTile (n tile row col : Nat) (v : Word) (bad : Bool) (t : Team) : Team :=
  let whole := col % 2 == 0 && decide (col + 1 < n)
  let t1 := { t with tpoison := Sparse.set false t.tpoison (tilePoisonKey tile row col) (bad || (!whole && tilePoisoned t tile row col)) }
  if col < 128 then { t1 with tilesL := Sparse.set 0 t1.tilesL (tileKey tile row col) v }
  else { t1 with tilesF := Sparse.set 0 t1.tilesF (tileKey tile row (col - 128)) v }

/-- The elements of the first m rows and n columns, in row-major order. -/
def tileElems (m n : Nat) : List (Nat × Nat) := (List.range m).flatMap (fun i => (List.range n).map (fun j => (i, j)))

/-- The rows of an operation: limited by the count of TMMI (R203). -/
def tileRowsOf (o : TileOp) : Nat := match o.count with | some c => min o.m (fieldD c 0 32) | none => o.m

/-! ### A matrix multiply -/

/-- The byte of B's storage that holds element (d, c) of one core's half, and the element's place in it (R57, R200). -/
def bPlace (o : TileOp) (d c : Nat) : Nat × Nat := (o.bOff + d * o.bPitch + c * tileBits o.fmtB / 8, c * tileBits o.fmtB % 8)

/-- Element (d, j) of B (R200). -/
def bElem (s : State) (tm : Nat) (o : TileOp) (d j : Nat) : Nat :=
  let (a, sh) := bPlace o d (j % 128)
  bits (readBytes s tm (.scr (decide (128 ≤ j)) a) (if tileBits o.fmtB = 16 then 2 else 1)) sh (tileBits o.fmtB)

/-- The scales of group g for row i and column j (R70, R200). -/
def tileScales (s : State) (tm : Nat) (o : TileOp) (i j g : Nat) : List FVal :=
  if o.fmtA ≠ 14 then []
  else
    let row := o.aRows.getD i []
    let f := decide (128 ≤ j)
    let c := j % 128
    [e3m5 (rowByte row 16 g), e3m5 (readBytes s tm (.scr f (o.bScale + 128 * g + c)) 1)] ++
    (if o.band then [decodeF bf16 (fieldW (row.getD 20 0) 0 16),
                     decodeF bf16 (readBytes s tm (.scr f (o.bScale + 2048 + (if c < 64 then 0 else 2))) 2)] else [])

/-- The new value of element (i, j) (R70 to R73). -/
def tileResult (s : State) (tm : Nat) (o : TileOp) (i j : Nat) : Word :=
  tileElement { tyA := o.fmtA, tyB := o.fmtB, k := o.k, a := rowElem o.fmtA (o.aRows.getD i []), b := fun d => bElem s tm o d j,
                scales := tileScales s tm o i j }
    (if o.acc then some (readTile (getTeam s tm) o.tile i j) else none)

/-- The bytes of B and its scales that an operation reads on one core: offset and length (R200). -/
def bRanges (o : TileOp) (follower : Bool) : List (Nat × Nat) :=
  let n := if follower then o.n - 128 else min o.n 128
  if n = 0 || o.k = 0 || tileRowsOf o = 0 then []
  else
    (List.range o.k).map (fun d => (o.bOff + d * o.bPitch, (n * tileBits o.fmtB + 7) / 8)) ++
    (if o.fmtA ≠ 14 then [] else
      (List.range ((o.k + 7) / 8)).map (fun g => (o.bScale + 128 * g, n)) ++
      (if o.band then [(o.bScale + 2048, if 64 < n then 4 else 2)] else []))

/-- The first poison that an operation reads: in B on either core, or in the tile in accumulate mode (R396). -/
def tilePoison (s : State) (tm : Nat) (o : TileOp) : Option DWord :=
  firstSome (
    [false, true].flatMap (fun f => (bRanges o f).map (fun r =>
      ((List.range r.2).find? (fun i => isPoisoned s tm (.scr f (r.1 + i)) 1)).map (fun i => poisonLocator (.scr f ((r.1 + i) / 8 * 8))))) ++
    [if o.acc then
      ((tileElems (tileRowsOf o) o.n).find? (fun e => tilePoisoned (getTeam s tm) o.tile e.1 e.2)).map
        (fun e => dw (2 ^ 63 + 2 * 2 ^ 56 + tileLocator o.tile e.1 e.2)) else none])

/-- The tile after a multiply (R200): the elements inside the limits. -/
def runMul (tm : Nat) (o : TileOp) (s : State) : State :=
  setTeam tm ((tileElems (tileRowsOf o) o.n).foldl (fun t e => writeTile o.n o.tile e.1 e.2 (tileResult s tm o e.1 e.2) false t) (getTeam s tm)) s

/-- The tile after TZRA (R204). -/
def runZero (tm : Nat) (o : TileOp) (s : State) : State :=
  let t := getTeam s tm
  setTeam tm { t with
    tilesL := t.tilesL.filter (fun e => e.1 / 2 ^ 14 != o.tile), tilesF := t.tilesF.filter (fun e => e.1 / 2 ^ 14 != o.tile),
    tpoison := t.tpoison.filter (fun e => e.1 / 2 ^ 16 != o.tile) } s

/-! ### The movers -/

/-- The bytes of one element that a mover moves (R204). -/
def moverSize (o : TileOp) : Nat := match o.kind with | .convert ty _ _ _ => tyWidth ty / 8 | _ => 4

/-- The bytes that an element becomes in memory (R204). -/
def moverBytes (t : Team) (o : TileOp) (i j : Nat) : List Byte :=
  let v := readTile t o.tile i j
  match o.kind with
  | .convert ty round sat src => bytesLE (tyWidth ty / 8) (tcvtElem src ty round sat v)
  | _ => bytesLE 4 v.toNat

/-- A tile operation of a stream by its number. -/
def findTile (s : State) (tm k id : Nat) : Option TileOp := (getStream s tm k).ops.find? (fun o => o.id == id)

/-- Whether a mover moves its elements (R199, R234): at the head of its stream, TLDA before it starts, TSTA and TCVT once they have. -/
def moverMoves (s : State) (tm k : Nat) (o : TileOp) : Bool :=
  (match (getStream s tm k).ops with | h :: _ => h.id == o.id | [] => false) &&
  (match o.kind with | .load => !o.started | _ => o.started)

/-- The tile after the start of TLDA (R204): what it has staged. -/
def runLoad (tm : Nat) (o : TileOp) (s : State) : State :=
  setTeam tm (((tileElems o.m o.n).zip o.staged).foldl (fun t e => writeTile o.n o.tile e.1.1 e.1.2 e.2.1 e.2.2 t) (getTeam s tm)) s

/-- The elements that TSTA and TCVT take from the tile at their start, as they become in memory (R204). -/
def takeElems (t : Team) (o : TileOp) : List (Word × Bool) :=
  (tileElems o.m o.n).map (fun e => (wd (natLE (moverBytes t o e.1 e.2)), tilePoisoned t o.tile e.1 e.2))

end Sys2Proof.Machine
end

