-- ==== Sys2Proof/Machine/EngineMove.lean ====
section
/-! DEFINITION. What an engine does after issue (R178 to R187, R252, R395, R396): where its addresses lead, the run of bytes that
lands next, full/empty treatment, poison, and the landing word. -/

namespace Sys2Proof.Machine

/-! ### Addresses -/

/-- Where an engine's address leads at the moment it is used (R178). -/
inductive Reach where
  | at (va : Nat) (loc : Loc)
  | far (pkg off : Nat)
  | absent (va : Nat) (paged : Bool)
  | denied
  | bad (c : Cause) (va : DWord)
  | wait
  deriving DecidableEq, Repr

/-- The translation of a local address of an engine operation. -/
def reachLocal (x : EngOp) (addr : DWord) (va : Nat) (own : Bool) (k : AccKind) (s : State) : Reach × State :=
  match translate x.ctx x.part x.core va k s with
  | (.ok pa m, s1) => (.at va (placeOf pa m), s1)
  | (.absent p, s1) => (.absent va p, s1)
  | (.page, s1) => (if own then .denied else .bad .page addr, s1)
  | (.protect, s1) => (if own then .denied else .bad .protect addr, s1)

/-- Where n bytes at an address lead (R151, R152, R178); the window ends with the team's scratchpad (a packet's operation has none,
R327), and a pod address of the issuing package leads through its own export window. -/
def reachPlace (x : EngOp) (addr : DWord) (n : Nat) (k : AccKind) (s : State) : Reach × State :=
  match addrForm s addr with
  | .window off =>
    if (getTeam s x.team).hdr.scratch < off + n || x.pkt.isSome then (.bad .protect addr, s)
    else (.at addr.toNat (.scr x.half off), s)
  | .plain va => reachLocal x addr va false k s
  | .pod p off =>
    if p = pkgId s then
      match exportVa s x.ctx off n with
      | some va => reachLocal x addr va true k s
      | none => (.denied, s)
    else (.far p off, s)
  | .badForm => (.bad .page addr, s)
  | .noPackage => (.bad .protect addr, s)

/-- Where n bytes at an address lead, for an access that their home slices serve (R178, R242). -/
def reach (x : EngOp) (addr : DWord) (n : Nat) (k : AccKind) (s : State) : Reach × State :=
  match reachPlace x addr n k s with
  | (.at va loc, s1) => (.at va loc, homeServes loc n s1)
  | (.far p off, s1) => (.far p off, s1)
  | (.absent va p, s1) => (.absent va p, s1)
  | (.denied, s1) => (.denied, s1)
  | (.bad c a, s1) => (.bad c a, s1)
  | (.wait, s1) => (.wait, s1)

/-- A place n bytes further. -/
def Loc.plus : Loc → Nat → Loc
  | .dev pa, n => .dev (pa + n)
  | .scr f off, n => .scr f (off + n)
  | .host ha, n => .host (ha + n)
  | .pod p off, n => .pod p (off + n)

/-- A place n bytes before. -/
def Loc.minus : Loc → Nat → Loc
  | .dev pa, n => .dev (pa - n)
  | .scr f off, n => .scr f (off - n)
  | .host ha, n => .host (ha - n)
  | .pod p off, n => .pod p (off - n)

/-! ### Order -/

/-- The outstanding operations of a group that were issued before a number. -/
def issuedBefore (id : Nat) (g : Group) : List MemOp := g.outs.filter (fun o => decide (o.id < id))

/-- Whether acquires and fences of a group let an engine or tile operation of a number act (R162, R163, R262). -/
def agentMayAct (gid : Option Nat) (id : Nat) (s : State) : Bool :=
  match gid with
  | none => true
  | some gid => match findGroup gid s with
    | none => true
    | some g => !behindAcquire s g true id (issuedBefore id g)

/-- Whether an access to n bytes at an address and its place that a group issued before a number is still to be performed (R181,
R257). -/
def agentTouch (gid : Option Nat) (id va : Nat) (loc : Loc) (n : Nat) (s : State) : Bool :=
  match gid with
  | none => false
  | some gid => match findGroup gid s with
    | none => false
    | some g => ownWindowOpen s g id n (homeOf s g.ctx loc) ||
        (issuedBefore id g).any (fun o => o.lanes.any (fun l => laneTouches s g.ctx o l va n (some loc)))

/-- Whether an operation that goes through the issuing package's own window, and that a group has issued before a number, is still to be
performed (R152, R274); one that waits on a word apart. -/
def ownOrder (gid id : Nat) (s : State) : Bool :=
  ownCopyOpen s gid id ||
  s.barrow.any (fun b => b.gid == some gid && b.dst == pkgId s && b.copy.isNone && decide (b.op < id) &&
    (b.sent == 0 || s.served.any (fun x => x.src == pkgId s && x.rcd.tag == b.id) || s.prels.any (fun x => x.src == pkgId s && x.rcd.tag == b.id)))

/-- Whether acquires and fences, and the order of the issuing package's own window, let an engine operation act (R162, R163, R274). -/
def engineMayAct (x : EngOp) (s : State) : Bool :=
  agentMayAct x.gid x.id s && !(ownPodCopy s x && (match x.gid with | some gid => ownOrder gid x.id s | none => false))

/-- Whether an earlier access of the issuing group to n bytes at a place is still to be performed (R181). -/
def earlierTouch (x : EngOp) (va : Nat) (loc : Loc) (n : Nat) (s : State) : Bool := agentTouch x.gid x.id va loc n s

/-! ### Writing bytes -/

/-- The unit of poison of a place, and the byte's number within its storage (R395). -/
def poisonUnit : Loc → Nat × Nat
  | .dev pa => (64, pa)
  | .scr _ off => (8, off)
  | .host ha => (1, ha)
  | .pod _ off => (1, off)

/-- The poison of the units that an engine's write of n bytes touches (R395, R396): a unit that takes a byte of a poisoned source
becomes poisoned; one that is written whole from a clean source loses its poison. -/
def markUnits (tm : Nat) (loc : Loc) (n : Nat) (bad : Nat → Bool) (s : State) : State :=
  let (u, a) := poisonUnit loc
  (List.range ((a + n - 1) / u + 1 - a / u)).foldl (fun s j =>
    let lo := (a / u + j) * u
    let first := lo - a
    let hit := (List.range (lo + u - a - first)).any (fun i => decide (first + i < n) && bad (first + i))
    if hit then setPoison tm (loc.plus first) 1 true s
    else if a ≤ lo && lo + u ≤ a + n then setPoison tm (loc.plus first) 1 false s
    else s) s

/-- An engine's plain write of bytes at a place. -/
def engPut (tm : Nat) (loc : Loc) (bs : List Byte) (bad : Nat → Bool) (s : State) : State :=
  if bs.isEmpty then s else markUnits tm loc bs.length bad (writeList tm loc bs s)

/-- The bit that a treatment gives a destination word: FE 1 copies the source word's bit, 2 fills, 3 empties (R183). -/
def feBitOf (fe : Nat) (src : Bool) : Bool := if fe = 1 then src else fe == 2

/-- The destination words of a copy with FE other than keep, each in one step with its bit and the wakes of a change (R252). -/
def feWords (c tm : Nat) (fe : Nat) (va : Nat) (loc : Loc) (bits : Nat → Bool) : List Nat → State → State
  | [], s => s
  | k :: l, s =>
    let w := loc.plus (8 * k)
    let b := feBitOf fe (bits k)
    let s1 := writeFe tm w b s
    feWords c tm fe va loc bits l (if readFe s tm w == b then s1 else wake c tm (va + 8 * k) w s1)

/-- An engine's write of bytes under its full/empty treatment (R183, R252): each word's data and bit change together. -/
def engWrite (c tm fe va : Nat) (loc : Loc) (bs : List Byte) (bits bad : Nat → Bool) (s : State) : State :=
  let s1 := engPut tm loc bs bad s
  releaseBarw tm (if fe = 0 then s1 else feWords c tm fe va loc bits (List.range (bs.length / 8)) s1)

/-! ### The next run of an operation -/

/-- The bytes up to the next 64 KiB boundary, within which a page is contiguous. -/
def toBoundary (a : DWord) : Nat := 65536 - a.toNat % 65536

/-- The address of byte o of a gather's destination, with the row of that byte and its place in the row (R186). -/
def gatherRow (rowbytes o : Nat) : Nat × Nat := if rowbytes = 0 then (0, 0) else (o / rowbytes, o % rowbytes)

/-- The bytes of a 64-bit pattern at an address (R185). -/
def patternBytes (p a : DWord) (n : Nat) : List Byte := (List.range n).map (fun i => p.extractLsb' (8 * ((a.toNat + i) % 8)) 8)

/-- An engine operation's permission need at its destination (R178, R252). -/
def engDstKind (fe : Nat) : AccKind := if fe = 0 then .wr else .feWrite

/-- An engine operation's permission need at its source. -/
def engSrcKind (fe : Nat) : AccKind := if fe = 1 then .feRead else .rd

/-- What the source of a run gives: its bytes, its full/empty bits and its poison; or why it gives nothing. -/
inductive Fetched where
  | run (bs : List Byte) (bits : List Bool) (bad : List Bool)
  | stop (r : Reach)
  | wait
  deriving DecidableEq, Repr

/-- The n bytes of a local place, with the bits of their words and the poison of each byte. -/
def fetchBytes (tm : Nat) (loc : Loc) (n : Nat) (s : State) : Fetched :=
  .run ((List.range n).map (fun i => readByte s tm loc i))
    ((List.range ((n + 7) / 8)).map (fun k => readFe s tm (loc.plus (8 * k))))
    ((List.range n).map (fun i => isPoisoned s tm (loc.plus i) 1))

/-- The bytes at a source address (R178, R181). -/
def fetchSource (x : EngOp) (a : DWord) (n : Nat) (s : State) : Fetched × State :=
  match reach x a n (engSrcKind x.fe) s with
  | (.at va loc, s1) => (if earlierTouch x va loc n s1 then .wait else fetchBytes x.team loc n s1, s1)
  | (r, s1) => (.stop r, s1)

/-- A gather's row and index list are local: a pod address among them fails PROTECT (R186). -/
def localOnly (s : State) (a : DWord) : Option Reach :=
  match addrForm s a with
  | .pod _ _ => some (.bad .protect a)
  | .badForm | .noPackage | .window _ | .plain _ => none

/-- The index of a row of a gather (R181, R186): its value, the poison it meets, or why it cannot be read. -/
def gatherIndex (x : EngOp) (index : DWord) (wide : Bool) (row : Nat) (s : State) : (Nat × Option DWord ⊕ Reach) × State :=
  let z := if wide then 8 else 4
  let a := index + dw (row * z)
  match localOnly s a with
  | some r => (.inr r, s)
  | none => match reach x a z .rd s with
    | (.at va loc, s1) =>
      if earlierTouch x va loc z s1 then (.inr .wait, s1)
      else (.inl (readBytes s1 x.team loc z, if isPoisoned s1 x.team loc z then some (poisonLocator loc) else none), s1)
    | (r, s1) => (.inr r, s1)

/-- The source address of byte o of a copy or a gather, and how many bytes of it lie together; a poisoned index ends in the failure
POISON (R180). -/
def sourceAddr (x : EngOp) (o : Nat) (s : State) : (DWord × Nat ⊕ Reach) × State :=
  match x.kind with
  | .gather index _ rowbytes pitch wide =>
    let (row, col) := gatherRow rowbytes o
    match gatherIndex x index wide row s with
    | (.inl (_, some a), s1) => (.inr (.bad .poison a), s1)
    | (.inl (v, none), s1) =>
      let a := x.src + dw v * pitch + dw col
      (match localOnly s1 a with | some r => .inr r | none => .inl (a, rowbytes - col), s1)
    | (.inr r, s1) => (.inr r, s1)
  | _ => (.inl (x.src + dw o, x.size - o), s)

/-- A length of bytes cut to whole words under a full/empty treatment. -/
def cutRun (fe n : Nat) : Nat := if fe = 0 then n else if n < 8 then 8 else n / 8 * 8

/-- The m bytes of a word of a gather that starts at offset o, row by row; its bit is that of the word of its first byte. -/
def gatherWord (x : EngOp) (o m : Nat) : Nat → Fetched → State → Fetched × State
  | 0, acc, s => (acc, s)
  | n + 1, .run bs bits bad, s =>
    if m ≤ bs.length then (.run bs (bits.take 1) bad, s)
    else match sourceAddr x (o + bs.length) s with
      | (.inr r, s1) => (.stop r, s1)
      | (.inl (a, len), s1) =>
        match fetchSource x a (min (min (m - bs.length) len) (toBoundary a)) s1 with
        | (.run cs cits cad, s2) => gatherWord x o m n (.run (bs ++ cs) (bits ++ cits) (bad ++ cad)) s2
        | (f, s2) => (f, s2)
  | _ + 1, f, s => (f, s)

/-- The bytes from offset o of an operation up to the end of the destination word there (R261), or of the operation. -/
def wordRest (x : EngOp) (o : Nat) : Nat := min (x.size - o) (8 - (x.dst.toNat + o) % 8)

/-- The m bytes from offset o on, cut to the end of a destination word unless they are the operation's last (R179, R261); where they reach the end of
a 64-byte unit of poison, cut to the end of one, so that an engine writes such a unit whole (R395). -/
def cutWord (x : EngOp) (o m : Nat) : Nat :=
  let tail := (x.dst.toNat + o + m) % 64
  if o + m = x.size then m else if tail < m then m - tail else m - tail % 8

/-- The bytes of a gather from offset o on, word by word, at least m of them; k bounds the number of words. -/
def gatherWords (x : EngOp) (o m : Nat) : Nat → Fetched → State → Fetched × State
  | 0, acc, s => (acc, s)
  | k + 1, .run bs bits bad, s =>
    if m ≤ bs.length then (.run bs bits bad, s)
    else match gatherWord x (o + bs.length) 8 16 (.run [] [] []) s with
      | (.run cs cits cad, s1) => gatherWords x o m k (.run (bs ++ cs) (bits ++ cits) (bad ++ cad)) s1
      | (f, s1) => (f, s1)
  | _ + 1, f, s => (f, s)

/-- The bytes of an operation from offset o on, at most n and up to a page's end. -/
def sourceRun (x : EngOp) (o n : Nat) (s : State) : Fetched × State :=
  let left := min (max n 1) (x.size - o)
  match x.kind with
  | .fill p =>
    let m := cutRun x.fe left
    (.run (patternBytes p (x.dst + dw o) m) [] [], s)
  | .aread bs => (.run ((bs.drop o).take left) [] [], s)
  | .prefetch => (.run [] [] [], s)
  | .tile _ _ _ => (.wait, s)
  | .gather .. =>
    if x.fe ≠ 0 then gatherWords x o (cutRun x.fe left) left (.run [] [] []) s
    else match sourceAddr x o s with
    | (.inr r, s1) => (.stop r, s1)
    | (.inl (a, len), s1) => fetchSource x a (min (min left len) (toBoundary a)) s1
  | .copy =>
    match sourceAddr x o s with
    | (.inr r, s1) => (.stop r, s1)
    | (.inl (a, len), s1) => fetchSource x a (cutRun x.fe (min (min left len) (toBoundary a))) s1

/-- The bytes that land in one step of a local operation, at most n: whole words of the destination in one page (R179, R261). -/
def stepLength (x : EngOp) (n : Nat) : Nat :=
  cutWord x x.landed (min (min (max n (wordRest x x.landed)) (x.size - x.landed)) (toBoundary (x.dst + dw x.landed)))

/-- The bytes from offset o of a copy or a gather on, at least m of them: each 8-byte word of the source is read whole, so that up to 7
bytes more are read (R179, R271); k bounds the number of reads. -/
def readWords (x : EngOp) (o m : Nat) : Nat → Fetched → State → Fetched × State
  | 0, acc, s => (acc, s)
  | k + 1, .run bs bits bad, s =>
    if m ≤ bs.length then (.run bs bits bad, s)
    else match sourceAddr x (o + bs.length) s with
      | (.inr r, s1) => (.stop r, s1)
      | (.inl (a, len), s1) =>
        let need := m - bs.length
        let whole := need + (8 - (a.toNat + need) % 8) % 8
        match fetchSource x a (min (min whole len) (toBoundary a)) s1 with
        | (.run cs cits cad, s2) => readWords x o m k (.run (bs ++ cs) (bits ++ cits) (bad ++ cad)) s2
        | (f, s2) => (f, s2)
  | _ + 1, f, s => (f, s)

/-- The next bytes of a local operation, at least those of one step where there are so many (R179, R261). -/
def localRun (x : EngOp) (n : Nat) (s : State) : Fetched × State :=
  let m := stepLength x n
  match x.kind with
    | .copy => readWords x x.landed m (m + 1) (.run (x.ahead.map (·.1)) [] (x.ahead.map (·.2))) s
    | .gather .. => if x.fe ≠ 0 then sourceRun x x.landed m s else readWords x x.landed m (m + 1) (.run (x.ahead.map (·.1)) [] (x.ahead.map (·.2))) s
    | _ => sourceRun x x.landed m s

/-! ### Landing -/

/-- Records why an operation cannot go on (R178, R180, R300): an absent page is reported and waited for, a failure is kept for
ENGINE_FAILURE, and so is a place in another package that no parcel reaches (log entry 83); a denied window of the issuing package
is a remote failure. -/
def engStop (x : EngOp) (k : AccKind) (r : Reach) (s : State) : State :=
  match r with
  | .absent va p => reportFault x.ctx va k 1 0 p (modEngine x.id (fun y => { y with held := some va }) s)
  | .bad c a => modEngine x.id (fun y => { y with fail := some (c, a) }) s
  | .denied =>
    let s1 := modEngine x.id (fun y => { y with fail := some (.remoteDenied, y.dst) }) s
    match x.gid with | some gid => remoteFail gid x.id .remoteDenied x.dst s1 | none => s1
  | .far p off => modEngine x.id (fun y => { y with fail := some (.protect, podAddr p off) }) s
  | .at _ _ => s
  | .wait => s

/-- Counts a copy through the issuing package's own window as arrived once all its bytes have landed (R193). -/
def arriveOwn (x : EngOp) (s : State) : State :=
  match x.chan with
  | none => s
  | some c =>
    let y := getCtx s x.ctx
    let k := pkgId s * 256 + c
    setCtx x.ctx { y with arrivals := Sparse.set 0 y.arrivals k (Sparse.get 0 y.arrivals k + 1) } s

/-- The bytes of an operation that have just landed (R183, R193): pending bytes fall, and the last ones are an arrival. -/
def landed (x : EngOp) (n : Nat) (s : State) : State :=
  let s1 := modEngine x.id (fun y => { y with landed := y.landed + n, held := none }) s
  let s2 := match x.bind with | some off => landPend x.team off n s1 | none => s1
  if x.landed + n = x.size then arriveOwn x s2 else s2

/-- Lands the first m bytes of a run at its destination, up to a page's end; what has been read beyond them is kept (R179). -/
def landRun (x : EngOp) (n : Nat) (bs : List Byte) (bits bad : List Bool) (s : State) : State :=
  let a := x.dst + dw x.landed
  let m := min (min n bs.length) (toBoundary a)
  match reach x a m (engDstKind x.fe) s with
  | (.at va loc, s1) =>
    if earlierTouch x va loc m s1 then s1
    else modEngine x.id (fun y => { y with ahead := if x.fe = 0 || x.remote then (bs.zip bad).drop m else [], bits := y.bits.drop (m / 8) })
      (landed x m (engWrite x.ctx x.team x.fe va loc (bs.take m) (fun k => bits.getD k true) (fun i => bad.getD i false) s1))
  | (r, s1) => engStop x (engDstKind x.fe) r s1

/-- An engine operation by its number. -/
def findEng (e : Nat) (s : State) : Option EngOp := s.engines.find? (fun x => x.id == e)

/-- How many of the bytes that have come back for a pull can land: whole words of the destination, or the last of the operation (R179,
R261). -/
def arrivedLength (x : EngOp) : Nat :=
  let n := x.ahead.length
  if x.landed + n = x.size then n else n - min n ((x.dst.toNat + x.landed + n) % 8)

/-- The data of a pull lands as far as its pages and the earlier accesses of its group let it (R178, R181, R184); k bounds the pieces. -/
def landArrived (e : Nat) : Nat → State → State
  | 0, s => s
  | k + 1, s =>
    match findEng e s with
    | none => s
    | some x =>
      if arrivedLength x = 0 || x.fail.isSome || x.held.isSome || !x.remote then s
      else
        let s1 := landRun x (arrivedLength x) (x.ahead.map (·.1)) x.bits (x.ahead.map (·.2)) s
        match findEng e s1 with
        | some y => if y.landed = x.landed then s1 else landArrived e k s1
        | none => s1

/-- Whether an entry is the request of a pull (R184). -/
def isPull (b : Barrow) : Bool := match b.rcd.kind with | .pull _ _ => true | _ => false

/-- A pull whose data have all landed: its entry is answered (R290). -/
def settlePull (e : Nat) (s : State) : State :=
  match findEng e s, s.barrow.find? (fun b => b.copy == some e && isPull b) with
  | some x, some b => if x.remote && x.landed == x.size then answerEntry b (modEngine e (fun y => { y with remote := false }) s) else s
  | _, _ => s

/-- The data that have come back for a pull land (R184). -/
def pullLands (e : Nat) (s : State) : State := settlePull e (landArrived e 4 s)

/-- The address of element (i, j) of a mover, and whether it lies in the follower's scratchpad (R204). -/
def moverAddr (o : TileOp) (scr : Bool) (i j : Nat) : DWord × Bool :=
  let far := scr && decide (128 ≤ j)
  (o.base + dw (i * o.pitch + moverSize o * (if far then j - 128 else j)), far)

/-- The follower's place of a scratchpad place. -/
def Loc.onFollower : Loc → Loc
  | .scr _ off => .scr true off
  | .dev pa => .dev pa
  | .host ha => .host ha
  | .pod p off => .pod p off

/-- The address of a mover's element by its number in the order of its rows, and whether it lies in the follower's scratchpad. -/
def elemPlace (o : TileOp) (s : State) (e : Nat) : DWord × Bool :=
  moverAddr o (match addrForm s o.base with | .window _ => true | _ => false) (e / o.n) (e % o.n)

/-- The aligned 8-byte word of a mover's element, the leader's scratchpad before the follower's. -/
def elemWord (o : TileOp) (s : State) (e : Nat) : Nat :=
  let a := elemPlace o s e
  (if a.2 then 2 ^ 64 else 0) + a.1.toNat / 8

/-- A pair in its place in a list that rises by first components, before those that have the same. -/
def insertPair (p : Nat × Nat) : List (Nat × Nat) → List (Nat × Nat)
  | [] => [p]
  | q :: l => if p.1 ≤ q.1 then p :: q :: l else q :: insertPair p l

/-- The elements of a mover in the order in which they move: by the aligned 8-byte word in which they lie, those of one word together (R179,
R261). -/
def moverOrder (o : TileOp) (s : State) : List Nat :=
  (((List.range (o.m * o.n)).map (fun e => (elemWord o s e, e))).foldr insertPair []).map (·.2)

/-- The number of the element that a mover moves as its k-th. -/
def moverElem (o : TileOp) (s : State) (k : Nat) : Nat := (moverOrder o s).getD k 0

/-- The place of the element that a mover moves as its k-th. -/
def moverPlace (o : TileOp) (s : State) (k : Nat) : DWord × Bool := elemPlace o s (moverElem o s k)

/-- Whether two of a mover's elements lie in one aligned word of u bytes. -/
def sameMoverWord (o : TileOp) (s : State) (u e f : Nat) : Bool :=
  let a := moverPlace o s e
  let b := moverPlace o s f
  a.2 == b.2 && a.1.toNat / u == b.1.toNat / u

/-- The elements of a mover from number e on that move in one step: k of them, and the rest of the word of u bytes in which they end (R179,
R204, R261); fuel bounds their number. -/
def moverCount (o : TileOp) (s : State) (u e k : Nat) : Nat → Nat
  | 0 => 0
  | fuel + 1 =>
    if o.m * o.n ≤ e then 0
    else if k = 0 && !sameMoverWord o s u (e - 1) e then 0
    else moverCount o s u (e + 1) (k - 1) fuel + 1

/-- Element e of a mover moves (R204, R396): TLDA's into what it has staged, TSTA's and TCVT's out of it. -/
def moverOne (x : EngOp) (tm k : Nat) (o : TileOp) (va : Nat) (loc : Loc) (e : Nat) (s : State) : State :=
  let sz := moverSize o
  match o.kind with
  | .load =>
    let v := (wd (readBytes s tm loc 4), isPoisoned s tm loc 4)
    landed x sz (modHead tm k (fun y => { y with staged := (y.staged ++ List.replicate (o.m * o.n - y.staged.length) (0, false)).set e v }) s)
  | _ =>
    let v := o.staged.getD e (0, false)
    landed x sz (engWrite x.ctx tm 0 va loc (bytesLE sz v.1.toNat) (fun _ => true) (fun _ => v.2) s)

/-- Elements of a mover, one after another, up to one whose page is absent or fails; before it acts on a word, every earlier access of the
group to that word is performed (R181). -/
def moverRun (e tm k : Nat) (o : TileOp) : Nat → State → State
  | 0, s => s
  | c + 1, s =>
    match s.engines.find? (fun x => x.id == e) with
    | none => s
    | some x =>
      let i := x.landed / moverSize o
      let a := moverPlace o s i
      let acc := match o.kind with | .load => .rd | _ => engDstKind 0
      match reach x a.1 (moverSize o) acc s with
      | (.at va loc0, s1) =>
        let loc := if a.2 then loc0.onFollower else loc0
        if earlierTouch x (va / 8 * 8) (loc.minus (va % 8)) 8 s1 then s1
        else moverRun e tm k o c (moverOne x tm k o va loc (moverElem o s i) s1)
      | (r, s1) => engStop x acc r s1

/-- Whether the elements of a mover from number lo up to hi write every byte of the unit of u bytes at an address, with no poison among what they
write there (R395). -/
def moverFills (o : TileOp) (s : State) (u lo hi : Nat) (far : Bool) (at_ : Nat) : Bool :=
  let mine := ((List.range (hi - lo)).map (fun i => (moverPlace o s (lo + i), o.staged.getD (moverElem o s (lo + i)) (0, false)))).filter (fun e =>
    e.1.2 == far && decide (at_ < e.1.1.toNat + moverSize o) && decide (e.1.1.toNat < at_ + u))
  !mine.any (fun e => e.2.2) && (List.range u).all (fun b => mine.any (fun e =>
    decide (e.1.1.toNat ≤ at_ + b) && decide (at_ + b < e.1.1.toNat + moverSize o)))

/-- The units of poison that a mover's elements from number lo up to hi have written whole from clean elements lose their poison (R395). -/
def clearUnits (x : EngOp) (tm : Nat) (o : TileOp) (lo hi : Nat) (s : State) : State :=
  (List.range (hi - lo)).foldl (fun s i =>
    let a := moverPlace o s (lo + i)
    match reach x a.1 1 (engDstKind 0) s with
    | (.at va loc0, s1) =>
      let loc := if a.2 then loc0.onFollower else loc0
      let u := (poisonUnit loc).1
      if moverFills o s u lo hi a.2 (va / u * u) then setPoison tm loc 1 false s1 else s1
    | (_, s1) => s1) s

/-- The next elements of a mover, about n bytes of them, in whole words, and in whole units of poison where they are so many (R204, R395, R396). -/
def moverStep (x : EngOp) (tm k : Nat) (o : TileOp) (n : Nat) (s : State) : State :=
  let lo := x.landed / moverSize o
  let s1 := moverRun x.id tm k o (moverCount o s (if n < 64 then 8 else 64) lo (max (n / moverSize o) 1) (o.m * o.n)) s
  match o.kind, s1.engines.find? (fun y => y.id == x.id) with
  | .load, _ => s1
  | _, some y => clearUnits x tm o lo (y.landed / moverSize o) s1
  | _, none => s1

/-- The next n bytes of a local operation land. -/
def engStep (x : EngOp) (n : Nat) (s : State) : State :=
  match x.kind with
  | .prefetch => landed x (x.size - x.landed) s
  | .tile tm k id =>
    match findTile s tm k id with
    | some o => if moverMoves s tm k o then moverStep x tm k o n s else s
    | none => s
  | _ =>
    match localRun x n s with
    | (.run bs bits bad, s1) => landRun x (stepLength x n) bs bits bad s1
    | (.stop r, s1) => engStop x (engSrcKind x.fe) r s1
    | (.wait, s1) => s1

/-- Whether an operation still has bytes to land on this package. -/
def engRunning (x : EngOp) : Bool := x.fail.isNone && !x.remote && decide (x.landed < x.size)

/-! ### The landing word -/

/-- Whether an operation's landing word is still to be filled (R183). -/
def fillDue (x : EngOp) : Bool :=
  x.fail.isNone && !x.remote && x.landed == x.size && x.land.isSome && !x.filled && !x.parked

/-- The fill of a landing word: STFL of the size, parking without a budget where the word is full (R183, R433). -/
def engFill (x : EngOp) (a : DWord) (s : State) : State :=
  match reach x a 8 .feWrite s with
  | (.at va loc, s1) =>
    if loc.isHost then engStop x .feWrite (.bad .feSpace a) s1
    else if isPoisoned s1 x.team loc 8 then engStop x .feWrite (.bad .poison (poisonLocator loc)) s1
    else if earlierTouch x va loc 8 s1 then s1
    else match feAttempt .stfl x.ctx x.team va loc (dw x.size) s1 with
      | some (_, s2) => releaseBarw x.team (modEngine x.id (fun y => { y with filled := true, held := none }) s2)
      | none =>
        let (id, s2) := freshId s1
        let w : FeWait := { id := id, ctx := x.ctx, team := x.team, who := .engine x.id, kind := .stfl, va := dw va, loc := loc,
                            data := dw x.size, spins := 0, limit := 0, mode := .spin 0, since := none, tried := s.time, entry := none }
        parkWait w (modEngine x.id (fun y => { y with parked := true, held := none }) s2)
  | (r, s1) => engStop x .feWrite r s1

/-- ENGINE_LANDING_FILL (R183). -/
def execEngineLandingFill (e : Nat) (s : State) : Result :=
  match findEng e s with
  | some x => match x.land with
    | some a => if fillDue x && engineMayAct x s then .next (engFill x a s) else .next s
    | none => .next s
  | none => .next s

/-- Whether an operation has done all it does (R179, R183). -/
def engDone (x : EngOp) : Bool := x.fail.isNone && x.landed == x.size && (x.land.isNone || x.filled)

/-- Releases an operation's ranges and forgets it (R180, R254). -/
def dropEngine (e : Nat) (s : State) : State :=
  { s with engines := s.engines.filter (fun x => x.id != e), locks := s.locks.filter (fun k => k.eng != e) }

/-- C falls (R40), and the waits that this ends. -/
def dropC (gid : Nat) (s : State) : State := settleGroup gid (modGroup gid (fun g => progress { g with cntC := g.cntC - 1 }) s)

end Sys2Proof.Machine
end

