-- ==== Sys2Proof/Machine/Schedule.lean ====
section
/-! DEFINITION. What the next step does (R222, R228, R229, log entry 5): the event due next, the instruction of a Ready strand,
or an event that the package brings about by itself; and what every step does besides: the signature (R401), the timers and
the passage of time. -/

namespace Sys2Proof.Machine

/-- The registers that a load or an atomic of a group has still to write (R157), those of a waiting LDWT or LDCN among them (DEDUCED, log entry
107). -/
def awaited (g : Group) : List Nat :=
  (g.outs.filter (fun o => o.ret && o.d < 0xF0 && o.lanes.any (fun l => !l.done))).flatMap (fun o =>
    (List.range ((o.z + 3) / 4)).map (fun k => o.d + k))

/-- Whether an instruction reads or writes a register that still awaits a load (R157); CALL and CALLR write v238:v239 (R112). -/
def waitsForLoad (i : Instr) (g : Group) : Bool :=
  (operandsOf i g).any (fun o => o.code.toNat < 0xF0 &&
    (List.range o.span).any (fun k => (awaited g).contains (effReg g o + k))) ||
  (match i with
    | .call _ => (awaited g).contains 238 || (awaited g).contains 239
    | .callr _ => (awaited g).contains 238 || (awaited g).contains 239
    | _ => false)

/-- A strand of a group at the issue position; the strand there takes its place among the others. -/
def withStrand (t : Strand) (g : Group) : Group :=
  if g.strand == t then g else
    { g with strand := t, rest := (if g.strand.mask = 0 then [] else [g.strand]) ++ g.rest.erase t }

/-- The instruction at a strand's PC, where its word can be fetched. -/
def nextInstr (t : Strand) (g : Group) (s : State) : Option Instr :=
  match (fetchAt t.pc { s with cur := withStrand t g }).1 with
  | .word w => some (decode w)
  | .trap _ => none
  | .held _ => none
  | .poison _ => none

/-- The strands that a branch would make of the issuing strand's lanes beside itself (R111, R113). -/
def splitSets (i : Instr) (s : State) : List (DWord × Mask) :=
  match i with
  | .br n p o =>
    let t := takenLanes n p s.cur
    if t = 0 || t = activeLanes s.cur then [] else [(fjTarget s.cur.strand.pc o, t)]
  | .jmpr a => if (targetAlign s ((rdOp 1 a).pair true)).isSome then [] else (targetSets s ((rdOp 1 a).pair true)).drop 1
  | _ => []

/-- Whether every strand of the split at which a strand is held finds a place now (R225). -/
def splitFits (g : Group) (s : State) (t : Strand) (i : Instr) : Bool :=
  let s1 := { s with cur := withStrand t g }
  (placeStrands 0 s1.cur (splitSets i s1)).isSome

/-- Whether a live strand is Ready (R222); one held at a split is, once every strand of the split finds a place (R225), and one held at
a FORK, once it is the group's only strand and the counters are 0 (R191). -/
def strandReady (g : Group) (s : State) (t : Strand) : Bool :=
  t.mask != 0 && (t.pend == 0 || t.replay.isSome) && (!g.inTrap || t.hand) &&
  (match t.hold with
    | .none => true
    | .split => (match nextInstr t g s with | some i => splitFits g s t i | none => true)
    | .forkGather _ => strandCount g == 1 && t.mask == residentLanes g && countersZero g
    | _ => false) &&
  (match nextInstr t g s with | some i => !waitsForLoad i g | none => true)

/-- Whether a group issues at all: resident, not stopped, stalled, waiting or parked, and its gang not aborting (R40, R119, R213,
R404). -/
def groupIssues (s : State) (g : Group) : Bool :=
  g.live && !g.stopped && !g.parked && !stallStands s g && !groupWaits g &&
  !(match g.region with | some r => r.failing.isSome | none => false) &&
  !(match g.idemr with | some r => r.due.isSome | none => false) && (getGang s g.gang).status != .aborting &&
  (getTeam s g.team).status == .running

/-- The strand of the lowest PC. -/
def lowestPc : List Strand → Option Strand
  | [] => none
  | t :: l => match lowestPc l with
    | some u => if u.pc.toNat < t.pc.toNat then some u else some t
    | none => some t

/-- The strands of a list that do not wait in the collector for a source (R220, R222); where all of them would, time has passed and none
does. -/
def notCollecting (s : State) (l : List Strand) : List Strand :=
  match l with
  | [] => []
  | [t] => [t]
  | l => let r := l.filter (fun t => !Config.sourceWaits s.steps t.pc.toNat)
    if r.isEmpty then l else r

/-- Whether a strand of a group has aged: 4,096 cycles without an issue of its own, while another issued (R228). -/
def agedAt (s : State) (g : Group) (t : Strand) : Bool :=
  decide (t.issued + 4096 ≤ clkAt s g) && (liveStrands g).any (fun u => decide (t.issued < u.issued))

/-- The candidate of a group (R228): a strand that has aged, else the Ready strand with the lowest PC. -/
def candidate (s : State) (g : Group) : Option Strand :=
  if !groupIssues s g then none
  else
    let rs := (liveStrands g).filter (strandReady g s)
    match (g.aged.bind (fun pc => rs.find? (fun t => t.pc == pc))).or (rs.find? (agedAt s g)) with
    | some t => some t
    | none => lowestPc (notCollecting s rs)

/-- The cycle of its core at which a group became starved: its candidate had been Ready for 64 cycles (R228). -/
def starvedAt (s : State) (g : Group) : Option Nat :=
  g.starved.or (if 64 ≤ g.waited then some (clkAt s g + 64 - g.waited) else none)

/-- The groups that may issue: in a quarter with starved groups, the one that starved first (R228). -/
def issueChoices (s : State) : List Group :=
  let cs := (groups s).filter (fun g => (candidate s g).isSome)
  cs.filter (fun g => !cs.any (fun h => h.part == g.part && h.core == g.core && h.quarter == g.quarter &&
    (match starvedAt s h, starvedAt s g with
      | some a, some b => decide (a < b)
      | some _, none => true
      | none, _ => false)))

/-- The group that issues; among several, a free choice (R228, R229, log entry 4). -/
def chooseGroup (s : State) : Option Group :=
  match issueChoices s with
  | [] => none
  | [g] => some g
  | g :: l => some ((g :: l).getD (Config.pickGroup s.steps % (l.length + 1)) g)

/-- What a step does: run an instruction or an event in a state, or end in a state. -/
inductive Plan where
  | run (i : Instr) (s : State)
  | done (s : State)
  deriving DecidableEq, Repr

/-- The issuing strand with a split's hold lifted; a stall of the group has ended (R40, R289). -/
def noteTurn (g : Group) : Group := { g with strand := { g.strand with hold := .none }, stall := none }

/-! ### Merging -/

/-- Whether a strand may merge (R227): it has no pending lanes, and it is not held at a split. -/
def mergeable (t : Strand) : Bool := t.mask != 0 && t.pend == 0 && t.replay.isNone && t.hold != .split

/-- Whether the issue stage considers a strand: it is not held, but for one that gathers its group at a FORK (R191, R227). -/
def considered (t : Strand) : Bool := match t.hold with | .none => true | .forkGather _ => true | _ => false

/-- The first strand of a list that stands where a strand stands and may merge with it, where the issue stage considers one of them. -/
def mergePartner (t : Strand) (l : List Strand) : Option Strand :=
  if mergeable t then
    l.find? (fun u => u.pc == t.pc && u.hand == t.hand && mergeable u && u.mask != t.mask && (considered t || considered u))
  else none

/-- The first pair of live strands that merge (R227), the one with the lower lowest lane first. -/
def mergePair : List Strand → Option (Strand × Strand)
  | [] => none
  | t :: l =>
    match mergePartner t l with
    | some u => if (lowestLane t.mask).getD 128 < (lowestLane u.mask).getD 128 then some (t, u) else some (u, t)
    | none => mergePair l

/-- The live strands that may be considered: the handler's while it runs (R47). -/
def consideredStrands (g : Group) : List Strand := (liveStrands g).filter (fun t => !g.inTrap || t.hand)

/-! ### The turn -/

/-- The turn of a group's candidate: its merge with a strand at the same PC (R227), a failure of an engine operation that waits to be
reported (R180), the fetch's own trap or fault (R152, R356, R396), or the instruction. -/
def issueTurn (g : Group) (t : Strand) (s : State) : Plan :=
  if (mergePartner t (consideredStrands g)).isSome then .run (.strandMerge g.id) s else
  let s1 := modCur (fun g => noteTurn (withStrand t g)) (focus g.id s)
  match s1.cur.efails with
  | (c, v) :: l => .done (takeTrap (trapOf c v) (modCur (fun g => { g with efails := l }) s1))
  | [] =>
    match fetchAt s1.cur.strand.pc s1 with
    | (.word w, s2) => .run (decode w) s2
    | (.trap tr, s2) => .done (takeTrap tr s2)
    | (.held paged, s2) =>
      .done (modCur (holdStrand (clkOf s2) (.fault false s2.cur.strand.pc)) (reportFault s2.cur.ctx s2.cur.strand.pc.toNat .fetch 0 0 paged s2))
    | (.poison a, s2) => .done (consumePoison a s2)

/-- Whether an issued instruction is folded into the signature (R401), in the state in which it issues. -/
def foldsSignature (i : Instr) (g : Group) : Bool :=
  isWord i && strandCount g == 1 && !g.inTrap && g.strand.replay.isNone &&
  (match i with | .sigck _ => false | .gdiv _ => false | .gfuse _ _ => false | _ => true)

/-- Folds an instruction into a signature (R401). -/
def foldSig (i : Instr) (g : Group) : Group := { g with sig := rotl32 g.sig 5 ^^^ wd (opcodeOf i) }

/-- A group whose candidate has issued (R228): it is starved no longer, and its strands with lanes of the issuing one note the time. -/
def noteIssue (clk : Nat) (t : Strand) (g : Group) : Group :=
  { mapStrands (fun u => if u.mask &&& t.mask != 0 then { u with issued := clk } else u) g with
    starved := none, waited := 0, aged := if g.aged = some t.pc then none else g.aged }

/-- Whether a group's strand is held at the split at which it has issued: the branch is executed anew later (R225). -/
def heldAtSplit (t : Strand) (g : Group) : Bool :=
  (allStrands g).any (fun u => u.hold == .split && u.pc == t.pc && u.mask == t.mask)

/-- Whether a strand of a group is held at the instruction at which it has issued by a page of the instruction's own read, and so executes it
anew (R154, R186, R190, R192); a FORK is taken out of the signature where it is held. -/
def heldToRepeat (i : Instr) (t : Strand) (g : Group) : Bool :=
  (match i with | .fork _ => false | _ => true) &&
  (allStrands g).any (fun u => (match u.hold with | .fault _ _ => true | _ => false) && u.pc == t.pc && u.mask == t.mask)

/-- Whether an instruction that has trapped had issued, and is replayed for a mask, so that it counts now (R154, R401). -/
def trapReplays (before : State) (g : Group) : Bool := before.cur.replay.isNone && g.replay.isSome

/-- What follows an instruction that has not stalled: the time of issue (R228), and for one that has not trapped the signature and the
progress that its issue is (R401, R407), but for one held at its split; one that traps with a replay mask has been issued; before is the state in which
it issued. -/
def afterInstr (i : Instr) (before t : State) : State :=
  if isWord i && t.last != .stalled then
    modGroup before.cur.id (fun g =>
      let g1 := noteIssue (clkOf before) before.cur.strand g
      if t.last == .trapped then (if trapReplays before g1 && foldsSignature i before.cur then foldSig i g1 else g1)
      else if heldAtSplit before.cur.strand g1 then g1
      else progress (if foldsSignature i before.cur && !heldToRepeat i before.cur.strand g1 then foldSig i g1 else g1)) t
  else t

/-- Whether a barrow entry waits for a package that the pod health table marks recovering (R407, R408). -/
def entryRecovering (s : State) (p : Barrow → Bool) : Bool :=
  s.barrow.any (fun b => p b && Sparse.get 0 s.health b.dst == 1)

/-- Whether a strand's next instruction waits for a register that a remote load from a recovering package has still to write (R157, R407). -/
def loadRecovering (s : State) (g : Group) (t : Strand) : Bool :=
  (match nextInstr t g s with
    | some i => g.outs.any (fun o => waitsForLoad i { g with outs := [o] } && entryRecovering s (fun b => b.gid == some g.id && b.op == o.id))
    | none => false)

/-- Whether a strand waits for a package that is recovering (R407). -/
def waitsRecovering (s : State) (g : Group) (t : Strand) : Bool :=
  match t.hold with
  | .none => loadRecovering s g t
  | .op id => entryRecovering s (fun b => b.gid == some g.id && b.op == id)
  | .drain ids => entryRecovering s (fun b => ids.contains b.id)
  | .rcommit ids => entryRecovering s (fun b => ids.contains b.id)
  | .pbar c b e _ => s.episodes.any (fun x => x.ctx == c && x.bar == b && x.ep == e && x.members.any (fun m => Sparse.get 0 s.health m == 1))
  | _ => false

/-- Whether the progress timer of a group runs (R407). -/
def timerRuns (s : State) (g : Group) : Bool :=
  g.live && !g.parked && (getTeam s g.team).status == .running && !g.outs.any (fun o => o.lanes.any (fun l => l.held)) &&
  !(allStrands g).any (fun t => match t.hold with | .sleep _ => true | .fault _ _ => true | _ => waitsRecovering s g t) &&
  !s.waits.any (fun w => match w.who with
    | .lane gid _ _ => gid == g.id && (match w.mode with | .parked => true | .retry => true | .spin _ => false)
    | .remote _ => false
    | .engine _ => false
    | .tile _ _ => false)

/-- A core's cycle counter runs while the core is clocked (R45, R421); n is the step and k the core's key. -/
def tickCore (n k : Nat) (c : Core) : Core :=
  if c.clocked then { c with clk := c.clk + dw (Config.elapsedCycles n k) } else c

/-- The cycles for which a group's candidate has been Ready without issuing (R228). -/
def tickWaited (s : State) (g : Group) : Group :=
  if (candidate s g).isSome then { g with waited := g.waited + Config.elapsedCycles s.steps (coreKey g.part g.core) }
  else { g with waited := 0, starved := none }

end Sys2Proof.Machine
end

