-- ==== Sys2Proof/Machine/Engines.lean ====
section
/-! DEFINITION. The issue of the engine operations XCP, XFILL, XGATH, XPREF and AREAD (R177 to R187, R210), and the landing of
their bytes. -/

namespace Sys2Proof.Machine

/-- What an engine instruction asks for. lock is the length of its destination's range-lock entry. -/
structure EngReq where
  kind  : EngKind
  dst   : DWord
  src   : Option DWord
  index : Option (DWord × Nat)
  size  : Nat
  lock  : Nat
  fe    : Nat
  land  : Option DWord
  bind  : Option Nat
  relay : Bool
  deriving DecidableEq, Repr

/-- Where one side of an operation leads, as it is known at issue (R151, R152, R178): through a local address (own: by the issuing
package's window), to another package, or nowhere. -/
inductive Side where
  | loc (va : Nat) (own : Bool)
  | far (pkg : Nat)
  | denied
  deriving DecidableEq, Repr

/-- The side of an address of n bytes. -/
def sideOf (s : State) (addr : DWord) (n : Nat) : Side :=
  match addrForm s addr with
  | .pod p off =>
    if p = pkgId s then (match exportVa s s.cur.ctx off n with | some va => .loc va true | none => .denied) else .far p
  | .window _ => .loc addr.toNat false
  | .plain va => .loc va false
  | .badForm => .denied
  | .noPackage => .denied

/-- The checks of an address's form at issue (R178), and of the end of the scratchpad allocation (R179). -/
def addrTrap (s : State) (n : Nat) (addr : DWord) : Option Trap :=
  match addrForm s addr with
  | .badForm => some (trapOf .page addr)
  | .noPackage => some (trapOf .protect addr)
  | .window off => if s.cur.hdr.scratch < off + n then some (trapOf .protect addr) else none
  | .plain _ => none
  | .pod _ _ => none

/-- Whether an address names another package. -/
def isFar (s : State) (addr : DWord) : Bool := match podOf s addr with | some p => p != pkgId s | none => false

/-- Whether an address is mapped to host memory at issue (R184). -/
def onHost (s : State) (addr : DWord) (n : Nat) : Bool :=
  match sideOf s addr n with
  | .loc va _ =>
    decide (va < Config.window) && (match findLeaf s s.cur.ctx s.cur.part s.cur.core va with
      | .leaf l => l.mtype != .device
      | .absent _ => false
      | .broken => false)
  | .far _ => false
  | .denied => false

/-- The first of a list of addresses that is not a multiple of 8 (R183). -/
def alignTrap (l : List DWord) : Option Trap := (l.find? (fun a => a.toNat % 8 != 0)).map (trapOf .align)

/-- Whether two ranges of addresses share a byte; an empty range has none. -/
def rangesMeet (a n b m : Nat) : Bool := n != 0 && m != 0 && decide (a < b + m) && decide (b < a + n)

/-- RANGE_LOCK where the source and the destination share bytes (R184). -/
def overlapTrap (s : State) (r : EngReq) : Option Trap :=
  match r.kind, r.src with
  | .copy, some a =>
    match sideOf s a r.size, sideOf s r.dst r.size with
    | .loc x _, .loc y _ => if rangesMeet x r.size y r.size then some (trapOf .rangeLock r.dst) else none
    | _, _ => none
  | _, _ => none

/-- The checks of a landing word (R183). -/
def landTrap (s : State) (r : EngReq) (a : DWord) : Option Trap :=
  firstSome [
    if a.toNat % 8 ≠ 0 then some (trapOf .align a) else none,
    addrTrap s 8 a,
    if rangesMeet a.toNat 8 r.dst.toNat r.size ||
        (match r.kind, r.src with | .copy, some b => rangesMeet a.toNat 8 b.toNat r.size | _, _ => false) then
      some (trapOf .rangeLock a) else none,
    if (if isFar s r.dst then podOf s a != podOf s r.dst else isFar s a) then some (trapOf .protect a) else none]

/-- The checks of an engine operation at issue (R178, R179, R183, R184, R186), before any effect. -/
def engTrap (s : State) (r : EngReq) : Option Trap :=
  firstSome [
    match r.src with | some a => addrTrap s (match r.kind with | .copy => r.size | _ => 0) a | none => none,
    match r.index with | some (a, n) => addrTrap s n a | none => none,
    match r.kind with | .prefetch => none | _ => addrTrap s r.lock r.dst,
    match r.kind, r.src with
      | .copy, some a => if isFar s a && isFar s r.dst then some (trapOf .protect r.dst) else none
      | .gather .., some a => if (podOf s a).isSome then some (trapOf .protect a) else none
      | _, _ => none,
    match r.index with | some (a, _) => if (podOf s a).isSome then some (trapOf .protect a) else none | none => none,
    if r.fe = 0 then none
      else alignTrap ((match r.src with | some a => [a] | none => []) ++ [r.dst, r.dst + dw r.size]),
    if r.fe = 0 then none
      else ((match r.src with | some a => [a] | none => []) ++ [r.dst]).find? (fun a => onHost s a 1) |>.map (trapOf .feSpace),
    overlapTrap s r,
    match r.land with | some a => landTrap s r a | none => none,
    match r.bind with | some off => barrierTrap s.cur off | none => none]

/-! ### Entering an operation -/

/-- The range-lock entries of an operation (R179): its local destination, its local source of one run, its index list. -/
def engLocks (s : State) (id : Nat) (r : EngReq) : List RangeLock :=
  let g := s.cur
  let k := fun (a : DWord) (n : Nat) (dst : Bool) =>
    if (podOf s a).isSome then []
    else [{ eng := id, part := g.part, core := g.core, team := g.team, ctx := g.ctx, lo := a.toNat, len := n, dst := dst : RangeLock }]
  (match r.kind with | .prefetch => [] | _ => k r.dst r.lock true) ++
  (match r.kind, r.src with | .copy, some a => k a r.size false | _, _ => []) ++
  (match r.index with | some (a, n) => k a n false | none => [])

/-- The range-lock entries in use on the issuing core (R254). -/
def locksUsed (s : State) : Nat := coreLocks s.cur s

/-- The package that an operation's barrow entry is for: another package at its destination or its source (R184, R289). -/
def farPkg (s : State) (r : EngReq) : Option Nat :=
  match r.kind with
  | .prefetch => none
  | _ =>
    if isFar s r.dst then podOf s r.dst
    else match r.src with
      | some a => if isFar s a && r.size != 0 then podOf s a else none
      | none => none

/-- Whether a range of an operation overlaps a unit whose copy rounds have run (R359, step 3). -/
def meetsMigration (s : State) (l : List RangeLock) : Bool :=
  match (getCtx s s.cur.ctx).mig with
  | some m => !m.more && l.any (fun k => rangesMeet k.lo k.len m.va.toNat 65536)
  | none => false

/-- What an operation's group must wait for at issue (R179, R289, R359). -/
def engStall (s : State) (r : EngReq) : Option Stall :=
  if meetsMigration s (engLocks s 0 r) then some .moving
  else if 32 < locksUsed s + (engLocks s 0 r).length then some (.locks (engLocks s 0 r).length)
  else (farPkg s r).bind (fun p => barrowLack s [p])

/-- Whether an operation must wait at issue. -/
def engStalls (s : State) (r : EngReq) : Bool := (engStall s r).isSome

/-- The channel id under which an operation is counted (R184, R193). -/
def engChan (s : State) (r : EngReq) : Option Nat :=
  match r.kind with
  | .prefetch => none
  | _ => match podOf s r.dst with | some p => channelFor s.cur p | none => none

/-- Whether an operation closes an open idempotent region (R397). -/
def engCloses (s : State) (r : EngReq) : Bool :=
  match r.kind with
  | .prefetch => false
  | .aread _ => true
  | _ => r.fe != 0 || r.land.isSome || r.bind.isSome || (podOf s r.dst).isSome ||
      (match r.src with | some a => (podOf s a).isSome | none => false)

/-- The engine operation of a request. -/
def engOpOf (s : State) (id : Nat) (r : EngReq) : EngOp :=
  let g := s.cur
  { id := id, gid := some g.id, pkt := none, ctx := g.ctx, team := g.team, part := g.part, core := g.core, half := g.follower, kind := r.kind, dst := r.dst,
    src := r.src.getD 0, size := r.size, fe := r.fe, land := r.land, bind := r.bind,
    relay := r.relay && isFar s r.dst, chan := engChan s r, landed := 0, ahead := [], bits := [], edges := [], filled := false, parked := false, held := none,
    remote := (farPkg s r).isSome, fail := none }

/-- The offset of a pod address. -/
def podOff (a : DWord) : Nat := fieldD a 0 46

/-- The barrow entry of a copy to or from another package (R289): parcels of 64 KiB and a completion record, or one pull request. -/
def copyEntry (s : State) (x : EngOp) (p : Nat) (bid : Nat) : Barrow :=
  let g := s.cur
  let push := isFar s x.dst
  let rcd : OpRecord :=
    { src := pkgId s, ctx := x.ctx, part := x.part, core := g.core, slot := g.quarter * 32 + g.slot, lane := 0, tag := bid,
      kind := if push then .completion (x.land.map podOff) x.size else .pull x.size (BitVec.ofNat 2 x.fe),
      off := if push then podOff (x.land.getD 0) else podOff x.src, size := x.size, ty := 0, round := 0, data := BitVec.ofNat 512 x.size,
      data2 := 0, chan := if push then x.chan else none, spin := 0, park := 0, scope := 3 }
  { id := bid, dst := p, gid := some g.id, gang := some g.gang, op := x.id, rcd := rcd, copy := some x.id, sent := 0,
    total := if push then (x.size + 65535) / 65536 else 1, cur := none, gone := [], relayed := [], refused := [],
    since := (getPeer s p).slots, reply := !push, answered := false,
    doneQ := false }

/-- Enters an operation (R179, R183, R184, R289): its ranges, its barrow entry, C, the channel's count and the object it binds. -/
def enterEng (r : EngReq) (s : State) : State :=
  let (id, s1) := freshId s
  let x := engOpOf s id r
  let s2 := match farPkg s r with
    | some p =>
      let (bid, s2) := freshId s1
      { s2 with barrow := s2.barrow ++ [copyEntry s x p bid] }
    | none => s1
  let s3 := match r.bind with | some off => bindPend s.cur.team off r.size s2 | none => s2
  let s4 := if x.size = 0 && !x.remote then arriveOwn x s3 else s3
  modCur (fun g => { g with cntC := g.cntC + 1, ccnt := if x.chan.isSome then g.ccnt + 1 else g.ccnt,
                            idemr := if engCloses s r then none else g.idemr })
    { s4 with engines := s4.engines ++ [x], locks := s4.locks ++ engLocks s id r }

/-- The end of an engine instruction (R182): the next instruction, or under the yield flag the wait of CYLD to it. -/
def afterEng (yield : Bool) (s : State) : State :=
  if yield then modCur (groupHold (.cyld (s.cur.strand.pc + 4))) s else modCur nextPc s

/-- The issue of an engine operation after the checks of its own fields. -/
def engIssue (r : EngReq) (yield : Bool) (s : State) : Result :=
  orTrap (engTrap s r) (fun s =>
    if s.cur.cntC == 63 then stallCounter 2 s
    else match engStall s r with
      | some k => stallFor k s
      | none => .next (afterEng yield (enterEng r s))) s

/-! ### The flag word -/

/-- The checks of the size and flag word in a pair (R182). -/
def sizeTrap (s : State) (o : Opnd) (v : DWord) : Option Trap :=
  firstSome [
    if fieldD v 47 17 ≠ 0 then some (trapOf .reservedField (dw (effReg s.cur o + 1))) else none,
    if 2 ^ 40 < fieldD v 0 41 then some (trapOf .reservedField (dw (effReg s.cur o))) else none]

/-- An extension register (R182): declared, and U. -/
def extTrap (s : State) (r : Nat) : Option Trap :=
  if 0xF0 ≤ r || !declared s.cur r then some (trapOf .regIndex (dw r))
  else if (readReg s.cur r).isU then none
  else some (trapOf .shape (dw r))

/-- The extension registers that the flags of a word name (R182). -/
def extRegs (s : State) (o : Opnd) (v : DWord) : List Nat :=
  (if v.getLsbD 44 then [effReg s.cur o + 2, effReg s.cur o + 3] else []) ++ (if v.getLsbD 46 then [effReg s.cur o + 4] else [])

/-- Whether a register still awaits a load (R157). -/
def regAwaited (g : Group) (r : Nat) : Bool := (awaited g).contains r

/-- A U register's value. -/
def regWord (s : State) (r : Nat) : Word := (readReg s.cur r).lane 0

/-- The landing word of a flag word (R183). -/
def landOf (s : State) (o : Opnd) (v : DWord) : Option DWord :=
  if v.getLsbD 44 then some (pairOf (regWord s (effReg s.cur o + 2)) (regWord s (effReg s.cur o + 3))) else none

/-- The bound object of a flag word (R183). -/
def bindOf (s : State) (o : Opnd) (v : DWord) : Option Nat :=
  if v.getLsbD 46 then some (regWord s (effReg s.cur o + 4)).toNat else none

/-- XCP and XFILL after the checks of R77 (R182 to R185). -/
def copyBody (fill : Bool) (d a b : RegCode) (s : State) : Result :=
  let od := (rdOp 0 d).pair true
  let oa := (rdOp 1 a).pair true
  let ob := (rdOp 2 b).pair true
  let v := uPair s ob
  let fe := fieldD v 41 2
  orTrap (firstSome [mustBeU s od, mustBeU s oa, mustBeU s ob, sizeTrap s ob v,
      if fill && fe = 1 then some (trapOf .reservedField (dw (effReg s.cur ob + 1))) else none])
    (fun s =>
      if (extRegs s ob v).any (regAwaited s.cur) then stallIssue s
      else orTrap (firstSome ((extRegs s ob v).map (extTrap s))) (fun s =>
        let n := fieldD v 0 41
        engIssue
          { kind := if fill then .fill (uPair s oa) else .copy, dst := uPair s od, src := if fill then none else some (uPair s oa),
            index := none, size := n, lock := n, fe := fe, land := landOf s ob v, bind := bindOf s ob v,
            relay := !fill && v.getLsbD 43 } (v.getLsbD 45) s) s) s

/-- XCP (R184). -/
def execXcp (d a b : RegCode) (s : State) : Result := issueStrand (.xcp d a b) (copyBody false d a b) s

/-- XFILL (R185). -/
def execXfill (d a b : RegCode) (s : State) : Result := issueStrand (.xfill d a b) (copyBody true d a b) s

/-- XPREF (R187). -/
def execXpref (a b : RegCode) (s : State) : Result :=
  issueStrand (.xpref a b) (fun s =>
    let oa := (rdOp 1 a).pair true
    let ob := (rdOp 2 b).pair true
    let v := uPair s ob
    orTrap (firstSome [mustBeU s oa, mustBeU s ob,
        if fieldD v 41 23 ≠ 0 then some (trapOf .reservedField (dw (effReg s.cur ob + 1))) else none])
      (fun s => engIssue { kind := .prefetch, dst := 0, src := some (uPair s oa), index := none, size := fieldD v 0 41, lock := 0,
                           fe := 0, land := none, bind := none, relay := false } false s) s) s

/-! ### XGATH -/

/-- A field of a gather descriptor (R186). -/
def descField (bs : List Byte) (off n : Nat) : Nat := natLE ((bs.drop off).take n)

/-- Whether a gather descriptor keeps its table (R186). -/
def descLegal (bs : List Byte) : Bool :=
  let f := descField bs 0x18 8
  let wide := descField bs 0x2C 1
  decide (descField bs 0x08 4 ≤ 2 ^ 24) && decide (1 ≤ descField bs 0x0C 4) && decide (descField bs 0x0C 4 ≤ 2 ^ 20) &&
  bits f 0 41 == 0 && bits f 47 17 == 0 && decide (wide ≤ 1) && descField bs 0x2D 19 == 0 &&
  descField bs 0 8 % (if wide = 1 then 8 else 4) == 0 &&
  (f.testBit 44 || descField bs 0x20 8 == 0) && (f.testBit 46 || descField bs 0x28 4 == 0)

/-- The request that a gather descriptor describes. -/
def gatherReq (dst src : DWord) (bs : List Byte) : EngReq :=
  let f := descField bs 0x18 8
  let count := descField bs 0x08 4
  let rowbytes := descField bs 0x0C 4
  let wide := descField bs 0x2C 1 = 1
  let index := dw (descField bs 0 8)
  { kind := .gather index count rowbytes (dw (descField bs 0x10 8)) wide, dst := dst, src := some src,
    index := some (index, count * (if wide then 8 else 4)), size := count * rowbytes, lock := count * rowbytes, fe := bits f 41 2,
    land := if f.testBit 44 then some (dw (descField bs 0x20 8)) else none,
    bind := if f.testBit 46 then some (descField bs 0x28 4) else none, relay := f.testBit 43 }

/-- What the issuing group's own read of 64 bytes at an address gives. -/
inductive OwnRead where
  | bytes (l : List Byte)
  | trap (t : Trap)
  | held (va : Nat) (paged : Bool)
  | poison (addr : DWord)
  | wait
  deriving DecidableEq, Repr

/-- The issuing group's read of 64 bytes at a local address (R154, R186, R192, R396): it comes after its earlier accesses to them and
after every acquire and fence before it (R257, R266). At a pod address it traps PROTECT (DESIGN CHOICE, log entry 108). -/
def ownRead (addr : DWord) (s : State) : OwnRead × State :=
  let at_ := fun (loc : Loc) (s : State) =>
    (if agentTouch (some s.cur.id) s.nextId addr.toNat loc 64 s || !agentMayAct (some s.cur.id) s.nextId s then OwnRead.wait
      else if isPoisoned s s.cur.team loc 64 then .poison (poisonLocator loc)
      else .bytes ((List.range 64).map (fun i => readByte s s.cur.team loc i)), s)
  match addrForm s addr with
  | .badForm => (.trap (trapOf .page addr), s)
  | .noPackage => (.trap (trapOf .protect addr), s)
  | .pod _ _ => (.trap (trapOf .protect addr), s)
  | .window off => if s.cur.hdr.scratch < off + 64 then (.trap (trapOf .protect addr), s) else at_ (.scr s.cur.follower off) s
  | .plain va =>
    match translate s.cur.ctx s.cur.part s.cur.core va .rd s with
    | (.ok pa m, s1) => at_ (placeOf pa m) s1
    | (.absent p, s1) => (.held va p, s1)
    | (.page, s1) => (.trap (trapOf .page addr), s1)
    | (.protect, s1) => (.trap (trapOf .protect addr), s1)

/-- Goes on with 64 bytes that the issuing group reads: an absent page holds the strand, or the whole group where all holds, and the
instruction is executed again once the page is there (R154, R186); poison is consumed (R396). -/
def withOwnRead (all : Bool) (addr : DWord) (k : List Byte → State → Result) (s : State) : Result :=
  match ownRead addr s with
  | (.bytes l, s1) => k l s1
  | (.trap t, s1) => .next (takeTrap t s1)
  | (.held va p, s1) =>
    .next (modCur (if all then groupHold (.fault true (dw va)) else holdStrand (clkOf s1) (.fault false (dw va)))
      (reportFault s1.cur.ctx va .rd 0 0 p s1))
  | (.poison a, s1) => .next (consumePoison a (if all then s1 else modCur closeIdem s1))
  | (.wait, s1) => stallIssue s1

/-- XGATH (R186). -/
def execXgath (d a b : RegCode) (s : State) : Result :=
  issueStrand (.xgath d a b) (fun s =>
    let od := (rdOp 0 d).pair true
    let oa := (rdOp 1 a).pair true
    let ob := (rdOp 2 b).pair true
    let p := uPair s ob
    orTrap (firstSome [mustBeU s od, mustBeU s oa, mustBeU s ob,
        if p.toNat % 64 ≠ 0 then some (trapOf .align p) else none])
      (fun s => withOwnRead true p (fun bs s =>
        if descLegal bs then engIssue (gatherReq (uPair s od) (uPair s oa) bs) ((descField bs 0x18 8).testBit 45) s
        else .next (takeTrap (trapOf .reservedField (dw (effReg s.cur ob))) s)) s) s) s

/-! ### AREAD -/

/-- AREAD (R210): the heap is taken and emptied at issue, and the engine writes it. -/
def execAread (d a : RegCode) (s : State) : Result :=
  issueStrand (.aread d a) (fun s =>
    let h := uWord s (rdOp 0 d)
    let oa := (rdOp 1 a).pair true
    let dst := uPair s oa
    orTrap (firstSome [mustBeU s (rdOp 0 d), mustBeU s oa, if (auctionOf s h).isNone then some (auctionTrap h) else none,
        if dst.toNat % 8 ≠ 0 then some (trapOf .align dst) else none])
      (fun s => match auctionOf s h with
        | none => .next (takeTrap (auctionTrap h) s)
        | some x =>
          let bs := heapBytes x
          let r : EngReq := { kind := .aread bs, dst := dst, src := none, index := none, size := bs.length, lock := 8 + 8 * x.cap,
                              fe := 0, land := none, bind := none, relay := false }
          orTrap (engTrap s r) (fun s =>
            if s.cur.cntC == 63 then stallCounter 2 s
            else match engStall s r with
            | some k => stallFor k s
            | none => if auctionBusy s h then stallIssue s else .next (afterEng false (enterEng r (putAuction { x with heap := [] } s)))) s) s) s

/-! ### Landing -/

/-- ENGINE_BYTES_LAND (R178, R179, R183): up to n of the next bytes of operation e land. -/
def execEngineBytesLand (e n : Nat) (s : State) : Result :=
  match findEng e s with
  | some x =>
    if x.remote then .next (pullLands e s)
    else if engRunning x && engineMayAct x s then .next (engStep x n s) else .next s
  | none => .next s

end Sys2Proof.Machine
end

