-- ==== Sys2Proof/Machine/Matrix.lean ====
section
/-! DEFINITION. The matrix and tile instructions (R199 to R205): descriptors, their checks, the entry into a tile stream, TFEN and
TWT. -/

namespace Sys2Proof.Machine

/-! ### Descriptors -/

/-- TILE_OPERAND naming a register, or the word of TZRA (R199). -/
def tileTrap (v : DWord) : Trap := trapOf .tileOperand v

/-- Checks 1 and 2 of R199: a pair team, and the leader. -/
def tileHome (g : Group) (v : DWord) : Option Trap := if !g.hdr.pair || g.follower then some (tileTrap v) else none

/-- The fields of a TMM descriptor (R200). -/
structure TileDesc where
  tile : Nat
  m    : Nat
  n    : Nat
  k    : Nat
  acc  : Bool
  chk  : Bool
  band : Bool
  deriving DecidableEq, Repr

/-- The TMM descriptor of a word (R200). -/
def tileDesc (v : Word) : TileDesc :=
  { tile := fieldW v 0 2, m := fieldW v 7 8, n := fieldW v 15 9, k := fieldW v 24 8, acc := v.getLsbD 2, chk := v.getLsbD 3,
    band := v.getLsbD 4 }

/-- Whether a TMM descriptor keeps its limits (R200). -/
def tileDescLegal (g : Group) (v : Word) : Bool :=
  let d := tileDesc v
  fieldW v 5 2 == 0 && decide (d.k ≤ tileDepth (gmType g)) && decide (d.n ≤ 256) && decide (d.m ≤ width g) &&
  (!d.band || gmType g == 14)

/-- The B descriptor (R200): row pitch in bytes, offset of row 0, offset of the scales, format. -/
structure BDesc where
  pitch : Nat
  off   : Nat
  scale : Nat
  fmt   : Nat
  deriving DecidableEq, Repr

/-- The B descriptor of a pair. -/
def bDesc (lo hi : Word) : BDesc := { pitch := fieldW lo 18 14 * 16, off := fieldW lo 0 18, scale := fieldW hi 14 18, fmt := fieldW hi 0 4 }

/-- The columns of an operation on one core (R200). -/
def colsOf (n : Nat) (follower : Bool) : Nat := if follower then n - 128 else min n 128

/-- The end of the bytes of B that an operation reads (R200). -/
def bEnd (d : TileDesc) (b : BDesc) : Nat :=
  if d.k = 0 || d.n = 0 || d.m = 0 then 0 else b.off + (d.k - 1) * b.pitch + tileRowBytes b.fmt (min d.n 128)

/-- The end of the scale bytes that an operation reads (R200). -/
def scaleEnd (d : TileDesc) (b : BDesc) : Nat :=
  if b.fmt ≠ 14 || d.k = 0 || d.n = 0 || d.m = 0 then 0
  else max (b.scale + 128 * ((d.k + 7) / 8 - 1) + min d.n 128)
    (if d.band then b.scale + 2048 + (if 64 < d.n then 4 else 2) else 0)

/-- TILE_OPERAND checks of the B descriptor (R200); r is the register number of b. -/
def bTrap (g : Group) (d : TileDesc) (lo hi : Word) (r : Nat) : Option Trap :=
  let b := bDesc lo hi
  firstSome [
    if fieldW hi 4 10 ≠ 0 || !tilePair (gmType g) b.fmt then some (tileTrap (dw (r + 1))) else none,
    if b.off % 16 ≠ 0 || b.pitch < tileRowBytes b.fmt 128 || g.hdr.scratch < bEnd d b then some (tileTrap (dw r)) else none,
    if b.scale % 16 ≠ 0 || g.hdr.scratch < scaleEnd d b then some (tileTrap (dw (r + 1))) else none]

/-- SHAPE with 0xEE for the single-strand rule (R199). -/
def tileStrand (g : Group) : Option Trap := singleStrand g

/-- REG_INDEX for the register that BAND adds (R199, check 4). -/
def bandTrap (g : Group) (r : Nat) (band : Bool) : Option Trap :=
  if !band then none
  else if 0xF0 ≤ r then some (trapOf .regIndex (dw r))
  else match firstUndeclared g (r + 20) 1 with
    | some x => some (trapOf .regIndex (dw x))
    | none => none

/-! ### Entering a stream -/

/-- A tile operation of a kind on a tile, before its other fields are set. -/
def tileOpOf (s : State) (id : Nat) (k : TileKind) (tile m n : Nat) : TileOp :=
  let g := s.cur
  let b := g.feb.getD (gmField g 20 2) 0
  { id := id, gid := g.id, kind := k, tile := tile, m := m, n := n, k := 0, acc := false, chk := false, band := false, fmtA := 0,
    fmtB := 0, aRows := [], bOff := 0, bPitch := 0, bScale := 0, base := 0, pitch := 0, count := none, counted := true,
    spin := fieldW b 0 8, park := fieldW b 8 24, scope := gmScope g,
    batch := (getStream s g.team (gmStream g)).batch.toNat, started := false, staged := [], eng := none }

/-- Adds an operation to the stream GM[13:12] of the issuing group's team; T rises (R40, R199). -/
def enterTile (o : TileOp) (s : State) : State :=
  modCur (fun g => { g with cntT := g.cntT + 1 }) (modStream s.cur.team (gmStream s.cur) (fun x => { x with ops := x.ops ++ [o] }) s)

/-- The registers of a row of A (R200), captured at issue. -/
def aRow (g : Group) (r n l : Nat) : List Word := (List.range n).map (fun k => (readReg g (r + k)).lane l)

/-- The first poisoned register of the captured rows (R396). -/
def aPoisoned (g : Group) (r n m : Nat) : Option Nat :=
  ((List.range n).map (fun k => r + k)).find? (fun x => Sparse.get 0 g.rpoison x &&& fullMask m != 0)

/-- TMM, TMMR, TMMI and TMMIR after the checks of R77 (R199 to R203); count says that d is three registers with a count word. The
reuse latch never changes a result (R202, R235). -/
def tmmBody (count : Bool) (d a b : RegCode) (s : State) : Result :=
  let g := s.cur
  let ty := gmType g
  let od := if count then (rdOp 0 d).many 3 false else rdOp 0 d
  let ob := (rdOp 2 b).pair true
  let dv := opLane s od 0 0
  let td := tileDesc dv
  let lo := opLane s ob 0 0
  let hi := opLane s ob 1 0
  let rd := effReg g od
  let ra := effReg g (rdOp 1 a)
  let addr := pairOf (opLane s od 1 0) (opLane s od 2 0)
  let n := if td.band then 21 else tileSpan ty
  orTrap (firstSome [mustBeU s od, mustBeU s ob, tileStrand g, tileHome g (dw rd),
      if g.hdr.tiles ≤ td.tile then some (tileTrap (dw rd)) else none,
      if !tileDescLegal g dv then some (tileTrap (dw rd)) else none,
      bTrap g td lo hi (effReg g ob), bandTrap g ra td.band,
      if count && addr.toNat % 8 ≠ 0 then some (trapOf .align addr) else none])
    (fun s => match aPoisoned s.cur ra n td.m with
      | some r => .next (consumePoison (dw (2 ^ 63 + r)) (if td.acc then modCur closeIdem s else s))
      | none =>
        if s.cur.cntT == 63 then stallCounter 3 s
        else if td.band && (awaited s.cur).contains (ra + 20) then stallIssue s
        else
          let (id, s1) := freshId s
          let bd := bDesc lo hi
          let o := { tileOpOf s id .mul td.tile td.m td.n with
            k := td.k, acc := td.acc, chk := td.chk, band := td.band, fmtA := ty, fmtB := bd.fmt,
            aRows := (List.range td.m).map (aRow s.cur ra n), bOff := bd.off, bPitch := bd.pitch, bScale := bd.scale,
            base := if count then addr else 0, counted := !count }
          .next (modCur (fun g => nextPc { g with idemr := if td.acc then none else g.idemr }) (enterTile o s1))) s

/-- TMM (R200). -/
def execTmm (d a b : RegCode) (s : State) : Result := issueStrand (.tmm d a b) (tmmBody false d a b) s
/-- TMMR (R202). -/
def execTmmr (d a b : RegCode) (s : State) : Result := issueStrand (.tmmr d a b) (tmmBody false d a b) s
/-- TMMI (R203). -/
def execTmmi (d a b : RegCode) (s : State) : Result := issueStrand (.tmmi d a b) (tmmBody true d a b) s
/-- TMMIR (R203). -/
def execTmmir (d a b : RegCode) (s : State) : Result := issueStrand (.tmmir d a b) (tmmBody true d a b) s

/-! ### The tile movers -/

/-- The bytes from the base that a mover of rows of n elements of a size addresses on one core (R204). -/
def moverSpan (m n pitch size : Nat) : Nat := if m = 0 || n = 0 then 0 else (m - 1) * pitch + n * size

/-- The columns of a row that lie together at the base (R204): in scratchpad only those of the leader. -/
def moverCols (s : State) (base : DWord) (n : Nat) : Nat := match addrForm s base with | .window _ => min n 128 | _ => n

/-- The checks of a mover's address (R178, R179, R204): ALIGN to the element and to 4, form, scratchpad bound. -/
def moverTrap (s : State) (base : DWord) (m n pitch size : Nat) : Option Trap :=
  firstSome [
    if base.toNat % 4 ≠ 0 then some (trapOf .align base) else none,
    addrTrap s (moverSpan m (moverCols s base n) pitch size) base]

/-- The range-lock entry of a mover (R179). -/
def moverLocks (s : State) (id : Nat) (load : Bool) (base : DWord) (len : Nat) : List RangeLock :=
  let g := s.cur
  if (podOf s base).isSome then []
  else [{ eng := id, part := g.part, core := g.core, team := g.team, ctx := g.ctx, lo := base.toNat, len := len, dst := !load }]

/-- The engine operation of a mover (R178). -/
def moverEng (s : State) (id top : Nat) (base : DWord) (size : Nat) : EngOp :=
  let g := s.cur
  { id := id, gid := some g.id, pkt := none, ctx := g.ctx, team := g.team, part := g.part, core := g.core, half := g.follower,
    kind := .tile g.team (gmStream g) top, dst := base, src := base, size := size, fe := 0, land := none, bind := none, relay := false, chan := none, landed := 0, ahead := [],
    bits := [], edges := [], filled := false, parked := false, held := none, remote := false, fail := none }

/-- A mover (R204) after the checks of R77: kind, element size, whether it loads, and the checks of a third operand. -/
def moverBody (k : TileKind) (size : Nat) (load : Bool) (shape type : Option Trap) (d a : RegCode) (s : State) : Result :=
  let g := s.cur
  let od := (rdOp 0 d).pair true
  let oa := (rdOp 1 a).pair true
  let td := tileDesc (opLane s od 0 0)
  let pitch := (opLane s od 1 0).toNat
  let base := uPair s oa
  let rd := effReg g od
  orTrap (firstSome [mustBeU s od, mustBeU s oa, shape, tileHome g (dw rd),
      if g.hdr.tiles ≤ td.tile then some (tileTrap (dw rd)) else none,
      if fieldW (opLane s od 0 0) 2 5 ≠ 0 || td.k ≠ 0 || 128 < td.m || 256 < td.n then some (tileTrap (dw rd)) else none,
      if pitch % 4 ≠ 0 then some (tileTrap (dw (rd + 1))) else none, type,
      moverTrap s base td.m td.n pitch size])
    (fun s =>
      if s.cur.cntT == 63 then stallCounter 3 s
      else if 32 ≤ locksUsed s then stallFor (.locks 1) s
      else
        let (id, s1) := freshId s
        let (e, s2) := freshId s1
        let o := { tileOpOf s id k td.tile td.m td.n with base := base, pitch := pitch, eng := some e }
        let s3 := enterTile o s2
        .next (modCur (fun g => nextPc { g with idemr := if (podOf s base).isSome then none else g.idemr })
          { s3 with engines := s3.engines ++ [moverEng s e id base (td.m * td.n * size)],
                    locks := s3.locks ++ moverLocks s e load base (moverSpan td.m (moverCols s base td.n) pitch size) })) s

/-- TLDA (R204). -/
def execTlda (d a : RegCode) (s : State) : Result := issueStrand (.tlda d a) (moverBody .load 4 true none none d a) s

/-- TSTA (R204). -/
def execTsta (d a : RegCode) (s : State) : Result := issueStrand (.tsta d a) (moverBody .store 4 false none none d a) s

/-- TCVT (R204): the destination type in b; other codes trap TILE_OPERAND. -/
def execTcvt (d a b : RegCode) (s : State) : Result :=
  issueStrand (.tcvt d a b) (fun s =>
    let v := uWord s (rdOp 2 b)
    let ty := fieldW v 0 4
    moverBody (.convert ty (gmRound s.cur) (gmSat s.cur) (gmType s.cur)) (tyWidth ty / 8) false
      (mustBeU s (rdOp 2 b))
      (if fieldW v 4 28 ≠ 0 || !tcvtType ty then some (tileTrap (dw (effReg s.cur (rdOp 2 b)))) else none) d a s) s

/-- TZRA (R204). -/
def execTzra (t : BitVec 2) (s : State) : Result :=
  issueStrand (.tzra t) (fun s =>
    let w := zext (wordOf (.tzra t))
    orTrap (firstSome [tileHome s.cur w, if s.cur.hdr.tiles ≤ t.toNat then some (tileTrap w) else none])
      (fun s =>
        if s.cur.cntT == 63 then stallCounter 3 s
        else
          let (id, s1) := freshId s
          .next (modCur nextPc (enterTile (tileOpOf s id .zero t.toNat 128 256) s1))) s) s

/-! ### Batches -/

/-- TFEN (R205): closes the open batch and returns its number. -/
def execTfen (d : RegCode) (s : State) : Result :=
  issueStrand (.tfen d) (fun s =>
    orTrap (tileHome s.cur (dw (effReg s.cur (wrOp d)))) (fun s =>
      let st := getStream s s.cur.team (gmStream s.cur)
      let ws := destWrites s.cur (wrOp d) [.u (st.batch.setWidth 32)]
      match narrowFault (activeLanes s.cur) s.cur ws with
      | some r => .next (takeTrap (trapOf .shape (dw r)) s)
      | none => .next (modCur (fun g => nextPc (writeRegs (activeLanes g) ws g))
          (modStream s.cur.team (gmStream s.cur) (fun x => { x with batch := x.batch + 1 }) s))) s) s

/-- TWT (R205): holds the strand until the batches up to a[15:0] have retired. -/
def execTwt (a : RegCode) (s : State) : Result :=
  issueStrand (.twt a) (fun s =>
    orTrap (firstSome [mustBeU s (rdOp 1 a), tileHome s.cur (dw (effReg s.cur (rdOp 1 a)))]) (fun s =>
      let n := fieldW (uWord s (rdOp 1 a)) 0 16
      let k := gmStream s.cur
      if batchRetired (getStream s s.cur.team k) n then .next (modCur nextPc s)
      else .next (modCur (holdStrand (clkOf s) (.twt k n)) s)) s) s

end Sys2Proof.Machine
end

