-- ==== Sys2Proof/Machine/TileEvents.lean ====
section
/-! DEFINITION. The progress of tile operations (R199 to R205, R234, R236, R396, R403): start, the count word, retirement. -/

namespace Sys2Proof.Machine

/-- Whether an operation occupies the engine of its pair (R234): it has started, and is no mover, whose elements go to or come from the tile
in the step of its start and which then waits for memory alone (log entry 97). -/
def occupies (o : TileOp) : Bool := o.started && o.eng.isNone

/-- Whether an operation of any stream of any team occupies the engine of a team's pair (R234). -/
def engineBusy (s : State) (tm : Nat) : Bool :=
  let t := getTeam s tm
  s.teams.any (fun e => e.2.part == t.part && e.2.core == t.core && e.2.streams.any (fun x => x.2.ops.any occupies))

/-- Poison consumed by a matrix operation (R396, R399): a restart where the operation was issued in the region that is still open. -/
def poisonMatrix (o : TileOp) (addr : DWord) (s : State) : State :=
  match findGroup o.gid s with
  | none => s
  | some g =>
    let inRegion := match g.idemr with | some r => decide (r.first ≤ o.id) | none => false
    if inRegion then poisonGroup o.gid addr s
    else if g.stopped || (getGang s g.gang).status == .aborting then s
    else takeTrap (trapOf .poison addr) (focus o.gid s)

/-- Marks the head of a stream as started. -/
def startHead (tm k : Nat) (s : State) : State := modHead tm k (fun o => { o with started := true }) s

/-- Whether all that a mover moves has arrived. -/
def moverArrived (s : State) (o : TileOp) : Bool :=
  match o.eng with
  | some e => (match s.engines.find? (fun x => x.id == e) with | some x => x.landed == x.size | none => true)
  | none => true

/-- TSTA or TCVT takes its elements from the tile. -/
def startStore (tm k : Nat) (o : TileOp) (s : State) : State :=
  startHead tm k (modHead tm k (fun y => { y with staged := takeElems (getTeam s tm) o }) s)

/-- The start of an operation at the head of its stream, while the engine is free (R234): a multiply reads B as it stands then (R307). -/
def startTile (tm k : Nat) (o : TileOp) (s : State) : State :=
  if engineBusy s tm then s
  else match o.kind with
  | .mul => (match tilePoison s tm o with
      | some a => poisonMatrix o a s
      | none => startHead tm k (runMul tm o s))
  | .zero => startHead tm k (runZero tm o s)
  | .load => if moverArrived s o then startHead tm k (runLoad tm o s) else s
  | .store => startStore tm k o s
  | .convert .. => startStore tm k o s

/-- TILE_OP_START (R70 to R73, R199, R234): the head of stream k of team tm starts. -/
def execTileOpStart (tm k : Nat) (s : State) : Result :=
  match (getStream s tm k).ops with
  | o :: _ => if !o.started && o.counted && agentMayAct (some o.gid) o.id s then .next (startTile tm k o s) else .next s
  | [] => .next s

/-- The operation of a count word's reader, for its translation. -/
def countReader (s : State) (tm : Nat) (o : TileOp) : EngOp :=
  let t := getTeam s tm
  let h := ((findGroup o.gid s).map (fun g => (g.core, g.follower))).getD (t.core, false)
  { id := o.id, gid := some o.gid, pkt := none, ctx := t.ctx, team := tm, part := t.part, core := h.1, half := h.2, kind := .prefetch, dst := 0, src := o.base,
    size := 0, fe := 0, land := none, bind := none, relay := false, chan := none, landed := 0, ahead := [], bits := [], edges := [], filled := false, parked := false,
    held := none, remote := false, fail := none }

/-- A tile operation that fails (R180): it leaves its stream, T falls, and its group learns of it. -/
def failTile (tm k : Nat) (o : TileOp) (c : Cause) (v : DWord) (s : State) : State :=
  reportFail o.gid c v (retireTile tm k o.id s)

/-- The waiting read of a count word (R203): LDWT at the head of its stream. -/
def readCount (tm k : Nat) (o : TileOp) (s : State) : State :=
  match reach (countReader s tm o) o.base 8 .feRead s with
  | (.at va loc, s1) =>
    if loc.isHost then failTile tm k o .feSpace o.base s1
    else if isPoisoned s1 tm loc 8 then poisonMatrix o (poisonLocator loc) s1
    else match feAttempt .ldwt (getTeam s1 tm).ctx tm va loc 0 s1 with
      | some (v, s2) => completeWaiter (.tile tm k) v s2
      | none =>
        let (id, s2) := freshId s1
        let w : FeWait := { id := id, ctx := (getTeam s1 tm).ctx, team := tm, who := .tile tm k, kind := .ldwt, va := dw va, loc := loc,
                            data := 0, spins := o.spin, limit := o.park, mode := .spin 0, since := none, tried := s.time, entry := none }
        if o.spin = 0 then parkWait w s2 else { s2 with waits := s2.waits ++ [w] }
  | (.absent va p, s1) => reportFault (getTeam s1 tm).ctx va .feRead 1 0 p s1
  | (.bad c a, s1) => failTile tm k o c a s1
  | (.denied, s1) => failTile tm k o .protect o.base s1
  | (.far _ _, s1) => failTile tm k o .protect o.base s1
  | (.wait, s1) => s1

/-- Whether the count word of a stream's head is being waited for. -/
def countWaits (s : State) (tm k : Nat) : Bool := s.waits.any (fun w => w.who == .tile tm k)

/-- TMMI_COUNT_READ (R203): the head of stream k of team tm reads its count word. -/
def execTmmiCountRead (tm k : Nat) (s : State) : Result :=
  match (getStream s tm k).ops with
  | o :: _ =>
    if !o.counted && !countWaits s tm k && agentMayAct (some o.gid) o.id s then .next (readCount tm k o s) else .next s
  | [] => .next s

/-- Whether a started operation has done its work. -/
def tileFinished (s : State) (o : TileOp) : Bool :=
  o.started && (match o.eng with
    | some e => (match findEng e s with | some x => engDone x | none => true)
    | none => true)

/-- The trap of a mirror comparison that found a difference (R201). -/
def mirrorTrap (o : TileOp) (row col : Nat) : Trap := trapOf .mirrorMismatch (dw (o.tile * 2 ^ 16 + row * 2 ^ 8 + col))

/-- Whether an operation is mirrored (R201). -/
def mirrored (o : TileOp) : Bool := o.chk && decide (o.n ≤ 128) && (match o.kind with | .mul => true | _ => false)

/-- Counts a mirror mismatch of a core pair (R403): the third within 24 hours takes the pair out of service and schedules its cores for
retirement. -/
def countMismatch (part core : Nat) (s : State) : State :=
  let key := coreKey part core
  let recent := (Sparse.get [] s.mirror key).filter (fun t => decide (s.time.toNat < t.toNat + 86400000000000)) ++ [s.time]
  let s1 := { s with mirror := Sparse.set [] s.mirror key recent }
  if recent.length < 3 then s1
  else [core, core + 1].foldl (fun s c => setCore part c { getCore s part c with service := false, retire := true } s) s1

/-- TILE_OP_RETIRE (R40, R199, R201, R205, R403): the head of a stream retires; a mirror comparison that found a difference traps its
group MIRROR_MISMATCH. -/
def execTileOpRetire (tm k : Nat) (mismatch : Option (Nat × Nat)) (s : State) : Result :=
  match (getStream s tm k).ops with
  | [] => .next s
  | o :: _ =>
    if !tileFinished s o then .next s
    else
      let s1 := retireTile tm k o.id (match o.eng with | some e => dropEngine e s | none => s)
      match mismatch with
      | some (row, col) =>
        if mirrored o && decide (row < tileRowsOf o) && decide (col < o.n) && (findGroup o.gid s1).isSome then
          let t := getTeam s1 tm
          .next (takeTrap (mirrorTrap o row col) (focus o.gid (countMismatch t.part t.core s1)))
        else .next s1
      | none => .next s1

end Sys2Proof.Machine
end

