-- ==== Sys2Proof/Machine/Pod.lean ====
section
/-! DEFINITION. The pod instructions POPEN, PREL, PDRAIN, PBAR, RBEGIN and RCOMMIT, the performance of a held PREL, and the
rollback of a remote region (R193 to R198, R298). -/

namespace Sys2Proof.Machine

/-! ### The counted channel -/

/-- POPEN (R193). -/
def execPopen (a : RegCode) (s : State) : Result :=
  issueStrand (.popen a) (fun s =>
    let v := uWord s (rdOp 1 a)
    let r := dw (effReg s.cur (rdOp 1 a))
    orTrap (firstSome [mustBeU s (rdOp 1 a),
        if fieldW v 18 14 ≠ 0 then some (trapOf .reservedField r) else none,
        if podSize s ≤ fieldW v 8 10 then some (trapOf .protect r) else none])
      (fun s => .next (modCur (fun g => nextPc { g with cchn := 0x80000000#32 ||| v, ccnt := 0 }) s)) s) s

/-- The request of a PREL with a count (R194). -/
def prelReq (c : Word) (d a : RegCode) (t : BitVec 3) (i : BitVec 5) : MemReq := storeReq (.prel c) 8 ((rdOp 0 d).pair true) a t i

/-- The checks of PREL (R194), in their order. -/
def prelTrap (s : State) (x : LaneAddr) : Option Trap :=
  firstSome [
    if s.cur.cchn.getLsbD 31 then none else some (trapOf .protect x.ea),
    if x.ea.toNat % 8 ≠ 0 then some (trapOf .align x.ea) else none,
    if !x.phys && (match addrForm s x.va with | .pod p _ => (channelFor s.cur p).isSome | _ => false) then none
    else some (trapOf .protect x.ea)]

/-- PREL (R194): one counted release store of the strand; its count is SR_CCNT, which then restarts at 0. -/
def execPrel (d a : RegCode) (t : BitVec 3) (i : BitVec 5) (s : State) : Result :=
  issueStrand (.prel d a t i) (fun s =>
    let r := prelReq s.cur.ccnt d a t i
    let x := laneAddr s r ((lowestLane (enabled s.cur)).getD 0)
    orTrap (firstSome [mustBeU s ((rdOp 0 d).pair true), mustBeU s (rdOp 1 a), prelTrap s x]) (fun s =>
      if ctrFull .s s.cur then stallCounter 1 s
      else match barrowLack s (remotePkgs s [x]) with
      | some k => stallFor k s
      | none => match addrForm s x.va with
        | .pod p off =>
          let l : LaneAcc := { lane := x.lane, va := x.va, loc := .pod p off, data := (laneData s r x.lane).1, data2 := 0, held := false, done := false,
                               ret := 0 }
          .next (modCur (fun g => nextPc { g with ccnt := 0 }) (enterOp r [l] s).2)
        | _ => .next (takeTrap (trapOf .protect x.ea) s)) s) s

/-- The arrival counter of a channel (R194). -/
def arrived (s : State) (r : OpRecord) : Word := Sparse.get 0 (getCtx s r.ctx).arrivals (r.src * 256 + r.chan.getD 0)

/-- PREL_PERFORM (R194): the held PREL k, once its count has arrived: the count is subtracted and the store is performed. -/
def execPrelPerform (k : Nat) (s : State) : Result :=
  match s.prels[k]? with
  | none => .next s
  | some h =>
    if (arrived s h.rcd).toNat < h.count.toNat then .next s
    else
      let r := h.rcd
      match ingress r.ctx r.off 8 .wr s with
      | (.ok _ loc, s1) =>
        let x := getCtx s1 r.ctx
        let key := r.src * 256 + r.chan.getD 0
        let s2 := setCtx r.ctx { x with arrivals := Sparse.set 0 x.arrivals key (Sparse.get 0 x.arrivals key - h.count) } s1
        .next (replyTo r 0 none (storeAt 0 loc 8 (r.data.toNat % 2 ^ 64) { s2 with prels := s2.prels.eraseIdx k }))
      | (.denied, s1) => .next (replyTo r 0 (some .remoteDenied) { s1 with prels := s1.prels.eraseIdx k })
      | (.absent va p, s1) => .next (reportFault r.ctx va .wr 2 r.src p s1)

/-! ### Waiting for acknowledgement -/

/-- The numbers of a group's remote operations, from a number on, that are not yet acknowledged (R195, R197). -/
def unackedIds (s : State) (gid first : Nat) : List Nat :=
  (s.barrow.filter (fun b => b.gid == some gid && decide (first ≤ b.op))).map (·.id) ++
  (s.engines.filter (fun x => x.gid == some gid && decide (first ≤ x.id) && ownPodCopy s x)).map (·.id)

/-- PDRAIN (R195). -/
def execPdrain (s : State) : Result :=
  issueStrand .pdrain (fun s =>
    let ids := unackedIds s s.cur.id 0 ++ (s.barrow.filter (fun b => s.cur.inherits.contains b.id)).map (·.id)
    if ids.isEmpty then .next (modCur nextPc s) else .next (modCur (holdStrand (clkOf s) (.drain ids)) s)) s

/-! ### Pod barriers -/

/-- The members of the issuing group's bitmap (R196, R297). -/
def pgrpMembers (g : Group) : List Nat :=
  (List.range 1024).filter (fun p => (Sparse.get 0 g.pgrp (p / 64)).getLsbD (p % 64))

/-- The hash of the bitmap (R297). -/
def pgrpHash (g : Group) : Word := crc32 ((List.range 16).flatMap (fun w => bytesLE 8 (Sparse.get 0 g.pgrp w).toNat))

/-- The key of a pod barrier's arrival count. -/
def barKey (ctx bar : Nat) : Nat := ctx * 256 + bar

/-- Whether a token belongs to an episode. -/
def tokenOf (e : Episode) (t : Token) : Bool := t.ctx == e.ctx && t.bar == e.bar && t.ep == e.ep

/-- Ends an episode with a remote failure of the groups held at it (R196, R300). After a mismatch this package's own token still goes to
every member, so that it ends the episode there too (R298); a lost member is noticed by every member by itself. -/
def failEpisode (e : Episode) (c : Cause) (s : State) : State :=
  let held := (groups s).filter (fun g => (allStrands g).any (atEpisode e))
  completeEpisodes (held.foldl (fun s g => remoteFail g.id s.nextId c (dw e.bar) s)
    { s with episodes := if c = .peerLost then s.episodes.filter (fun x => x != e)
                         else s.episodes.map (fun x => if x == e then { x with failed := true } else x) })

/-- The arrival of the issuing package and context at a barrier (R196, R298): a new episode, with the tokens that are already
here. -/
def arrivePbar (g : Group) (bar : Nat) (s : State) : State :=
  let ep := Sparse.get 0 s.arrivals (barKey g.ctx bar)
  let cover := (s.barrow.filter (fun b => b.rcd.ctx == g.ctx)).map (·.id) ++
    (s.engines.filter (fun x => x.ctx == g.ctx && ownPodCopy s x)).map (·.id)
  let got := (s.tokens.filter (fun t => t.2.ctx == g.ctx && t.2.bar == bar && t.2.ep == ep % 2 ^ 19)).map (·.1)
  let e : Episode := { ctx := g.ctx, bar := bar, ep := ep % 2 ^ 19, members := pgrpMembers g, hash := pgrpHash g, cover := cover,
                       sentTo := [], got := got }
  let bad := s.tokens.any (fun t => tokenOf e t.2 && t.2.hash != e.hash)
  let s1 := { s with arrivals := Sparse.set 0 s.arrivals (barKey g.ctx bar) (ep + 1), episodes := s.episodes ++ [e],
                     tokens := s.tokens.filter (fun t => !tokenOf e t.2) }
  let s2 := modCur (holdStrand (clkOf s) (.pbar g.ctx bar e.ep s.nextId)) s1
  if bad then failEpisode e .remoteDenied s2
  else if e.members.any (fun m => Sparse.get 0 s.health m == 2) then failEpisode e .peerLost s2
  else completeEpisodes s2

/-- The episode for which a PBAR that a watchdog trap stopped waits again (R407). -/
def keptEpisode (g : Group) (bar : Nat) : Option Nat :=
  match g.cont with
  | some (pc, .pbar c b e) => if pc = g.strand.pc && c = g.ctx && b = bar then some e else none
  | _ => none

/-- PBAR goes on waiting for an episode at which its package has already arrived (R407). -/
def rejoinPbar (bar ep : Nat) (s : State) : State :=
  let s1 := modCur (fun g => { g with cont := none }) s
  if s.episodes.any (fun e => e.ctx == s.cur.ctx && e.bar == bar && e.ep == ep && !e.failed) then
    modCur (holdStrand (clkOf s) (.pbar s.cur.ctx bar ep s.nextId)) s1
  else modCur nextPc s1

/-- PBAR (R196): a release, so the group's earlier accesses come first. -/
def execPbar (a : RegCode) (s : State) : Result :=
  issueStrand (.pbar a) (fun s =>
    let v := uWord s (rdOp 1 a)
    let r := dw (effReg s.cur (rdOp 1 a))
    let m := pgrpMembers s.cur
    orTrap (firstSome [mustBeU s (rdOp 1 a),
        if fieldW v 8 24 ≠ 0 then some (trapOf .reservedField r) else none,
        if !m.contains (pkgId s) || m.any (fun p => decide (podSize s ≤ p)) then some (trapOf .protect r) else none])
      (fun s => match keptEpisode s.cur (fieldW v 0 8) with
        | some e => .next (rejoinPbar (fieldW v 0 8) e (modCur closeIdem s))
        | none => if unperformed 3 s.cur then stallIssue s else .next (arrivePbar s.cur (fieldW v 0 8) (modCur closeIdem s))) s) s

/-! ### Remote regions -/

/-- The offset of a group's checkpoint area (R218). -/
def rckpOffset (g : Group) : Nat := g.hdr.scratch + g.base / 8 * (16 * g.hdr.shelf + g.hdr.rckpt) + 16 * g.hdr.shelf

/-- The header part of the save layout of R30 that RBEGIN writes (R197): GM, xi, the width, the counted channel, kmask, p1 to p7. -/
def headerPart (g : Group) : List Byte :=
  bytesLE 4 g.gm.toNat ++ bytesLE 1 g.xi.toNat ++ bytesLE 1 g.lgw ++ bytesLE 2 0 ++ bytesLE 4 g.cchn.toNat ++ bytesLE 4 g.ccnt.toNat ++
  bytesLE 16 g.kmask.toNat ++ (List.range 7).flatMap (fun p => bytesLE 16 (Sparse.get 0 g.preds (p + 1)).toNat)

/-- RBEGIN (R197). -/
def execRbegin (o : BitVec 20) (s : State) : Result :=
  issueStrand (.rbegin o) (fun s =>
    let g := s.cur
    orTrap (firstSome [singleStrand g,
        g.region.map (fun r => trapOf .regionNest r.handler),
        if g.hdr.rckpt < 0xD0 + 4 * width g * g.hdr.n then some (trapOf .regionNest (dw g.hdr.rckpt)) else none])
      (fun s =>
        let off := rckpOffset s.cur
        let r : RemoteRegion :=
          { handler := fjTarget g.strand.pc o, lanes := g.strand.mask, gm := g.gm, xi := g.xi, cchn := g.cchn, ccnt := g.ccnt,
            kmask := g.kmask, preds := g.preds, saved := [], spoison := [], seen := [], firstOp := s.nextId, failing := none }
        .next (modCur (fun g => nextPc { g with region := some r, rckp := wd off })
          (writeArea s.cur.team (.scr s.cur.follower off) (headerPart g) s))) s) s

/-- RCOMMIT (R197): the strand is held until the region's remote operations are acknowledged, and the region closes. -/
def execRcommit (s : State) : Result :=
  issueStrand .rcommit (fun s =>
    match s.cur.region with
    | none => .next (modCur nextPc s)
    | some r =>
      let ids := unackedIds s s.cur.id r.firstOp
      if ids.isEmpty then .next (modCur (fun g => nextPc (closeRegion g)) s)
      else .next (modCur (holdStrand (clkOf s) (.rcommit ids)) s)) s

/-- Whether a group's local operations have all completed (R198, step 1). -/
def localIdle (s : State) (g : Group) : Bool :=
  !g.outs.any (fun o => o.lanes.any (fun l => !l.done && !l.loc.isPod)) &&
  !s.engines.any (fun x => x.gid == some g.id && !x.remote && x.fail.isNone) && g.cntT == 0

/-- Whether a copy of a barrow entry has sent nothing yet. -/
def unbegun (b : Barrow) : Bool := b.cur.isNone && b.gone.isEmpty && b.relayed.isEmpty && b.sent == 0 && !b.doneQ

/-- Abandons a copy of a group (R198, R276): one that has sent nothing, and a pull, end; any other goes on to its end without its
group, before what the group sends to that package from then on. -/
def abandonCopy (gid : Nat) (x : EngOp) (s : State) : State :=
  let s1 := modGroup gid (fun g => { g with cntC := g.cntC - 1 }) s
  match s1.barrow.find? (fun b => b.copy == some x.id) with
  | none => dropEngine x.id s1
  | some b =>
    if unbegun b || isPull b then retireEntry b.id (dropEngine x.id s1)
    else modEntry b.id (fun b => { b with gid := none, left := some gid }) (modEngine x.id (fun x => { x with gid := none }) s1)

/-- Abandons the remote operations of a group from a number on (R198, step 2, R276): their counters fall, and late replies find no
group. Those through the own window that have not begun are not performed; the others stay the gang's, whose release waits for them
(R278). -/
def abandonRemote (gid first : Nat) (s : State) : State :=
  let s1 := (s.engines.filter (fun x => x.gid == some gid && x.remote && decide (first ≤ x.id))).foldl (fun s x => abandonCopy gid x s) s
  let mine := fun (b : Barrow) => b.gid == some gid && decide (first ≤ b.op)
  let s2 := (s1.barrow.filter (fun b => mine b && b.dst == pkgId s && b.copy.isNone && b.sent == 0)).foldl (fun s b => retireEntry b.id s) s1
  let s3 := { s2 with barrow := updateWhere mine (fun b => { b with gid := none, left := some gid }) s2.barrow }
  match findGroup gid s3 with
  | none => s3
  | some g => ((g.outs.filter (fun o => decide (first ≤ o.id) && hasRemote o)).map (·.id)).foldl (fun s id => endOpen gid id s) s3

/-- The operations of a group from a number on that may wait at another package (R170, R276). -/
def mayWaitAway (g : Group) (first : Nat) : List Nat :=
  (g.outs.filter (fun o => decide (first ≤ o.id) && hasRemote o && mayWait o.kind.remote)).map (·.id)

/-- Withdraws the lanes of a region that may wait at other packages (R169, R276): once they are gone, none is performed after what the
handler issues. -/
def withdrawRegion (gid : Nat) (ids : List Nat) (s : State) : State :=
  ids.foldl (fun s id => match (findGroup gid s).bind (findOp id) with
    | some o => if o.ending.isSome then s else endOp gid id .drop s
    | none => s) s

/-- The group after a rollback (R198, steps 3 and 4); strands that waited for a bin end their waits. -/
def rolledBack (clk : Nat) (r : RemoteRegion) (cause : BitVec 8) (g : Group) : Group :=
  let m := r.lanes &&& ~~~g.exited
  progress { endBins (allStrands g) g with
    gm := r.gm, xi := r.xi, cchn := r.cchn, ccnt := r.ccnt, kmask := r.kmask, preds := r.preds, region := none, rckp := 0, idemr := none,
    regs := r.seen.foldl (fun l k => Sparse.set (.u 0) l k (Sparse.get (.u 0) r.saved k)) g.regs,
    rpoison := r.seen.foldl (fun l k => Sparse.set 0 l k (Sparse.get 0 r.spoison k)) g.rpoison,
    tval := cause.setWidth 64, replay := none, rest := [], shelf := [],
    strand := if m = 0 then Strand.none else newStrand r.handler m g.inTrap clk }

/-- REGION_ROLLBACK (R198): the group stops issuing; once its local operations have completed, and no lane waits at another package, the
region's remote operations are abandoned, its state is restored, and its lanes go on at the handler. -/
def execRegionRollback (gid : Nat) (cause : BitVec 8) (s : State) : Result :=
  match findGroup gid s with
  | none => .next s
  | some g => match g.region with
    | none => .next s
    | some r =>
      if !localIdle s g then .next (modGroup gid (fun g => { g with region := some { r with failing := some (r.failing.getD cause) } }) s)
      else
        let c := r.failing.getD cause
        if (mayWaitAway g r.firstOp).isEmpty then .next (modGroup gid (rolledBack (clkAt s g) r c) (abandonRemote gid r.firstOp s))
        else .next (withdrawRegion gid (mayWaitAway g r.firstOp) (modGroup gid (fun g => { g with region := some { r with failing := some c } }) s))

end Sys2Proof.Machine
end

