-- ==== Sys2Proof/Machine/GroupLife.lean ====
section
/-! DEFINITION. Events in the life of a group: merging, rotation and ageing of strands, starvation, the idempotent restart and the
watchdog (R226 to R228, R399, R407). -/

namespace Sys2Proof.Machine

/-! ### Strands -/

/-- Makes a list the live strands of a group. -/
def withLive (l : List Strand) (g : Group) : Group :=
  match l with
  | t :: r => { g with strand := t, rest := r }
  | [] => { g with strand := Strand.none, rest := [] }

/-- The oldest shelved strand takes a free live position (R226). -/
def fillLive (clk : Nat) (g : Group) : Group :=
  match g.shelf with
  | t :: l => if g.inTrap || decide (4 ≤ (liveStrands g).length) then g
      else { withLive (liveStrands g ++ [goLive clk t]) g with shelf := l, lastSwap := clk }
  | [] => g

/-- The merge of two strands (R227, R401): the union of the masks goes on as the first, with MRG set; the other ceases. What holds
either of them goes on holding the union (log entry 51). -/
def mergeStrands (clk : Nat) (t u : Strand) (g : Group) : Group :=
  let m := { t with mask := t.mask ||| u.mask, mrg := true, hold := if t.hold = .none then u.hold else t.hold }
  fillLive clk (withLive (((liveStrands g).filter (fun x => x != u)).map (fun x => if x == t then m else x)) g)

/-- STRAND_MERGE (R227). -/
def execStrandMerge (gid : Nat) (s : State) : Result :=
  match findGroup gid s with
  | some g => match mergePair (consideredStrands g) with
    | some (t, u) => .next (modGroup gid (mergeStrands (clkAt s g) t u) s)
    | none => .next s
  | none => .next s

/-- The live strand that has been live longest. -/
def longestLive : List Strand → Option Strand
  | [] => none
  | t :: l => match longestLive l with
    | some u => if u.liveAt < t.liveAt then some u else some t
    | none => some t

/-- The rotation swap (R226): the strand that has been live longest is shelved for the oldest shelved strand. -/
def rotate (clk : Nat) (g : Group) : Group :=
  match g.shelf, longestLive (liveStrands g) with
  | t :: l, some u =>
    { shelve u (withLive ((liveStrands g).map (fun x => if x == u then goLive clk t else x)) { g with shelf := l }) with
      lastSwap := clk }
  | _, _ => g

/-- STRAND_ROTATION (R226). -/
def execStrandRotation (gid : Nat) (s : State) : Result :=
  match findGroup gid s with
  | some g =>
    if !g.inTrap && decide (g.lastSwap + 4096 ≤ clkAt s g) then .next (modGroup gid (rotate (clkAt s g)) s) else .next s
  | none => .next s

/-- A Ready strand of a group that has aged (R228). -/
def agedStrand (g : Group) (s : State) : Option Strand := (liveStrands g).find? (fun t => strandReady g s t && agedAt s g t)

/-- STRAND_AGING (R228). -/
def execStrandAging (gid : Nat) (s : State) : Result :=
  match findGroup gid s with
  | some g => match agedStrand g s with
    | some t => .next (modGroup gid (fun g => { g with aged := some t.pc }) s)
    | none => .next s
  | none => .next s

/-- GROUP_STARVED (R228): a group whose candidate has waited 64 cycles is starved from then on. -/
def execGroupStarved (gid : Nat) (s : State) : Result :=
  match findGroup gid s with
  | some g =>
    if decide (64 ≤ g.waited) && g.starved.isNone && (candidate s g).isSome then
      .next (modGroup gid (fun g => { g with starved := starvedAt s g }) s)
    else .next s
  | none => .next s

/-! ### The idempotent restart -/

/-- Whether a local engine operation of a group still has bytes to land (R399, step 1); its matrix operations are abandoned instead. -/
def copyRunning (g : Group) (x : EngOp) : Bool :=
  x.gid == some g.id && engRunning x && (match x.kind with | .tile _ _ _ => false | _ => true)

/-- Whether the local operations of a group have completed, its copies among them, those that wait in the bench or for a page apart
(R399, step 1). -/
def restartIdle (s : State) (g : Group) : Bool :=
  !s.engines.any (copyRunning g) &&
  !g.outs.any (fun o => o.ending.isNone && o.lanes.any (fun l => !l.done && !l.held && !l.loc.isPod && !laneWaits s g.id o.id l.lane))

/-- The operations that hold a strand of a group. -/
def heldOps (g : Group) : List Nat := (allStrands g).filterMap (fun t => match t.hold with | .op id => some id | _ => none)

/-- Withdraws the waits and the held faults of a group (R399): the operations that hold its strands, or are being brought to an end,
are dropped, and of the others the lanes that are held at page faults. -/
def withdrawWaits (gid : Nat) (s : State) : State :=
  match findGroup gid s with
  | none => s
  | some g =>
    let s1 := (g.outs.filter (fun o => o.ending.isSome || (heldOps g).contains o.id)).foldl (fun s o => endOp gid o.id .drop s) s
    settleGroup gid ((g.outs.filter (fun o => heldLanes o != 0)).foldl (fun s o => modGroup gid (dropHeld o.id) s) s1)

/-- Abandons one operation of a tile stream: the wait on its count word and its mover end with it. -/
def abandonTile (tm k : Nat) (o : TileOp) (s : State) : State :=
  let s1 := (s.waits.filter (fun w => w.who == .tile tm k && (getStream s tm k).ops.head?.map (·.id) == some o.id)).foldl
    (fun s w => dropWait w s) s
  retireTile tm k o.id (match o.eng with | some e => dropEngine e s1 | none => s1)

/-- Abandons the unretired matrix operations of a group from a number on (R399, step 2). -/
def abandonTiles (gid first : Nat) (s : State) : State :=
  match findGroup gid s with
  | none => s
  | some g =>
    (getTeam s g.team).streams.foldl (fun s x =>
      (x.2.ops.filter (fun o => o.gid == gid && decide (first ≤ o.id))).foldl (fun s o => abandonTile g.team x.1 o s) s) s

/-- The group as a restart leaves it (R399, steps 3 and 4). -/
def restartGroup (clk : Nat) (r : IdemRegion) (addr : DWord) (g : Group) : Group :=
  progress { endBins (allStrands g) g with
    sig := r.sig, steady := r.steady, replay := none, rest := [], shelf := [], stall := none,
    idemr := some { r with count := r.count + 1, last := some addr, restarting := true, due := none },
    strand := { newStrand r.pc r.lanes g.inTrap clk with mrg := r.mrg } }

/-- IDEMPOTENT_RESTART (R399): the group stops issuing until its local operations have completed, and goes on at its IDEM. -/
def execIdempotentRestart (gid : Nat) (addr : DWord) (s : State) : Result :=
  match findGroup gid s with
  | none => .next s
  | some g => match g.idemr with
    | none => .next s
    | some r =>
      if !restartIdle s g then .next (modGroup gid (fun g => { g with idemr := some { r with due := some (r.due.getD addr) } }) s)
      else
        let a := r.due.getD addr
        .next (dayGroup 0x04 g 0 r.id a r.pc
          (modGroup gid (restartGroup (clkAt s g) r a) (abandonTiles gid r.first (withdrawWaits gid s))))

/-! ### The watchdog -/

/-- The watchdog limit in ns (R407). -/
def watchdogLimit (s : State) : Nat := fieldW s.recovb 24 8 * 100000000

/-- Whether a strand of a group without progress is stalled at issue (R407): a live one that the issue stage considers, and where the whole group is
stalled, the one that stands at the instruction which stalls it. -/
def stalledAtIssue (g : Group) (t : Strand) : Bool :=
  t.hold == .none && (consideredStrands g).contains t && (match g.stall with | some (_, pc) => pc == t.pc | none => true)

/-- The strand that a watchdog trap stops (R407): the one that began a whole-group wait, else the strand held in an instruction, at issue or after
it, with the lowest lowest lane. -/
def watchdogStrand (g : Group) : Option Strand :=
  let low := fun (l : List Strand) => (List.range 128).findSome? (fun n => l.find? (fun t => t.mask.getLsbD n))
  match (allStrands g).find? (fun t => t.hold.stopsGroup) with
  | some t => some t
  | none => match low ((allStrands g).filter (fun t => t.hold != .none || stalledAtIssue g t)) with
    | some t => some t
    | none => low (allStrands g)

/-- What a withdrawn wait leaves for its instruction when it is executed again (R407): a FORK's child, an ENQ's index, a PBAR's
episode. -/
def contOf (t : Strand) : Option (DWord × Resume) :=
  match t.hold with
  | .forkChild c => some (t.pc, .child c)
  | .enq q i p d => some (t.pc, .enq q i p d)
  | .pbar c b e _ => some (t.pc, .pbar c b e)
  | _ => none

/-- A strand whose wait is withdrawn executes its instruction again (R407); one that an operation holds, once that has ended. -/
def withdrawStrand (t : Strand) : Strand :=
  match t.hold with
  | .none | .split | .op _ => t
  | _ => { t with hold := .none, replay := if t.pend = 0 then t.replay else some t.pend, pend := 0 }

/-- Withdraws the current waits of a group (R407), but for the operation that holds the strand t. -/
def withdrawGroup (g : Group) (t : Strand) (s : State) : State :=
  let s1 := modGroup g.id (fun h =>
    { endBins (allStrands g) (mapStrands withdrawStrand h) with stall := none, cont := firstSome ((allStrands g).map contOf) }) s
  ((heldOps g).filter (fun id => t.hold != .op id)).foldl (fun s id => endOp g.id id .again s) s1

/-- The replay mask with which a watchdog trap leaves its strand (R154). -/
def watchdogReplay (t : Strand) (g : Group) : Group :=
  match (focusStrand ((lowestLane t.mask).getD 0) g).strand.replay with
  | some m => { focusStrand ((lowestLane t.mask).getD 0) g with replay := some (t.pc, m) }
  | none => focusStrand ((lowestLane t.mask).getD 0) g

/-- Whether an operation of a group is being brought to an end already. -/
def endsAlready (g : Group) (id : Nat) : Bool := match findOp id g with | some o => o.ending.isSome | none => false

/-- WATCHDOG (R407): a group without progress for the limit traps, and its waits are withdrawn; a strand that an operation holds traps
once the operation's remote lanes have been withdrawn (log entry 82). -/
def execWatchdog (gid : Nat) (s : State) : Result :=
  match findGroup gid s with
  | none => .next s
  | some g =>
    if !timerRuns s g || decide (g.noProg < watchdogLimit s) || (getGang s g.gang).status == .aborting then .next s
    else match watchdogStrand g with
      | none => .next s
      | some t =>
        let us := dw (g.noProg / 1000)
        match t.hold with
        | .op id =>
          if endsAlready g id then .next s
          else .next (endOp gid id (.watchdog us) (dayGroup 0x05 g 0 0 us t.pc (withdrawGroup g t s)))
        | _ =>
          .next (takeTrap (trapOf .watchdog us)
            (modCur (watchdogReplay t) (focus gid (dayGroup 0x05 g 0 0 us t.pc (withdrawGroup g t s)))))

end Sys2Proof.Machine
end

