-- ==== Sys2Proof/Machine/System.lean ====
section
/-! DEFINITION. The system registers and the return from a trap: SRD, SWR, RETT (R95, R96, R211, R212). -/

namespace Sys2Proof.Machine

/-- SR_OCNT (R40). -/
def ocnt (g : Group) : Nat := g.cntL.toNat + g.cntS.toNat * 2 ^ 8 + g.cntC.toNat * 2 ^ 16 + g.cntT.toNat * 2 ^ 24

/-- The shape code of a register in SR_SHPA to SR_SHPO (R30, R31): 3 where it is not present. -/
def shapeCode (g : Group) (r : Nat) : Nat :=
  if !declared g r then 3 else match readReg g r with | .u _ => 0 | .a _ _ => 1 | .g _ => 2

/-- The j-th shape register (R31). -/
def shapeWord (g : Group) (j : Nat) : Nat := (List.range 16).foldl (fun n i => n + shapeCode g (16 * j + i) * 2 ^ (2 * i)) 0

/-- SR_SLOT (R284). -/
def slotReg (s : State) : Nat := boolNat s.tbase.inrota * 2 ^ 31 + rotaPhase s * 2 ^ 16 + rotaSlot s

/-- The enabled cores of a partition: 92 less the cores retired (R413, R414). -/
def enabledCores (s : State) (part : Nat) : Nat :=
  Config.coresPerDie - (s.repairs.filter (fun r => match r with | .core p _ => p == part | .bank _ _ => false | .row _ => false | .lane _ => false)).length

/-- SR_CAPA to SR_CAPD (R350). -/
def capReg (s : State) (k : Nat) : Nat :=
  let g := s.cur
  match k with
  | 0 => deviceBytes s / 2 ^ 20 * 2 ^ 32 + 0x0100 * 2 ^ 16 + s.code.toNat
  | 1 => s.lgpod * 2 ^ 12 + pkgId s
  | 2 => (getCore s g.part g.core).words * 2 ^ 32 +
      (List.range 4).foldl (fun n p => n + enabledCores s p * 2 ^ (7 * p)) 0
  | _ => g.part * 2 ^ 30 + g.core * 2 ^ 23 + g.ctx

/-- The value of a kernel's system register (R95, R96); none where the number is not assigned. -/
def srRead (s : State) (n : Nat) : Option DWord :=
  let g := s.cur
  if n = 0x00 then some (zext g.tcause)
  else if n = 0x01 then some g.tval
  else if n = 0x02 then some g.tpc
  else if n = 0x03 then some (dw (boolNat g.inTrap))
  else if n = 0x04 then some (dw (ocnt g))
  else if n = 0x05 then some (zext g.sig)
  else if n = 0x06 then some (match g.idemr with | some r => r.pc | none => 0)
  else if n = 0x07 then some (match g.region with | some r => r.handler | none => 0)
  else if n = 0x08 then some (zext g.rckp)
  else if n = 0x09 then some (zext g.cchn)
  else if n = 0x0A then some (zext g.ccnt)
  else if 0x0C ≤ n && n ≤ 0x0F then some (zext (g.kmask.extractLsb' (32 * (n - 0x0C)) 32))
  else if 0x10 ≤ n && n ≤ 0x1E then some (dw (shapeWord g (n - 0x10)))
  else if n = 0x40 then some s.time
  else if n = 0x41 then some (dw (slotReg s))
  else if n = 0x42 then some (dw (rotaCycle s))
  else if n = 0x43 then some (s.relayq.setWidth 64)
  else if 0x50 ≤ n && n ≤ 0x5F then some (Sparse.get 0 g.pgrp (n - 0x50))
  else if 0x60 ≤ n && n ≤ 0x63 then some (zext (g.feb.getD (n - 0x60) 0))
  else if 0x80 ≤ n && n ≤ 0x83 then some (dw (capReg s (n - 0x80)))
  else none

/-- A kernel's write of a system register: the writable ones take the value, the others ignore it (R211). -/
def srWrite (n : Nat) (v : DWord) (g : Group) : Group :=
  if n = 0x01 then { g with tval := v }
  else if n = 0x02 then { g with tpc := v &&& ~~~3#64 }
  else if 0x50 ≤ n && n ≤ 0x5F then { g with pgrp := Sparse.set 0 g.pgrp (n - 0x50) v }
  else g

/-- The access check of a system register's number (R95). -/
def srTrap (s : State) (n : BitVec 16) : Option Trap :=
  if n.getLsbD 15 then some (trapOf .protect (n.setWidth 64))
  else if (srRead s n.toNat).isNone then some (trapOf .reservedField (n.setWidth 64))
  else none

/-- SRD (R211): the value as U in the lanes of the strand. -/
def execSrd (d : RegCode) (n : BitVec 16) (s : State) : Result :=
  issueStrand (.srd d n) (fun s =>
    orTrap (srTrap s n) (fun s =>
      let v := (srRead s n.toNat).getD 0
      writeBack (activeLanes s.cur)
        (destWrites s.cur (wrOp d) (if srWide n then [.u (loHalf v), .u (hiHalf v)] else [.u (loHalf v)])) s) s) s

/-- SWR (R211): lane 0's value of d, or of the pair. -/
def execSwr (d : RegCode) (n : BitVec 16) (s : State) : Result :=
  issueStrand (.swr d n) (fun s =>
    orTrap (srTrap s n) (fun s =>
      let v := opPair s ((rdOp 0 d).pair true) 0
      .next (modCur (fun g => nextPc (srWrite n.toNat v g)) s)) s) s

/-- RETT (R212). -/
def execRett (s : State) : Result :=
  issueStrand .rett (fun s =>
    if s.cur.inTrap then .next (modCur (returnFromTrap (clkOf s)) s)
    else .next (takeTrap (trapOf .illegalOpcode (zext (wordOf .rett))) s)) s

end Sys2Proof.Machine
end

