-- ==== Sys2Proof/Machine/Teams.lean ====
section
/-! DEFINITION. Teams: what a team takes of a core, where it fits, its start, its retirement, the ramps, and saving and restoring
it (R7, R22, R29, R94, R213, R215 to R218, R243 to R245, R333, R336, R363 to R367). -/

namespace Sys2Proof.Machine

/-! ### What a team takes -/

/-- Register words of a group of w lanes under a header (R22). -/
def groupWords (h : KHeader) (w : Nat) : Nat :=
  h.ng * w + 2 * (h.n - h.ng) + (if h.n ≤ 238 then 4 else if h.n = 239 then 2 else 0)

/-- Scratchpad bytes of a team's allocation on each of its cores (R218). -/
def allocBytes (h : KHeader) : Nat := h.scratch + h.team / 8 * (16 * h.shelf + h.rckpt)

/-- The scratchpad size of a carve-out code (R243). -/
def carveBytes : Nat → Nat
  | 0 => 0 | 1 => 32768 | 2 => 65536 | 3 => 131072 | 4 => 196608 | _ => 262144

/-- The least carve-out code of a core that admits a team (R243): its header's, or the smallest that holds its allocation. -/
def carveNeed (h : KHeader) : Nat :=
  max (if h.carve = 0xFF then 0 else h.carve) (((List.range 6).find? (fun c => decide (allocBytes h ≤ carveBytes c))).getD 5)

/-- Where the lane block of a lane base lies: on the follower or not, and its position among that core's blocks (R215). -/
def blockSide (pair : Bool) (base : Nat) : Bool × Nat :=
  let j := base / 128
  if pair then (j % 2 == 1, j / 2) else (false, j)

/-- The groups with which a team starts, as lane bases and log2 widths (R94, R217). -/
def startGroups (h : KHeader) : List (Nat × Nat) := (List.range (h.team / 2 ^ h.lgw)).map (fun k => (k * 2 ^ h.lgw, h.lgw))

/-- The lowest place of a pool that no area of a list overlaps (R243, R363). -/
def freeArea (areas : List (Nat × Nat)) (base len size : Nat) : Option Nat :=
  let ok := fun (a : Nat) => decide (base ≤ a) && decide (a + size ≤ base + len) && !areas.any (fun e => decide (a < e.1 + e.2) && decide (e.1 < a + size))
  ((base :: areas.map (fun e => e.1 + e.2)).filter ok).foldl (fun m a => match m with
    | some b => some (min a b)
    | none => some a) none

/-- The quarter of a lane base, the first block lying in quarter q0 (R215). -/
def quarterOf (pair : Bool) (q0 base : Nat) : Nat := (q0 + (blockSide pair base).2) % 4

/-- The groups of a list that lie on one core of a team. -/
def onSide (pair follower : Bool) (gs : List (Nat × Nat)) : List (Nat × Nat) := gs.filter (fun b => (blockSide pair b.1).1 == follower)

/-- What is taken of a core: lanes and slots of each quarter, register words, scratchpad bytes, tiles (R333). -/
structure Load where
  lanes : List Nat
  slots : List Nat
  words : Nat
  bytes : Nat
  tiles : Nat
  deriving DecidableEq, Repr

/-- An empty core. -/
def Load.zero : Load := { lanes := [0, 0, 0, 0], slots := [0, 0, 0, 0], words := 0, bytes := 0, tiles := 0 }

/-- Two loads together. -/
def Load.plus (a b : Load) : Load :=
  { lanes := List.zipWith (· + ·) a.lanes b.lanes, slots := List.zipWith (· + ·) a.slots b.slots,
    words := a.words + b.words, bytes := a.bytes + b.bytes, tiles := a.tiles + b.tiles }

/-- What a team of given groups takes of one of its cores. -/
def teamLoad (h : KHeader) (q0 : Nat) (follower : Bool) (gs : List (Nat × Nat)) : Load :=
  let mine := onSide h.pair follower gs
  let inQ := fun (q : Nat) => mine.filter (fun b => quarterOf h.pair q0 b.1 == q)
  { lanes := (List.range 4).map (fun q => ((inQ q).map (fun b => 2 ^ b.2)).sum),
    slots := (List.range 4).map (fun q => (inQ q).length),
    words := (mine.map (fun b => groupWords h (2 ^ b.2))).sum, bytes := allocBytes h, tiles := h.tiles }

/-- Whether a team holds a core. -/
def teamOnCore (t : Team) (part core : Nat) : Bool :=
  t.status == .running && t.part == part && (t.core == core || (t.hdr.pair && t.core + 1 == core))

/-- Whether a core holds a team (R336). -/
def coreHolds (s : State) (part core : Nat) : Bool := s.teams.any (fun e => teamOnCore e.2 part core)

/-- What the resident groups and teams take of a core. -/
def residentLoad (s : State) (part core : Nat) : Load :=
  let gs := (groups s).filter (fun g => g.part == part && g.core == core)
  let inQ := fun (q : Nat) => gs.filter (fun g => g.quarter == q)
  let ts := s.teams.filter (fun e => teamOnCore e.2 part core)
  { lanes := (List.range 4).map (fun q => ((inQ q).map width).sum),
    slots := (List.range 4).map (fun q => (inQ q).length),
    words := (gs.map (fun g => groupWords g.hdr (width g))).sum,
    bytes := (ts.map (fun e => allocBytes e.2.hdr)).sum, tiles := (ts.map (fun e => e.2.hdr.tiles)).sum }

/-- The groups of a saved team, as lane bases and log2 widths. -/
def savedGroups (t : Team) : List (Nat × Nat) := t.saves.map (fun r => (r.base, r.lgw))

/-- The place that is reserved for the restore of a saved team (R336). -/
def bookedPlace (t : Team) : Place := { key := coreKey t.part t.core, quarter := t.quarter, scrAt := t.scrAt, scrAtF := t.scrAtF, wins := [] }

/-- The places that are reserved, each with its header and the groups that are to start there (R333, R336). -/
def reservedPlaces (s : State) : List (Place × KHeader × List (Nat × Nat)) :=
  s.gangs.flatMap (fun e => e.2.places.map (fun p => (p, e.2.hdr, startGroups e.2.hdr))) ++
  (s.teams.filter (fun e => e.2.booked)).map (fun e => (bookedPlace e.2, e.2.hdr, savedGroups e.2))

/-- Whether a place takes a core as its leader's (false) or its follower's (true). -/
def Place.side (p : Place) (h : KHeader) (part core : Nat) : Option Bool :=
  if p.key = coreKey part core then some false
  else if h.pair && p.key + 1 = coreKey part core then some true else none

/-- What the reservations that have been accepted, and whose teams have not started, take of a core (R333). -/
def reservedLoad (s : State) (part core : Nat) : Load :=
  (reservedPlaces s).foldl (fun l x => match x.1.side x.2.1 part core with
    | some f => l.plus (teamLoad x.2.1 x.1.quarter f x.2.2)
    | none => l) Load.zero

/-- The scratchpad ranges of a core that allocations of resident teams and of reservations take (R243). -/
def scrAreas (s : State) (part core : Nat) : List (Nat × Nat) :=
  (s.teams.filter (fun e => teamOnCore e.2 part core)).map (fun e =>
    (if e.2.core = core then e.2.scrAt else e.2.scrAtF, allocBytes e.2.hdr)) ++
  (reservedPlaces s).filterMap (fun x => (x.1.side x.2.1 part core).map (fun f =>
    (if f then x.1.scrAtF else x.1.scrAt, allocBytes x.2.1)))

/-- Where an allocation would lie on a core: the lowest contiguous range of its scratchpad ways that is free (R243). -/
def scrPlace (s : State) (part core size : Nat) : Option Nat :=
  freeArea (scrAreas s part core) 0 (carveBytes (getCore s part core).carve) size

/-- Where the allocations of a team placed on a core lie, on its leader and its follower. -/
def scrPlaces (s : State) (part core : Nat) (h : KHeader) : Nat × Nat :=
  ((scrPlace s part core (allocBytes h)).getD 0, if h.pair then (scrPlace s part (core + 1) (allocBytes h)).getD 0 else 0)

/-- Whether a load lies within a core's limits (R7, R22, R217, R243). -/
def Load.within (l : Load) (c : Core) (code : Nat) : Bool :=
  l.lanes.all (fun n => decide (n ≤ 512)) && decide (l.lanes.sum ≤ 2048) && l.slots.all (fun n => decide (n ≤ 32)) &&
  decide (l.words ≤ c.words) && decide (l.bytes ≤ carveBytes code) && decide (l.tiles ≤ 4)

/-- Whether a core may ever serve a header's team: enabled, in service, with the words that the header asks for (R365, R406). -/
def coreServes (s : State) (part core : Nat) (h : KHeader) : Bool :=
  let c := getCore s part core
  decide (core < enabledCores s part) && c.service && decide (h.minwords ≤ c.words)

/-- The cores of a team placed on a core: for a pair team the core pair (R215). -/
def teamCores (h : KHeader) (core : Nat) : List (Nat × Bool) := if h.pair then [(core, false), (core + 1, true)] else [(core, false)]

/-- Whether a team fits on a core beside what is there and what is reserved (R217, R243, R333). -/
def fits (s : State) (part core q0 : Nat) (h : KHeader) (gs : List (Nat × Nat)) : Bool :=
  (!h.pair || core % 2 == 0) &&
  (teamCores h core).all (fun c =>
    let k := getCore s part c.1
    coreServes s part c.1 h && decide (carveNeed h ≤ k.carve) && (scrPlace s part c.1 (allocBytes h)).isSome &&
    Load.within ((residentLoad s part c.1).plus ((reservedLoad s part c.1).plus (teamLoad h q0 c.2 gs))) k k.carve)

/-- The first quarter from which a team fits on a core. -/
def fitQuarter (s : State) (part core : Nat) (h : KHeader) (gs : List (Nat × Nat)) : Option Nat :=
  (List.range 4).find? (fun q => fits s part core q h gs)

/-- Whether a team fits some core of a partition that is idle (R333, R365). -/
def fitsIdle (s : State) (part : Nat) (h : KHeader) (gs : List (Nat × Nat)) : Bool :=
  (List.range Config.coresPerDie).any (fun core =>
    (!h.pair || core % 2 == 0) && (List.range 4).any (fun q => (teamCores h core).all (fun c =>
      coreServes s part c.1 h && Load.within (teamLoad h q c.2 gs) (getCore s part c.1) 5)))

/-! ### Ramps -/

/-- The window of the time counter (R336). -/
def windowNow (s : State) : Nat := s.time.toNat / 100

/-- The window in whose first moments a team starts: one that begins within 32 ns of now (R336). -/
def startWindow (s : State) : Nat := (s.time.toNat + 32) / 100

/-- Whether a window begins within 32 ns of now (R336). -/
def atWindowStart (s : State) : Bool := (s.time.toNat + 32) % 100 ≤ 64

/-- Entries of a list of (partition, window). -/
def windowCount (l : List (Nat × Nat)) (part w : Nat) : Nat := (l.filter (fun e => e.1 == part && e.2 == w)).length

/-- A list of (partition, window) without windows long past at a present one, and with one more. -/
def noteWindow (now : Nat) (l : List (Nat × Nat)) (part w : Nat) : List (Nat × Nat) :=
  l.filter (fun e => decide (now ≤ e.2 + 16)) ++ [(part, w)]

/-- The idle cores of a team placed on a core. -/
def idleCores (s : State) (part core : Nat) (h : KHeader) : List Nat :=
  ((teamCores h core).map (·.1)).filter (fun c => !(getCore s part c).clocked)

/-- Room for n activations in a window, beside those that have taken place in it or are assigned to it (R336). -/
def rampRoom (s : State) (part w n : Nat) : Bool := decide (windowCount s.ups part w + n ≤ s.rampUp.toNat)

/-- Cores of a partition go from idle to clocked in a window (R336). -/
def clockCores (part w : Nat) (l : List Nat) (s : State) : State :=
  l.foldl (fun s c => setCore part c { getCore s part c with clocked := true } { s with ups := noteWindow (windowNow s) s.ups part w }) s

/-- An activation is assigned to a window (R336). -/
def takeWindow (part w : Nat) (s : State) : State := { s with ups := noteWindow (windowNow s) s.ups part w }

/-- An assignment that is not used is given back. -/
def freeWindow (part w : Nat) (s : State) : State := { s with ups := s.ups.erase (part, w) }

/-- The first window from one on with room for an activation (R336); n bounds the search. -/
def roomyWindow (s : State) (part : Nat) : Nat → Nat → Nat
  | 0, w => w
  | n + 1, w => if rampRoom s part w 1 then w else roomyWindow s part n (w + 1)

/-- Assigns the idle cores of a team their windows: to each the earliest with room from one on, a follower's not before its leader's
(R336). -/
def assignWindows (part : Nat) : List Nat → Nat → State → State × List (Nat × Nat)
  | [], _, s => (s, [])
  | c :: l, w, s =>
    let v := roomyWindow s part 4096 w
    let r := assignWindows part l v (takeWindow part v s)
    (r.1, (c, v) :: r.2)

/-- The assignments of a place whose cores are still idle. -/
def pendingWins (s : State) (part : Nat) (p : Place) : List (Nat × Nat) := p.wins.filter (fun e => !(getCore s part e.1).clocked)

/-- The places of a gang that ends give back the windows assigned to them. -/
def freePlaces (gid : Nat) (s : State) : State :=
  (getGang s gid).places.foldl (fun s p => (pendingWins s (p.key / 128) p).foldl (fun s e => freeWindow (p.key / 128) e.2 s) s) s

/-- What comes of a team's start at a time: it starts, its leader alone is clocked, or nothing. -/
inductive Activation where
  | ready (s : State)
  | half (s : State)
  | none
  deriving DecidableEq, Repr

/-- Activates the idle cores that a spawned or a restored team needs in the present window; where there is room for one of a pair's two, its
leader, and the team starts with a later window (R336). -/
def activate (part core : Nat) (h : KHeader) (s : State) : Activation :=
  let w := startWindow s
  match idleCores s part core h with
  | [] => .ready s
  | l =>
    if !atWindowStart s then .none
    else if rampRoom s part w l.length then .ready (clockCores part w l s)
    else if l.length = 2 && rampRoom s part w 1 then .half (clockCores part w (l.take 1) s)
    else .none

/-- Whether a place on a core is reserved: a core activated for a pair stays clocked until its team starts (R336). -/
def coreReserved (s : State) (part core : Nat) : Bool := (reservedPlaces s).any (fun x => (x.1.side x.2.1 part core).isSome)

/-- A core whose last team has gone becomes idle where the window has room, and stays clocked where not (R336). -/
def idleCore (part core : Nat) (s : State) : State :=
  let c := getCore s part core
  if !c.clocked || coreHolds s part core || coreReserved s part core then s
  else if decide (windowCount s.downs part (windowNow s) < s.rampDn.toNat) then
    setCore part core { c with clocked := false } { s with downs := noteWindow (windowNow s) s.downs part (windowNow s) }
  else s

/-- RAMP_DOWN_IDLE (R336): a core kept clocked and empty goes idle. -/
def execRampDownIdle (part core : Nat) (s : State) : Result := .next (idleCore part core s)

/-! ### Starting -/

/-- Groups of a list take the lowest free slots of their quarters; f makes each group from its place. -/
def seatGroups (h : KHeader) (part core q0 : Nat) (f : Nat × Nat → Group) : List (Nat × Nat) → State → State
  | [], s => s
  | b :: l, s =>
    let side := blockSide h.pair b.1
    let q := quarterOf h.pair q0 b.1
    let c := if side.1 then core + 1 else core
    let slot := (freeSlot s part c q).getD 0
    let g := f b
    seatGroups h part core q0 f l
      (addGroup { g with id := s.nextId, part := part, core := c, follower := side.1, quarter := q, slot := slot }
        { s with nextId := s.nextId + 1 })

/-- A group at its start (R29, R251). -/
def freshGroup (s : State) (tid : Nat) (t : Team) (b : Nat × Nat) : Group :=
  let m := fullMask (2 ^ b.2)
  { Group.vacant with
    live := true, team := tid, gang := t.gang, ctx := t.ctx, base := b.1, lgw := b.2, teamIdx := t.index, hdr := t.hdr, kmask := m,
    feb := t.hdr.budgets, strand := newStrand t.hdr.entry m false (clkOf s), lastSwap := clkOf s,
    regs := Sparse.set (.u 0) (Sparse.set (.u 0) [] 0 (.u (t.args.extractLsb' 0 32))) 1 (.u (t.args.extractLsb' 32 32)) }

/-- The number of teams of a gang that go to a partition (R94). -/
def teamsBound (g : Gang) (part : Nat) : Nat :=
  if !g.rcd.parts.getLsbD part then 0
  else if g.rcd.expl then g.rcd.counts.getD part 0
  else
    let ps := (List.range 4).filter (fun p => g.rcd.parts.getLsbD p)
    let m := ps.length
    let r := (ps.takeWhile (fun p => p != part)).length
    g.rcd.teams / m + (if r < g.rcd.teams % m then 1 else 0)

/-- The place that is reserved for the next team of a gang on a partition. -/
def placeOn (g : Gang) (part : Nat) : Option Place := g.places.find? (fun p => p.key / 128 == part)

/-- The state without the place that is reserved for the next team of a gang on a partition. -/
def withoutPlace (gid part : Nat) (s : State) : State :=
  let g := getGang s gid
  setGang gid { g with places := match placeOn g part with | some p => g.places.erase p | none => g.places } s

/-- Places a team of a gang and starts its groups (R29, R94, R215, R243, R245). -/
def placeTeam (gid part core q0 : Nat) (s : State) : State :=
  let s0 := withoutPlace gid part s
  let g := getGang s0 gid
  let (tid, s1) := freshId s0
  let t : Team := { Team.vacant with status := .running, id := tid, gang := gid, ctx := g.ctx, index := wd (g.next.getD part 0),
                                     part := part, core := core, quarter := q0, hdr := g.hdr, main := g.hdr, fallback := g.fallback,
                                     scrAt := (scrPlaces s0 part core g.hdr).1, scrAtF := (scrPlaces s0 part core g.hdr).2, args := g.rcd.args }
  let s2 := setGang gid { g with next := g.next.set part (g.next.getD part 0 + 1) } (setTeam tid t s1)
  seatGroups g.hdr part core q0 (freshGroup s tid t) (startGroups g.hdr) s2

/-! ### Saving -/

/-- The save-area bytes that a group may need: those of its largest safe-point entry (R91, R363). -/
def areaSize (h : KHeader) : Nat := h.table.foldl (fun m e => max m e.bytes) 0

/-- Reserves one save area for each group of a list; none where the pool does not hold them all (R363). -/
def reserveAreas (ctx : Nat) : List Group → State → Option State
  | [], s => some s
  | g :: l, s =>
    let c := getCtx s ctx
    match freeArea c.areas c.savebase c.savelen (areaSize g.hdr) with
    | none => none
    | some a => reserveAreas ctx l
        (modGroup g.id (fun g => { g with preempt := true, saveArea := dw a }) (setCtx ctx { c with areas := c.areas ++ [(a, areaSize g.hdr)] } s))

/-- Frees a save area (R366). -/
def dropArea (ctx : Nat) (area : DWord) (s : State) : State :=
  let c := getCtx s ctx
  setCtx ctx { c with areas := c.areas.filter (fun e => e.1 != area.toNat) } s

/-- The safe-point entry of the SAFE that stands four bytes before a strand's instruction (R169, R191, R192). -/
def safeBefore (s : State) (g : Group) (t : Strand) : Option SafePoint :=
  match nextInstr { t with pc := t.pc - 4 } g s with
  | some (.safe i) => safeEntry g i.toNat
  | _ => none

/-- The full/empty wait of a strand that can be backed out to its SAFE (R169): no lane of it has completed. -/
def backsOut (s : State) (g : Group) (t : Strand) : Option Nat :=
  match t.hold with
  | .op id => match findOp id g with
    | some o =>
      let waits := match o.kind with | .fe .ldwt | .fe .ldcn | .fe .stfl => true | _ => false
      if waits && !o.again && o.ending.isNone && o.lanes.all (fun l => !l.done) && (safeBefore s g t).isSome then some id else none
    | none => none
  | _ => none

/-- Backs a pre-empt-pending group out of a full/empty wait (R169): the attempts and records are withdrawn, and the strand stands at
the SAFE once every target has acknowledged the withdrawal. -/
def backOut (gid : Nat) (s : State) : State :=
  match findGroup gid s with
  | none => s
  | some g => (allStrands g).foldl (fun s t => match backsOut s g t with
      | some id => endOp gid id .backOut s
      | none => s) s

/-- Marks a team pre-empt-pending (R332, R363); none where the save pool does not hold its areas. -/
def markTeam (tid : Nat) (s : State) : Option State :=
  let gs := (teamGroups s tid).filter (fun g => !g.preempt && g.saving.isNone)
  (reserveAreas (getTeam s tid).ctx gs s).map (fun s1 => gs.foldl (fun s g => backOut g.id s) s1)

/-- The waiting launches of a kind are to be offered again (R334). -/
def offerAgain (p : Gang → Bool) (s : State) : State :=
  { s with gangs := s.gangs.map (fun e => if e.2.status == .waiting && p e.2 then (e.1, { e.2 with freed := true }) else e) }

/-- A team on a partition has retired or parked: the launches that the partition refused are offered again (R334). -/
def roomFreed (part : Nat) (s : State) : State := offerAgain (fun g => g.refused.contains part) s

/-- The carve-out of a core of a partition has changed: the launches that name the partition are offered again (R334). -/
def carveChanged (part : Nat) (s : State) : State := offerAgain (fun g => g.rcd.parts.getLsbD part) s

/-- Releases what a team holds on its cores once it is saved (R213, R367): scratchpad, tiles, streams and auctions. -/
def releaseTeam (t : Team) (s : State) : State :=
  let s1 := { s with auctions := s.auctions.filter (fun a => a.team != t.id), locks := s.locks.filter (fun l => l.team != t.id) }
  ((teamCores t.hdr t.core).map (·.1)).foldl (fun s c => idleCore t.part c s) (roomFreed t.part s1)

/-- A team whose remaining groups have all parked is saved whole (R213, R364). -/
def saveTeam (tid : Nat) (s : State) : State :=
  let t := getTeam s tid
  let s1 := dropGroups (fun g => g.team == tid)
    (setTeam tid { Team.vacant with status := .saved, id := t.id, gang := t.gang, ctx := t.ctx, index := t.index, part := t.part,
                                    core := t.core, quarter := t.quarter, saveAt := t.saveAt,
                                    spawned := t.spawned, hdr := t.hdr, main := t.main, fallback := t.fallback, args := t.args, saves := t.saves } s)
  releaseTeam t s1

/-- Whether every group of a team that has not retired has parked. -/
def allParked (s : State) (tid : Nat) : Bool := (teamGroups s tid).all (fun g => g.parked) && !(teamGroups s tid).isEmpty

/-- The save record of a parking group (R363). -/
def parkRecord (g : Group) : SaveRecord :=
  { base := g.base, lgw := g.lgw, exited := g.exited, safe := (g.saving.map (·.1)).getD 0, area := g.saveArea,
    cont := match g.cont with | some (_, r) => r | none => .none }

/-! ### Restoring -/

/-- The address at which a restored group's save area is free again, and FORK and ENQ go on: the one after its header's SAFE (R366). -/
def afterSite (h : KHeader) (id : Nat) : DWord := match h.table.find? (fun e => e.id == id) with | some e => e.site + 4 | none => 0

/-- The restore routine of a safe point under a header. -/
def restorePc (h : KHeader) (id : Nat) : DWord := match h.table.find? (fun e => e.id == id) with | some e => e.restore | none => 0

/-- The safe-point bytes of an entry. -/
def safeBytes (h : KHeader) (id : Nat) : Nat := match h.table.find? (fun e => e.id == id) with | some e => e.bytes | none => 0

/-- A restored group (R366). -/
def restoredGroup (s : State) (tid : Nat) (t : Team) (r : SaveRecord) : Group :=
  let g := freshGroup s tid t (r.base, r.lgw)
  let m := fullMask (2 ^ r.lgw) &&& ~~~r.exited
  { g with
    exited := r.exited, restoreArea := r.area, restoring := some (afterSite t.hdr r.safe),
    cont := match r.cont with | .none => none | c => some (afterSite t.hdr r.safe, c),
    strand := newStrand (restorePc t.hdr r.safe) m false (clkOf s),
    tregs := Sparse.set TReg.start [] 7
      { frame := r.area, base := r.area, limit := safeBytes t.hdr r.safe, perm := ⟨true, false, false, false, false⟩,
        mtype := .device, dirty := true, stale := false } }

/-- The save record of a parked group. -/
def recordOf (t : Team) (g : Group) : Option SaveRecord := t.saves.find? (fun r => r.base == g.base)

/-- A group restored in place from its save record (R364, R366). -/
def restoredHere (s : State) (tid : Nat) (t : Team) (r : SaveRecord) (g : Group) : Group :=
  startClock (clkAt s g)
    { restoredGroup s tid t r with id := g.id, part := g.part, core := g.core, follower := g.follower, quarter := g.quarter, slot := g.slot }

/-- A group as the cancelling of its team's save leaves it (R364): a parked one is restored in place, another loses its mark; one inside its save
routine goes on in it, and its PARK restores it (log entry 73). -/
def cancelGroup (s : State) (tid : Nat) (t : Team) (g : Group) : Group :=
  if g.parked then match recordOf t g with
    | some r => restoredHere s tid t r g
    | none => g
  else if g.saving.isSome then { g with preempt := false }
  else { g with preempt := false, saveArea := 0 }

/-- Cancels the save of a team (R364). -/
def cancelSave (tid : Nat) (s : State) : State :=
  let t := getTeam s tid
  let freed := (teamGroups s tid).filter (fun g => !g.parked && g.saving.isNone && g.preempt)
  mapGroups (fun g => g.team == tid) (cancelGroup s tid t)
    (freed.foldl (fun s g => dropArea t.ctx g.saveArea s) (setTeam tid { t with saves := [], saveAt := none } s))

/-- Whether the 100 µs since a team's first PARK are over (R364). -/
def saveLate (s : State) (tid : Nat) : Bool := match (getTeam s tid).saveAt with | some t0 => decide (t0.toNat + 100000 < s.time.toNat) | none => false

/-- Saves a team that has parked whole within 100 µs of its first PARK; one that has taken longer is restored (R364). -/
def settleTeam (tid : Nat) (s : State) : State := if !allParked s tid then s else if saveLate s tid then cancelSave tid s else saveTeam tid s

/-- A save area that a group was being restored from goes with the group's next save (R366). -/
def dropRestored (g : Group) (s : State) : State := if g.restoreArea = 0 then s else dropArea g.ctx g.restoreArea s

/-- PARK (R213, R363, R364): in a save routine only; it waits for the counters, and hands the group over; where the save has been cancelled it restores
the group. -/
def execPark (s : State) : Result :=
  issueStrand .park (fun s =>
    if s.cur.saving.isNone then .next (takeTrap (trapOf .illegalOpcode (zext (wordOf .park))) s)
    else if !countersZero s.cur then stallIssue s
    else
      let t := getTeam s s.cur.team
      let s0 := dropRestored s.cur s
      if !s.cur.preempt then .next (modCur (restoredHere s0 s.cur.team t (parkRecord s.cur)) s0)
      else
        let s1 := setTeam s.cur.team { t with saves := t.saves ++ [parkRecord s.cur], saveAt := some (t.saveAt.getD s.time) } s0
        .next (settleTeam s.cur.team (modCur (fun g =>
          { g with parked := true, restoreArea := 0, outs := [], strand := Strand.none, rest := [], shelf := [] }) s1))) s

/-- SAVE_CANCEL (R364): 100 µs after the first PARK a team that has not parked whole is restored in place. -/
def execSaveCancel (tid : Nat) (s : State) : Result :=
  match (getTeam s tid).saveAt with
  | some t0 =>
    if (getTeam s tid).status == .running && decide (t0.toNat + 100000 ≤ s.time.toNat) then .next (cancelSave tid s) else .next s
  | none => .next s

end Sys2Proof.Machine
end

