-- ==== Sys2Proof/Machine/FrontEnd.lean ====
section
/-! DEFINITION. What the command front end reads and writes: kernel headers, safe-point tables, launch records and handle lists (R89 to
R93, R343), queue records (R322, R324), completion words and the completion or rejection of a packet (R325 to R330, R434). -/

namespace Sys2Proof.Machine

/-! ### Reading -/

/-- What a read by the front end gives: a value, a page to wait for, a denial with its cause, or a rejection with its status (R329). -/
inductive Got (α : Type) where
  | ok (a : α)
  | wait (va : Nat) (paged : Bool)
  | deny (c : Cause)
  | err (code : Nat)
  deriving DecidableEq, Repr

/-- Goes on with the value of a read. -/
def Got.andThen {α β : Type} (x : Got α) (f : α → Got β) : Got β :=
  match x with
  | .ok a => f a
  | .wait v p => .wait v p
  | .deny c => .deny c
  | .err c => .err c

/-- Keeps a read's value where a check holds, else rejects with a status. -/
def Got.check {α : Type} (b : Bool) (code : Nat) (x : Got α) : Got α := if b then x else .err code

/-- Where an address of a context leads for the front end (R325, R327). -/
def frontPlace (s : State) (c : Nat) (addr : DWord) (k : AccKind) : Got (Nat × Loc) :=
  match addrForm s addr with
  | .plain va => match findLeaf s c 0 dieCore va with
    | .leaf l => if permits l.perm k then .ok (va, placeOf (l.pa + (va - l.va)) l.mtype) else .deny .protect
    | .absent p => .wait va p
    | .broken => .deny .page
  | .badForm => .deny .page
  | .noPackage | .pod _ _ | .window _ => .deny .protect

/-- The n bytes at an address of a context. -/
def frontBytes (s : State) (c : Nat) (addr : DWord) (n : Nat) : Got (List Byte) :=
  (frontPlace s c addr .rd).andThen (fun p =>
    if isPoisoned s 0 p.2 n then .deny .poison else .ok ((List.range n).map (fun i => readByte s 0 p.2 i)))

/-- A field of a list of bytes. -/
def fieldAt (bs : List Byte) (off n : Nat) : Nat := natLE ((bs.drop off).take n)

/-- Whether n bytes from an offset are 0. -/
def zeroAt (bs : List Byte) (off n : Nat) : Bool := ((bs.drop off).take n).all (fun b => b == 0)

/-- The status of a read that failed, in a launch (R329). -/
def Got.status {α : Type} : Got α → Nat
  | .err c => c
  | _ => 0x08

/-! ### Kernel headers -/

/-- The kernel header under which a bin's groups run (R92): a team of one group on one core. -/
def spawnKernel (h : KHeader) (lgw : Nat) (entry : DWord) : KHeader :=
  { h with lgw := lgw, team := 2 ^ lgw, pair := false, cores := false, tiles := 0, entry := entry }

/-- Whether an address is a multiple of 8. -/
def aligned8 (a : DWord) : Bool := a.toNat % 8 == 0

/-- The fields of a kernel header's bytes (R89). -/
def headerOf (bs : List Byte) : KHeader :=
  { n := fieldAt bs 0x06 1, ng := fieldAt bs 0x07 1, lgw := fieldAt bs 0x08 1,
    pair := (fieldAt bs 0x09 1).testBit 0, cores := (fieldAt bs 0x09 1).testBit 1, sigck := (fieldAt bs 0x09 1).testBit 2,
    idem := (fieldAt bs 0x09 1).testBit 3, team := fieldAt bs 0x0A 2, scratch := fieldAt bs 0x0C 4, carve := fieldAt bs 0x10 1,
    tiles := fieldAt bs 0x11 1, minwords := fieldAt bs 0x14 4, entry := dw (fieldAt bs 0x18 8), handler := dw (fieldAt bs 0x20 8),
    table := [], fallback := dw (fieldAt bs 0x38 8), budgets := (List.range 4).map (fun k => wd (fieldAt bs (0x40 + 4 * k) 4)),
    shelf := if fieldAt bs 0x50 2 = 0 then 16 else fieldAt bs 0x50 2, rckpt := fieldAt bs 0x52 2, codesize := fieldAt bs 0x54 4 }

/-- Whether a header's bytes keep the limits of R89 and the size limit of R90. -/
def headerLegal (bs : List Byte) : Bool :=
  let h := headerOf bs
  let sptab := fieldAt bs 0x28 8
  let shelf := fieldAt bs 0x50 2
  fieldAt bs 0 4 == 0x39514B48 && fieldAt bs 4 2 == 0x0100 && decide (2 ≤ h.n) && decide (h.n ≤ 240) && decide (h.ng ≤ h.n) &&
  decide (3 ≤ h.lgw) && decide (h.lgw ≤ 7) && decide (fieldAt bs 9 1 < 16) &&
  h.team % 2 ^ h.lgw == 0 && decide (2 ^ h.lgw ≤ h.team) && decide (h.team ≤ 1024) &&
  h.scratch % 16 == 0 && decide (h.scratch ≤ 262144) && (decide (h.carve ≤ 5) || h.carve == 0xFF) &&
  decide (h.tiles ≤ 4) && (h.tiles == 0 || h.pair) && zeroAt bs 0x12 2 &&
  decide (h.team / 2 ^ h.lgw * groupWords h (2 ^ h.lgw) ≤ h.minwords) && h.entry.toNat % 4 == 0 &&
  sptab % 32 == 0 && decide (fieldAt bs 0x30 4 ≤ 4096) && (sptab != 0 || fieldAt bs 0x30 4 == 0) && zeroAt bs 0x34 4 &&
  (shelf == 0 || (decide (4 ≤ shelf) && decide (shelf ≤ 256))) && h.rckpt % 16 == 0 && zeroAt bs 0x58 168 &&
  decide (allocBytes h ≤ 262144)

/-- A safe-point table entry (R91). -/
def safePointOf (bs : List Byte) : SafePoint :=
  { id := fieldAt bs 0 2, bytes := fieldAt bs 4 4, site := dw (fieldAt bs 8 8), save := dw (fieldAt bs 0x10 8), restore := dw (fieldAt bs 0x18 8) }

/-- The entries of a safe-point table (R91); one whose id[31:16] is not 0 is a bad header (R14, R329). -/
def readTable (s : State) (c : Nat) (addr : DWord) : Nat → Got (List SafePoint)
  | 0 => .ok []
  | n + 1 => (frontBytes s c addr 32).andThen (fun bs => Got.check (zeroAt bs 2 2) 0x03
      ((readTable s c (addr + 32) n).andThen (fun l => .ok (safePointOf bs :: l))))

/-- Whether no safe-point id occurs twice (R90). -/
def idsDistinct : List SafePoint → Bool
  | [] => true
  | e :: l => !l.any (fun f => f.id == e.id) && idsDistinct l

/-- Whether two tables have the same ids (R90). -/
def sameIds (a b : List SafePoint) : Bool :=
  a.all (fun e => b.any (fun f => f.id == e.id)) && b.all (fun e => a.any (fun f => f.id == e.id))

/-- A kernel header with its table, apart from its fallback (R89 to R91). -/
def readOneHeader (s : State) (c : Nat) (addr : DWord) : Got KHeader :=
  if addr.toNat % 256 ≠ 0 then .err 0x03
  else (frontBytes s c addr 256).andThen (fun bs =>
    Got.check (headerLegal bs) 0x03 ((readTable s c (dw (fieldAt bs 0x28 8)) (fieldAt bs 0x30 4)).andThen (fun l =>
      Got.check (idsDistinct l) 0x03 (.ok { headerOf bs with table := l }))))

/-- A kernel header, and its fallback where it names one, checked and read now (R78, R89, R90). -/
def readHeader (s : State) (c : Nat) (addr : DWord) : Got (KHeader × Option KHeader) :=
  (readOneHeader s c addr).andThen (fun h =>
    if h.fallback = 0 then .ok (h, none)
    else (readOneHeader s c h.fallback).andThen (fun f => Got.check (f.fallback == 0 && sameIds h.table f.table) 0x03 (.ok (h, some f))))

/-! ### Launch records -/

/-- A handle entry (R343): the id, the mode and DEP. -/
def handleEntry (n : Nat) : Nat × Nat × Bool := (bits n 0 32, bits n 32 2, n.testBit 34)

/-- The handle list of a launch record (R343). -/
def readHandles (s : State) (c : Nat) (addr : DWord) : Nat → Got (List (Nat × Nat × Bool))
  | 0 => .ok []
  | n + 1 => (frontBytes s c addr 8).andThen (fun bs =>
      let e := natLE bs
      Got.check (bits e 35 29 == 0 && bits e 32 2 != 0 && (getCtx s c).handles.any (fun h => h.id == bits e 0 32)) 0x02
        ((readHandles s c (addr + 8) n).andThen (fun l => .ok (handleEntry e :: l))))

/-- The fields of a launch record's bytes (R93). -/
def recordOfBytes (bs : List Byte) : LaunchRec :=
  { kernel := dw (fieldAt bs 0 8), teams := fieldAt bs 8 4, parts := BitVec.ofNat 4 (fieldAt bs 0x0C 1), expl := fieldAt bs 0x0D 1 == 1,
    prio := fieldAt bs 0x0E 1, cores := fieldAt bs 0x0F 1 == 1, counts := (List.range 4).map (fun k => fieldAt bs (0x10 + 4 * k) 4),
    args := dw (fieldAt bs 0x20 8), done := dw (fieldAt bs 0x28 8), value := dw (fieldAt bs 0x30 8), rscope := fieldAt bs 0x38 1,
    acq := BitVec.ofNat 3 (fieldAt bs 0x39 1), handles := [] }

/-- Whether a completion word may have an address (R93): 0, or an aligned one in device or host memory. -/
def donePlace (s : State) (done : DWord) : Bool :=
  done == 0 || (aligned8 done && (match addrForm s done with
    | .plain _ => true
    | .badForm => false
    | .noPackage | .pod _ _ | .window _ => false))

/-- Whether a launch record's bytes keep the table and the rules of R93, and its value lies outside the error range (R329). -/
def recordLegal (s : State) (bs : List Byte) : Bool :=
  let r := recordOfBytes bs
  let nh := fieldAt bs 0x3C 4
  decide (fieldAt bs 0x0C 1 < 16) && r.parts != 0 && decide (fieldAt bs 0x0D 1 ≤ 1) && decide (r.prio < 8) && decide (fieldAt bs 0x0F 1 < 2) &&
  (if r.expl then r.counts.sum == r.teams && (List.range 4).all (fun p => r.parts.getLsbD p || r.counts.getD p 0 == 0)
    else r.counts.all (fun n => n == 0)) &&
  donePlace s r.done && decide (2 ≤ r.rscope) && decide (r.rscope ≤ 4) && decide (fieldAt bs 0x39 1 < 8) && zeroAt bs 0x3A 2 &&
  decide (nh ≤ 256) && (nh != 0 || fieldAt bs 0x40 8 == 0) && zeroAt bs 0x48 56 && r.value.toNat / 256 != 2 ^ 56 - 1

/-- A launch record with its handle list (R93, R343). -/
def readRecord (s : State) (c : Nat) (addr : DWord) : Got LaunchRec :=
  (frontBytes s c addr 128).andThen (fun bs =>
    Got.check (recordLegal s bs) 0x02 ((readHandles s c (dw (fieldAt bs 0x40 8)) (fieldAt bs 0x3C 4)).andThen (fun l =>
      .ok { recordOfBytes bs with handles := l })))

/-- A launch record, its kernel header and the fallback (R78). -/
def readLaunch (s : State) (c : Nat) (addr : DWord) : Got (LaunchRec × KHeader × Option KHeader) :=
  (readRecord s c addr).andThen (fun r => (readHeader s c r.kernel).andThen (fun h => .ok (r, h)))

/-- The completion word of a launch record that could be read (R328); 0 where none is known. -/
def recordDone (s : State) (c : Nat) (addr : DWord) : DWord :=
  match frontBytes s c addr 128 with
  | .ok bs => if donePlace s (dw (fieldAt bs 0x28 8)) then dw (fieldAt bs 0x28 8) else 0
  | _ => 0

/-! ### Writing words -/

/-- Reports the page that the front end waits for (R178, R356). -/
def frontWait (c va : Nat) (k : AccKind) (paged : Bool) (s : State) : State := reportFault c va k 0 0 paged s

/-- Where the front end writes at an address of a context, with D set as the walk sets it (R358). -/
def frontTarget (c : Nat) (addr : DWord) (k : AccKind) (s : State) : Got (Nat × Loc) × State :=
  match addrForm s addr with
  | .plain va => match translate c 0 dieCore va k s with
    | (.ok pa m, s1) => (.ok (va, placeOf pa m), homeServes (placeOf pa m) 8 s1)
    | (.absent p, s1) => (.wait va p, s1)
    | (.page, s1) => (.deny .page, s1)
    | (.protect, s1) => (.deny .protect, s1)
  | .badForm => (.deny .page, s)
  | .noPackage | .pod _ _ | .window _ => (.deny .protect, s)

/-- The fill of a completion word (R337, R434): as STFU in device memory, where a poisoned word stays as it is (R396), a plain store in host memory,
nothing for 0. An absent page is waited for (none); a word that cannot be written is left (log entry 23). -/
def fillWord (c : Nat) (addr value : DWord) (s : State) : Option State :=
  if addr = 0 then some s
  else match frontTarget c addr .wr s with
    | (.ok (_, .host ha), s1) => some (writeBytes 0 (.host ha) 8 value.toNat s1)
    | (.ok _, s1) => match frontTarget c addr .feWrite s1 with
      | (.ok (va, loc), s2) =>
        some (if isPoisoned s2 0 loc 8 then s2 else match feAttempt .stfu c 0 va loc value s2 with | some (_, s3) => s3 | none => s2)
      | (_, s2) => some s2
    | (.wait _ _, _) => none
    | (_, s1) => some s1

/-- The state in which a fill waits for its page. -/
def fillHeld (c : Nat) (addr : DWord) (s : State) : State :=
  match frontPlace s c addr .wr with
  | .wait va p => frontWait c va .wr p s
  | _ => s

/-- An error value (R329). -/
def errorValue (code : Nat) : DWord := dw (0xFFFFFFFFFFFFFF00 + code)

/-! ### Queues -/

/-- The key of a queue among the queues of the package. -/
def queueKey (c q : Nat) : Nat := c * 64 + q

/-- A queue by its key (R322). -/
def getQueue (s : State) (k : Nat) : Queue := Sparse.get Queue.vacant s.queues k

/-- Replaces a queue. -/
def setQueue (k : Nat) (v : Queue) (s : State) : State := { s with queues := Sparse.set Queue.vacant s.queues k v }

/-- Writes bytes of a queue record (R322); where its page is absent the front end reports the fault and owes the write (R178). -/
def writeRecord (k off n v : Nat) (s : State) : State :=
  match frontTarget (k / 64) ((getQueue s k).rcd + dw off) .wr s with
  | (.ok (_, loc), s1) => writeBytes 0 loc n v s1
  | (.wait va p, s1) =>
    frontWait (k / 64) va .wr p (setQueue k { getQueue s1 k with owed := (getQueue s1 k).owed ++ [(off, n, v)] } s1)
  | (_, s1) => s1

/-- Reads bytes of a queue record (R322). -/
def readRecordField (s : State) (k off n : Nat) : Option Nat :=
  match frontPlace s (k / 64) ((getQueue s k).rcd + dw off) .rd with
  | .ok (_, loc) => some (readBytes s 0 loc n)
  | _ => none

/-- Sets flags of a queue's status (R322); where the record's page is absent they are owed. -/
def raiseStatus (k flags : Nat) (s : State) : State :=
  match readRecordField s k 0x18 1 with
  | some b => writeRecord k 0x18 1 (b ||| flags) s
  | none => setQueue k { getQueue s k with flags := (getQueue s k).flags ||| flags } s

/-- Records an index in last and in status[63:32] (R322, R324). -/
def setLast (k index : Nat) (s : State) : State :=
  writeRecord k 0x1C 4 index (writeRecord k 0x28 8 index (setQueue k { getQueue s k with last := dw index } s))

/-- Raises a queue's interrupt (R326, R337). -/
def queueInterrupt (k : Nat) (s : State) : State := interruptCtx (k / 64) (getQueue s k).vector s

/-- The slot of an index (R322). -/
def slotAddr (q : Queue) (index : Nat) : DWord := q.base + dw (64 * (index % 2 ^ q.lgslots))

/-- Where the first word of a slot lies, whatever its page permits: the steward and the front end make it empty (R322, R324). -/
def slotPlace (s : State) (k slot : Nat) : Option (Nat × Loc) :=
  match addrForm s (slotAddr (getQueue s k) slot) with
  | .plain va => match walk s (k / 64) va with
    | .leaf l => some (va, placeOf (l.pa + (va - l.va)) l.mtype)
    | _ => none
  | _ => none

/-- Makes the first word of a slot empty, with the wakes of a change to empty (R322, R325); where its page is absent that is owed. -/
def emptySlot (k slot : Nat) (s : State) : State :=
  match slotPlace s k slot with
  | some (va, loc) => if readFe s 0 loc then wake (k / 64) 0 va loc (writeFe 0 loc false s) else s
  | none =>
    let q := getQueue s k
    setQueue k { q with slots := q.slots.filter (fun i => i != slot) ++ [slot] } s

/-- Makes good what the front end owes to a queue's pages (R178, R322). -/
def payQueue (k : Nat) (s : State) : State :=
  let q := getQueue s k
  let s1 := q.slots.foldl (fun s i => emptySlot k i s) (setQueue k { q with owed := [], flags := 0, slots := [] } s)
  let s2 := q.owed.foldl (fun s w => writeRecord k w.1 w.2.1 w.2.2 s) s1
  if q.flags = 0 then s2 else raiseStatus k q.flags s2

/-- Adds a dropped or abandoned index to the skip set; a full set sets OVR and stops consumption (R324). -/
def skipIndex (k index : Nat) (s : State) : State :=
  let q := getQueue s k
  if 64 ≤ q.skip.length then raiseStatus k 1 (setQueue k { q with stopped := true } s)
  else setQueue k { q with skip := q.skip ++ [index] } s

/-- Whether the slot of an index that has been handed out is free for its packet (R323). -/
def slotFree (q : Queue) (index : Nat) : Bool := (dw index - q.cons).toNat < 2 ^ q.lgslots

/-- Whether the budget of an ENQ has run out (R192, R342). -/
def enqOver (s : State) (deadline : Option DWord) : Bool :=
  match deadline with
  | some d => decide (d.toNat ≤ s.time.toNat)
  | none => false

/-- Writes a packet into the slot of its index, the first word last as a fill (R192, R323): the poison that the fill meets there (R396); none where
the slot cannot be reached. -/
def placePacket (k index : Nat) (pkt : List Byte) (s : State) : Option (Option DWord × State) :=
  let q := getQueue s k
  match frontTarget (k / 64) (slotAddr q index) .feWrite s with
  | (.ok (va, loc), s1) =>
    let s2 := writeList 0 (loc.plus 8) (pkt.drop 8) s1
    if isPoisoned s2 0 loc 8 then some (some (poisonLocator loc), s2)
    else match feAttempt .stfu (k / 64) 0 va loc (dw (natLE (pkt.take 8))) s2 with
    | some (_, s3) => some (none, s3)
    | none => some (none, s2)
  | _ => none

/-- Reports the page of a slot that a waiting ENQ is to write (R154, R192). -/
def slotWait (k index : Nat) (s : State) : State :=
  match frontPlace s (k / 64) (slotAddr (getQueue s k) index) .wr with
  | .wait va p => frontWait (k / 64) va .wr p s
  | _ => s

/-- The strand that waits for a slot goes on (R192). -/
def passEnq (index q : Nat) (g : Group) : Group :=
  progress (mapStrands (fun t => match t.hold with
    | .enq j i _ _ => if i = index && j = q then { t with hold := .none, pc := t.pc + 4, replay := none } else t
    | _ => t) g)

/-- The ENQs of a queue whose slots have come free place their packets (R192, R342). -/
def serveEnqs (k : Nat) (s : State) : State :=
  (groups s).foldl (fun s g => (allStrands g).foldl (fun s t => match t.hold with
    | .enq q i p _ =>
      if g.ctx == k / 64 && q == k % 64 && slotFree (getQueue s k) i then
        (match placePacket k i p s with
          | some (none, s1) => modGroup g.id (passEnq i q) s1
          | some (some a, s1) => poisonGroup g.id a s1
          | none => slotWait k i s)
      else s
    | _ => s) s) s

/-! ### Packets -/

/-- A word of a packet. -/
def Packet.word (p : Packet) (i : Nat) : DWord := p.words.getD i 0

/-- The kind of a packet (R326). -/
def Packet.kind (p : Packet) : Nat := fieldD (p.word 0) 0 8

/-- The ORDER bit (R326). -/
def Packet.order (p : Packet) : Bool := (p.word 0).getLsbD 8

/-- The IRQ bit (R326). -/
def Packet.irq (p : Packet) : Bool := (p.word 0).getLsbD 9

/-- Takes a packet out of its queue: it has completed (R325, R330). -/
def dropPacket (k : Nat) (p : Packet) (s : State) : State :=
  let q := getQueue s k
  let not := fun (x : Packet) => x.index != p.index
  setQueue k { q with cur := q.cur.filter not, busy := q.busy.filter not, open_ := q.open_.filter not } s

/-- The completion of a packet (R326): its interrupt where IRQ is set. -/
def completePacket (k : Nat) (p : Packet) (s : State) : State :=
  let s1 := dropPacket k p s
  if p.irq then queueInterrupt k s1 else s1

/-- The completion word that a packet names in its body (R327, R328). -/
def Packet.done (p : Packet) : DWord := if p.kind = 2 then p.word 6 else if p.kind = 4 then p.word 6 else 0

/-- A packet that completes with an error (R327, R328): its word is filled, ERR is set, last records the index, and the interrupt is
raised; a fill that waits for its page leaves the packet where it is. -/
def failPacket (k : Nat) (p : Packet) (done : DWord) (code : Nat) (s : State) : State :=
  match fillWord (k / 64) done (errorValue code) s with
  | some s1 => queueInterrupt k (raiseStatus k 2 (setLast k p.index (dropPacket k p s1)))
  | none => fillHeld (k / 64) done s

/-- Marks the packet that waits for a page (R178). -/
def holdPacket (k : Nat) (va : Nat) (s : State) : State :=
  let q := getQueue s k
  setQueue k { q with cur := q.cur.map (fun p => { p with held := some (dw va) }) } s

end Sys2Proof.Machine
end

