-- ==== Sys2Proof/Machine/Gangs.lean ====
section
/-! DEFINITION. Gangs: reservation, commit and refusal, pre-emption marks, priorities and shares, team starts, buffer handles, and
completion (R330 to R338, R340, R341, R343 to R345, R278, R434). -/

namespace Sys2Proof.Machine

/-! ### Handles -/

/-- Whether a gang has completed: none of its number is left. -/
def gangGone (s : State) (g : Nat) : Bool := (getGang s g).status == .none

/-- The handle of an id in a context (R343). -/
def findHandle (s : State) (c id : Nat) : Option Handle := (getCtx s c).handles.find? (fun h => h.id == id)

/-- Whether a LAUNCH of a context that was consumed before a number has not been read yet: what it lists is not known. -/
def unreadLaunch (s : State) (c seq : Nat) : Bool :=
  s.queues.any (fun e => e.1 / 64 == c && (match e.2.cur with
    | some p => p.kind == 1 && p.gang.isNone && decide (p.seq < seq)
    | none => false))

/-- Whether a launch that has not committed, of a lower number than a gang, lists a handle with a mode for which p holds (R345). -/
def listedBefore (s : State) (g : Gang) (id : Nat) (p : Nat → Bool) : Bool :=
  s.gangs.any (fun x => x.2.ctx == g.ctx && decide (x.2.seq < g.seq) && (x.2.status == .dep || x.2.status == .reserving || x.2.status == .waiting) &&
    x.2.rcd.handles.any (fun e => e.1 == id && p e.2.1))

/-- Whether the DEP waits of a launch are over (R345): for each handle, by sequence numbers, the last writer before it has completed, and for a
writer the readers before it. -/
def depsDone (s : State) (g : Gang) : Bool :=
  g.rcd.handles.all (fun e => !e.2.2 || (match findHandle s g.ctx e.1 with
    | some h =>
      !unreadLaunch s g.ctx g.seq && !listedBefore s g e.1 (fun m => decide (2 ≤ m)) &&
      (match (h.writers.filter (fun w => decide (w < g.seq))).getLast? with | some w => gangGone s w | none => true) &&
      (e.2.1 == 1 || (!listedBefore s g e.1 (fun m => m % 2 == 1) && h.readers.all (fun r => decide (g.seq ≤ r) || gangGone s r)))
    | none => true))

/-- A handle as a launch with a mode takes it at commit (R345): its last writer for every launch with a higher number, or one of its readers. -/
def takeHandle (gid mode : Nat) (h : Handle) : Handle :=
  let h1 := if mode % 2 = 1 && !h.readers.contains gid then { h with readers := h.readers ++ [gid] } else h
  if 2 ≤ mode then { h1 with writers := h1.writers.filter (fun w => decide (w < gid)) ++ [gid] } else h1

/-- The handles that a gang's launch lists, each with its mode and where its range lies now. -/
def listedHandles (s : State) (g : Gang) : List Listed :=
  g.rcd.handles.filterMap (fun e => (findHandle s g.ctx e.1).map (fun h =>
    { mtype := h.mtype, mode := e.2.1, spans := rangeSpans s g.ctx h.base.toNat (h.base.toNat + h.len) }))

/-- The handle table after a launch's commit, and the acquire side of its cache work (R344, R345). -/
def takeHandles (gid : Nat) (s : State) : State :=
  let g := getGang s gid
  let c := getCtx s g.ctx
  launchAcquire g.rcd (listedHandles s g) <| setCtx g.ctx { c with handles := c.handles.map (fun h =>
    (g.rcd.handles.filter (fun e => e.1 == h.id)).foldl (fun h e => takeHandle gid e.2.1 h) h) } s

/-- The handle table after a launch's completion or abort: it is no reader any more (R345). -/
def leaveHandles (gid : Nat) (s : State) : State :=
  let g := getGang s gid
  let c := getCtx s g.ctx
  setCtx g.ctx { c with handles := c.handles.map (fun h => { h with readers := h.readers.filter (fun r => r != gid) }) } s

/-! ### What a gang needs -/

/-- Whether a launch is co-resident (R93). -/
def coResident (g : Gang) : Bool := g.rcd.cores || g.hdr.cores

/-- The partitions of a launch, in increasing number. -/
def partsOf (g : Gang) : List Nat := (List.range 4).filter (fun p => g.rcd.parts.getLsbD p)

/-- The partitions of the teams of a launch, in team order (R94). -/
def teamParts (g : Gang) : List Nat :=
  let ps := partsOf g
  if g.rcd.expl then ps.flatMap (fun p => List.replicate (g.rcd.counts.getD p 0) p)
  else (List.range g.rcd.teams).map (fun t => ps.getD (t % ps.length) 0)

/-- The partitions of the teams that a reservation must place: every team of a co-resident launch, of another launch one for each
partition that receives any (R333). -/
def neededParts (g : Gang) : List Nat := if coResident g then teamParts g else (partsOf g).filter (fun p => teamsBound g p != 0)

/-- Whether a launch fits nowhere (R329, R333): a team fits no core of a partition that it names even when idle, or the context's
affinity leaves a partition out. -/
def noFit (s : State) (g : Gang) : Bool :=
  (partsOf g).any (fun p => !(getCtx s g.ctx).affinity.getLsbD p) ||
  (g.rcd.teams != 0 && (partsOf g).any (fun p => teamsBound g p != 0 && !fitsIdle s p g.hdr (startGroups g.hdr)))

/-! ### Priorities and shares -/

/-- Whether a waiting gang may be offered again (R334). -/
def retryDue (s : State) (g : Gang) : Bool := g.status == .waiting && (g.freed || decide (g.tried.toNat + 10000 ≤ s.time.toNat))

/-- Whether a packet is a SIGNAL or a NOP, which start while ABT is set (R405). -/
def startsInAbort (p : Packet) : Bool := fieldD (p.word 0) 0 8 == 3 || fieldD (p.word 0) 0 8 == 7

/-- Whether the current packet of a queue may start (R330, R405). -/
def mayStart (s : State) (k : Nat) (p : Packet) : Bool :=
  let q := getQueue s k
  q.busy.isNone && (!q.abt || startsInAbort p) && (!p.order || q.open_.isEmpty)

/-- Whether the LAUNCH of a gang stands at the head of its queue and may start (R330); a FORK child has no queue (R340). -/
def headOfQueue (s : State) (g : Gang) : Bool :=
  match g.queue with
  | none => true
  | some (k, i) => match (getQueue s k).cur with
    | some p => p.index == i && mayStart s k p
    | none => false

/-- The gangs that await a reservation (R331); a context that a checkpoint quiesces sends none (R411). -/
def reserveCandidates (s : State) : List (Nat × Gang) :=
  s.gangs.filter (fun e => e.2.rcd.teams != 0 && headOfQueue s e.2 && !quiescing s e.2.ctx &&
    ((e.2.status == .dep && depsDone s e.2) || retryDue s e.2))

/-- What keeps a saved team from its restore: a FORK's child that has not completed, an ENQ whose slot is not free and whose budget has
not run out (R191, R192, R342). -/
def restoreWaits (s : State) (t : Team) : Bool :=
  t.saves.any (fun r => match r.cont with
    | .child _ => true
    | .enq q i _ d => !slotFree (getQueue s (queueKey t.ctx q)) i && !enqOver s d
    | _ => false)

/-- The header under which a saved team is placed (R365): that of its launch where a core of the partition can ever take it, else the
fallback, as the front end read it (R78). -/
def restoreHeader (s : State) (t : Team) : Option KHeader :=
  if fitsIdle s t.part t.main (savedGroups t) then some t.main
  else match t.fallback with
    | some f =>
      let h := if t.spawned then spawnKernel f t.main.lgw t.main.entry else f
      if fitsIdle s t.part h (savedGroups t) then some h else none
    | none => none

/-- Whether groups of a header fit some core of a partition now. -/
def fitsSome (s : State) (part : Nat) (h : KHeader) (gs : List (Nat × Nat)) : Bool :=
  (List.range Config.coresPerDie).any (fun c => (fitQuarter s part c h gs).isSome)

/-- Whether work of a gang goes before a place in the order of priorities: a higher level, or an earlier number of the level (R332). -/
def ranksBefore (s : State) (gang prio seq : Nat) : Bool :=
  let g := getGang s gang
  decide (prio < g.rcd.prio) || (g.rcd.prio == prio && decide (g.seq < seq))

/-- Whether a saved team that can be restored now on one of the given partitions goes before a place in the order (R332). -/
def savedAhead (s : State) (parts : BitVec 4) (prio seq : Nat) : Bool :=
  s.teams.any (fun e => e.2.status == .saved && parts.getLsbD e.2.part && ranksBefore s e.2.gang prio seq &&
    !quiescing s e.2.ctx && !restoreWaits s e.2 &&
    (e.2.booked || (match restoreHeader s e.2 with | some h => fitsSome s e.2.part h (savedGroups e.2) | none => false)))

/-- Whether a formed group of a spawn bin of a higher priority has room now on one of the given partitions (R339). -/
def binAhead (s : State) (parts : BitVec 4) (prio : Nat) : Bool :=
  s.bins.any (fun e => e.2.used && !e.2.formed.isEmpty && parts.getLsbD e.2.part && decide (prio < (getGang s e.2.gang).rcd.prio) &&
    !quiescing s e.2.ctx && fitsSome s e.2.part e.2.hdr [(0, e.2.hdr.lgw)])

/-- Whether a launch goes before a place in the order and its reservation is due, or unanswered (R331, R332). -/
def launchAhead (s : State) (part prio seq : Nat) : Bool :=
  (reserveCandidates s ++ s.gangs.filter (fun e => e.2.status == .reserving)).any (fun e =>
    e.2.rcd.parts.getLsbD part && ranksBefore s e.1 prio seq)

/-- The key of a context's attempts in the round of a level (R331). -/
def roundKey (level c : Nat) : Nat := level * 32 + c

/-- Whether a context still has attempts in the round of a level (R331). -/
def hasShare (s : State) (level c : Nat) : Bool := Sparse.get 0 s.rounds (roundKey level c) < (getCtx s c).share

/-- The place of a gang's queue among those of its context; a FORK child comes first. -/
def queueOrder (g : Gang) : Nat := match g.queue with | some (k, _) => k + 1 | none => 0

/-- Whether the next reservation is a gang's (R331, R332, R339): no saved team or spawned group that goes before it can be placed; no
candidate has a higher priority, nor has a reservation that is still unanswered;
within the level its context has attempts left in the round, or no context has; and within the context its queue has the lowest
number. -/
def nextToReserve (s : State) (gid : Nat) : Bool :=
  let g := getGang s gid
  let l := reserveCandidates s
  let level := l.filter (fun e => e.2.rcd.prio == g.rcd.prio)
  l.any (fun e => e.1 == gid) && !savedAhead s g.rcd.parts g.rcd.prio g.seq && !binAhead s g.rcd.parts g.rcd.prio && !l.any (fun e => decide (g.rcd.prio < e.2.rcd.prio)) &&
  !s.gangs.any (fun e => e.2.status == .reserving && decide (g.rcd.prio < e.2.rcd.prio)) &&
  (hasShare s g.rcd.prio g.ctx || !level.any (fun e => hasShare s g.rcd.prio e.2.ctx)) &&
  !level.any (fun e => e.2.ctx == g.ctx && decide (queueOrder e.2 < queueOrder g))

/-- Counts a reservation attempt; a new round begins where no context has attempts left (R331). -/
def countAttempt (level c : Nat) (s : State) : State :=
  let s1 := if hasShare s level c then s else { s with rounds := s.rounds.filter (fun e => e.1 / 32 != level) }
  { s1 with rounds := Sparse.set 0 s1.rounds (roundKey level c) (Sparse.get 0 s1.rounds (roundKey level c) + 1) }

/-- A gang sends its reservations (R333). -/
def sendReservation (gid : Nat) (s : State) : State :=
  let g := getGang s gid
  setGang gid { g with status := .reserving, tried := s.time, freed := false, places := [] } (countAttempt g.rcd.prio g.ctx s)

/-- Whether a FORK child takes no reservation and its DEPs are over (R338, R340). -/
def emptyChildDue (s : State) (g : Gang) : Bool := g.status == .dep && g.queue.isNone && g.parent.isSome && g.rcd.teams == 0 && depsDone s g

/-- A child without teams is committed: nothing of it is to start (R338, R340). -/
def commitEmpty (gid : Nat) (s : State) : State := takeHandles gid (setGang gid { getGang s gid with status := .committed } s)

/-- RESERVATION_RETRY (R331, R334, R340): a waiting gang is offered again; a FORK child that waited for its DEPs is offered, or goes on
where it has no teams. -/
def execReservationRetry (gid : Nat) (s : State) : Result :=
  let g := getGang s gid
  if emptyChildDue s g then .next (commitEmpty gid s)
  else if nextToReserve s gid && (g.status == .waiting || g.queue.isNone) then .next (sendReservation gid s) else .next s

/-! ### Answers -/

/-- Whether a dispatcher that holds another launch as its next must refuse (R334). -/
def heldForOther (s : State) (gid part : Nat) : Bool :=
  let g := getGang s gid
  s.gangs.any (fun e => e.2.status == .waiting && decide (8 ≤ e.2.refusals) && e.2.holders.contains part &&
    decide (g.rcd.prio ≤ e.2.rcd.prio) && decide (e.2.seq < g.seq))

/-- Places the teams of a reservation on the cores that the dispatchers name, one after another: the state with the places taken, and
the partitions that refuse, one entry for each team without a place (R333). -/
def placeNeeded (gid : Nat) : List (Nat × Nat) → State → List Nat → State × List Nat
  | [], s, no => (s, no)
  | (p, core) :: l, s, no =>
    let g := getGang s gid
    match (if heldForOther s gid p then none else fitQuarter s p core g.hdr (startGroups g.hdr)) with
    | some q =>
      let a := scrPlaces s p core g.hdr
      placeNeeded gid l (setGang gid { g with
        places := g.places ++ [{ key := coreKey p core, quarter := q, scrAt := a.1, scrAtF := a.2, wins := [] }] } s) no
    | none => placeNeeded gid l s (no ++ [p])

/-- Whether a partition's window has room for n activations: where n is more than a window takes, the first there and the rest in the next
(R334, R336). -/
def windowRoom (s : State) (part w n : Nat) : Bool :=
  rampRoom s part w (min n s.rampUp.toNat) && (decide (n ≤ s.rampUp.toNat) || rampRoom s part (w + 1) (n - s.rampUp.toNat))

/-- The idle cores that a gang's first team on a partition needs, at least one: every named partition's window is to have room (R334). -/
def firstNeeds (s : State) (g : Gang) (part : Nat) : Nat :=
  max 1 (match placeOn g part with | some p => (idleCores s part (p.key % 128) g.hdr).length | none => 0)

/-- T0: the start of the first window, from one on, in which every named partition has room; n bounds the search (R334). -/
def firstWindow (s : State) (g : Gang) : Nat → Nat → Nat
  | 0, w => w
  | n + 1, w => if (partsOf g).all (fun p => windowRoom s p w (firstNeeds s g p)) then w else firstWindow s g n (w + 1)

/-- The start time of a gang that commits now (R334). -/
def startTime (s : State) (g : Gang) : DWord := dw (100 * firstWindow s g 4096 ((s.time.toNat + 2048 + 99) / 100))

/-- The packet of a gang's queue starts: the queue goes on behind it (R330). -/
def startPacket (g : Gang) (s : State) : State :=
  match g.queue with
  | none => s
  | some (k, _) =>
    let q := getQueue s k
    match q.cur with
    | some p => setQueue k { q with cur := none, open_ := q.open_ ++ [p] } s
    | none => s

/-- The places of a gang with the windows that their idle cores are assigned, in team order from that of T0 on (R336); a core that an earlier place
of the gang activates needs none. -/
def assignPlaces (h : KHeader) (w : Nat) (done : List Place) : List Place → State → State × List Place
  | [], s => (s, done)
  | p :: l, s =>
    let part := p.key / 128
    let idle := (idleCores s part (p.key % 128) h).filter (fun c => !done.any (fun q => q.key / 128 == part && q.wins.any (fun e => e.1 == c)))
    let r := assignWindows part idle w s
    assignPlaces h w (done ++ [{ p with wins := r.2 }]) l r.1

/-- The commit of a gang: T0 is chosen, and the windows of the teams that have places are assigned (R334, R336, R344, R345). -/
def commitGang (gid : Nat) (s : State) : State :=
  let g := getGang s gid
  let t := startTime s g
  let r := assignPlaces g.hdr (t.toNat / 100) [] g.places s
  takeHandles gid (startPacket g (setGang gid { g with status := .committed, t0 := t, places := r.2, holders := [], refused := [] } r.1))

/-- The teams that R332 may choose on a partition for a launch of a level: lower levels first, within a level the highest sequence
number first. -/
def victims (s : State) (part level : Nat) : List (Nat × Team) :=
  let ts := s.teams.filter (fun e => e.2.status == .running && e.2.part == part && decide ((getGang s e.2.gang).rcd.prio < level))
  (List.range level).flatMap (fun l =>
    let here := ts.filter (fun e => (getGang s e.2.gang).rcd.prio == l)
    s.gangs.reverse.flatMap (fun g => here.filter (fun e => e.2.gang == g.1)))

/-- Cores of a partition on which every team is in a list of marked ones. -/
def freedCores (s : State) (part : Nat) (marked : List Nat) : Nat :=
  ((List.range Config.coresPerDie).filter (fun c =>
    coreHolds s part c && s.teams.all (fun e => !teamOnCore e.2 part c || marked.contains e.1))).length

/-- Teams of a header that fit one idle core, or pair, beside what is taken of it already; n bounds the count. -/
def teamsBeside (h : KHeader) : Nat → Load → Load → Nat
  | 0, _, _ => 0
  | n + 1, l, f =>
    let c := { Core.start with words := Config.coreWords }
    match (List.range 4).find? (fun q => (l.plus (teamLoad h q false (startGroups h))).within c 5 &&
        (!h.pair || (f.plus (teamLoad h q true (startGroups h))).within c 5)) with
    | some q => 1 + teamsBeside h n (l.plus (teamLoad h q false (startGroups h))) (f.plus (teamLoad h q true (startGroups h)))
    | none => 0

/-- The whole cores that a shortfall of teams comes to (R332). -/
def coresShort (h : KHeader) (short : Nat) : Nat :=
  let k := max 1 (teamsBeside h 128 Load.zero Load.zero)
  (short + k - 1) / k * (if h.pair then 2 else 1)

/-- Marks teams of a list pre-empt-pending until n cores would come free (R332, R363). -/
def markVictims (part n : Nat) : List (Nat × Team) → List Nat → State → State
  | [], _, s => s
  | e :: l, done, s =>
    if n ≤ freedCores s part done then s
    else match markTeam e.1 s with
      | some s1 => markVictims part n l (done ++ [e.1]) s1
      | none => markVictims part n l done s

/-- The marks that a refusal brings on a partition (R332): whole cores, as many as the teams without a place need. -/
def markFor (gid part short : Nat) (s : State) : State :=
  let g := getGang s gid
  let marked := (s.teams.filter (fun e => e.2.part == part && (teamGroups s e.1).any (fun x => x.preempt))).map (·.1)
  markVictims part (coresShort g.hdr short) (victims s part g.rcd.prio) marked s

/-- Every acceptance of a gang is rolled back, and it waits (R334). -/
def refuseGang (gid : Nat) (no : List Nat) (s : State) : State :=
  let g := getGang s gid
  setGang gid { g with status := .waiting, places := [], refusals := g.refusals + 1, freed := false, refused := dedupNat no,
                       holders := if 8 ≤ g.refusals + 1 then dedupNat (g.holders ++ no) else g.holders } s

/-! ### Completion -/

/-- The team of a FORK goes on after its child has completed (R191, R340): resident groups at the next instruction, saved ones when
they are restored. -/
def resumeFork (child tid : Nat) (s : State) : State :=
  let fix := fun (r : Resume) => if r = .child child then .forked else r
  let t := getTeam s tid
  let s1 := if t.status == .free then s else setTeam tid { t with saves := t.saves.map (fun r => { r with cont := fix r.cont }) } s
  mapGroups (fun g => g.team == tid) (fun g =>
    let h := { g with cont := g.cont.map (fun c => (c.1, fix c.2)) }
    if (allStrands g).any (fun t => t.hold == .forkChild child) then
      progress (mapStrands (fun t => if t.hold = .forkChild child then { t with hold := .none, pc := t.pc + 4 } else t) h)
    else h) s1

/-- The packet of a gang among the packets of its queue. -/
def gangPacket (s : State) (g : Gang) : Option (Nat × Packet) :=
  match g.queue with
  | none => none
  | some (k, i) =>
    let q := getQueue s k
    ((q.cur.toList ++ q.open_).find? (fun p => p.index == i)).map (fun p => (k, p))

/-- The remote operations of a gang, and of its completed children, that are not yet acknowledged (R278). -/
def owedIds (s : State) (gid : Nat) : List Nat :=
  (s.barrow.filter (fun b => b.gang == some gid || (getGang s gid).owes.contains b.id)).map (·.id)

/-- A parent's release waits for what a completed child left unacknowledged (R278). -/
def oweToParent (gid : Nat) (child : Gang) (parent : Nat) (s : State) : State :=
  let p := (getTeam s parent).gang
  let ids := (s.barrow.filter (fun b => b.gang == some gid || child.owes.contains b.id)).map (·.id)
  if (getGang s p).status == .none then s else setGang p { getGang s p with owes := dedupNat ((getGang s p).owes ++ ids) } s

/-- A gang completes with a value in its completion word (R337, R340, R345): the fill, the interrupt, its dependants, and a FORK's parent.
A fill that waits for its page changes nothing else. -/
def endGang (gid : Nat) (value : DWord) (s : State) : State :=
  let g := getGang s gid
  match fillWord g.ctx g.rcd.done value s with
  | none => fillHeld g.ctx g.rcd.done s
  | some s1 =>
    let s2 := match gangPacket s1 g with | some (k, p) => completePacket k p s1 | none => s1
    let s3 := setGang gid Gang.vacant (leaveHandles gid (launchRelease gid g.rcd (listedHandles s g) s2))
    match g.parent with | some t => resumeFork gid t (oweToParent gid g t s3) | none => s3

/-- A gang that completes at once with an error (R329, R333, R340, R341). -/
def failGang (gid code : Nat) (s : State) : State :=
  let g := getGang s gid
  match gangPacket s g with
  | some (k, p) =>
    (match fillWord g.ctx g.rcd.done (errorValue code) s with
      | some _ => setGang gid Gang.vacant (failPacket k p g.rcd.done code s)
      | none => fillHeld g.ctx g.rcd.done s)
  | none => endGang gid (errorValue code) s

/-- Whether the slice of a gang on a partition is complete: every team bound for it has started and retired, and no spawned work of the
gang is left there (R337). -/
def sliceDone (s : State) (gid part : Nat) : Bool :=
  let g := getGang s gid
  g.next.getD part 0 == teamsBound g part &&
  s.teams.all (fun e => e.2.status == .free || e.2.gang != gid || e.2.part != part) &&
  s.bins.all (fun b => !b.2.used || b.2.gang != gid || b.2.part != part)

/-- Whether the gang counter is zero (R337). -/
def gangDone (s : State) (gid : Nat) : Bool :=
  (getGang s gid).status == .committed && (List.range 4).all (fun p => sliceDone s gid p)

/-- Whether the release at a scope of a gang is over (R278): at pod scope and above its remote operations, and those of the children that
it has waited for, are acknowledged. -/
def releaseDone (s : State) (gid scope : Nat) : Bool := decide (scope < 3) || (owedIds s gid).isEmpty

/-- GANG_COMPLETE (R278, R337, R434). -/
def execGangComplete (gid : Nat) (s : State) : Result :=
  let g := getGang s gid
  if gangDone s gid && releaseDone s gid g.rcd.rscope then .next (endGang gid g.rcd.value s) else .next s

/-! ### Outcomes of a reservation -/

/-- Whether no gang other than a parent's holds any resource of a partition (R341). -/
def onlyParent (s : State) (parent part : Nat) : Bool :=
  s.teams.all (fun e => (e.2.status != .running && !e.2.booked) || e.2.part != part || e.2.gang == parent) &&
  s.gangs.all (fun e => e.1 == parent || !e.2.places.any (fun p => p.key / 128 == part))

/-- Whether a FORK child cannot fit beside its parent, whose FORK had no SAFE before it (R341). -/
def noRoom (s : State) (g : Gang) (no : List Nat) : Bool :=
  match g.parent with
  | none => false
  | some t => (getTeam s t).status == .running && (teamGroups s t).any (fun h => (safeBefore s h h.strand).isNone) &&
      no.any (fun p => onlyParent s (getTeam s t).gang p)

/-- Whether an earlier reservation that shares a partition is still unanswered (R333: answers come in sequence order). -/
def earlierReserving (s : State) (gid : Nat) : Bool :=
  let g := getGang s gid
  s.gangs.any (fun e => e.1 != gid && e.2.status == .reserving && decide (e.2.seq < g.seq) && (e.2.rcd.parts &&& g.rcd.parts) != 0)

/-- RESERVATION_ANSWER (R332 to R334, R341): the last answer arrives, and the gang commits or waits; one whose queue has been held by an abort
meanwhile may not start: its acceptances are rolled back, and it reserves anew once ABT is clear (R330, R405). -/
def execReservationAnswer (gid : Nat) (cores : List Nat) (s : State) : Result :=
  let g := getGang s gid
  if g.status != .reserving || earlierReserving s gid then .next s
  else if !headOfQueue s g then .next (setGang gid { g with status := .dep, places := [] } s)
  else
    let ps := neededParts g
    let (s1, no) := placeNeeded gid (ps.zip (cores ++ List.replicate ps.length 127)) s []
    if no.isEmpty then .next (commitGang gid s1)
    else
      let s2 := refuseGang gid (dedupNat no) s
      if noRoom s2 (getGang s2 gid) no then .next (failGang gid 0x06 s2)
      else .next ((dedupNat no).foldl (fun s p => markFor gid p (no.filter (fun q => q == p)).length s) s2)

/-- RESERVATION_TIMEOUT (R334): a partition has not answered within 10 µs. -/
def execReservationTimeout (gid : Nat) (s : State) : Result :=
  let g := getGang s gid
  if g.status == .reserving && decide (g.tried.toNat + 10000 ≤ s.time.toNat) then .next (refuseGang gid [] s) else .next s

/-! ### Starting -/

/-- Whether a gang's first team on a partition is still to start. -/
def firstTeam (g : Gang) (part : Nat) : Bool := g.next.getD part 0 == 0

/-- Whether a core of the place reserved for a gang's next team on a partition has failed (R335). -/
def firstFailed (s : State) (g : Gang) (part : Nat) : Bool :=
  match placeOn g part with
  | some p => (teamCores g.hdr (p.key % 128)).any (fun c => !coreServes s part c.1 g.hdr)
  | none => true

/-- The window of the start of a gang's next team at a place: the last that is assigned to a core of it that is still idle; without one that of T0
(R335, R336). -/
def startOf (s : State) (g : Gang) (part : Nat) (p : Place) : Nat := ((pendingWins s part p).map (·.2)).foldl max (g.t0.toNat / 100)

/-- The last moment at which a gang's first team on a partition starts (R335, R336). -/
def firstDeadline (s : State) (g : Gang) (part : Nat) : Nat :=
  100 * (match placeOn g part with | some p => startOf s g part p | none => g.t0.toNat / 100) + 32

/-- A place reserved for the next team of a gang on a core. -/
def newPlace (s : State) (part core q : Nat) (h : KHeader) : Place :=
  let a := scrPlaces s part core h
  { key := coreKey part core, quarter := q, scrAt := a.1, scrAtF := a.2, wins := [] }

/-- The place of a gang's next team on a partition, where a core is one at which it may start: the place reserved for it; without one, or where its
core has failed, a core where it fits (R335). -/
def teamPlace (s : State) (gid part core q : Nat) : Option Place :=
  let g := getGang s gid
  let room := fits (withoutPlace gid part s) part core q g.hdr (startGroups g.hdr)
  let other := if room then some (newPlace (withoutPlace gid part s) part core q g.hdr) else none
  match placeOn g part with
  | some p => if firstFailed s g part then (if firstTeam g part then none else other)
      else if room && p.key % 128 == core && p.quarter == q then some p else none
  | none => other

/-- The first window whose start a team can still keep (R336). -/
def soonest (s : State) : Nat := (s.time.toNat + 67) / 100

/-- Whether an assignment cannot be kept: its window is past, or COUNT has been lowered below what the window holds (R336). -/
def winLost (s : State) (part : Nat) (p : Place) : Bool :=
  (pendingWins s part p).any (fun e => decide (100 * e.2 + 32 < s.time.toNat) || decide (s.rampUp.toNat < windowCount s.ups part e.2))

/-- A place with a window for every core of it that is idle: the assignments that stand, else new ones, from that of T0 on (R336). -/
def planPlace (s : State) (g : Gang) (part : Nat) (p : Place) : State × Place :=
  let idle := idleCores s part (p.key % 128) g.hdr
  if idle.all (fun c => p.wins.any (fun e => e.1 == c)) && !winLost s part p then (s, p)
  else
    let s1 := (pendingWins s part p).foldl (fun s e => freeWindow part e.2 s) s
    let r := assignWindows part idle (max (g.t0.toNat / 100) (soonest s)) s1
    (r.1, { p with wins := p.wins.filter (fun e => (getCore s part e.1).clocked) ++ r.2 })

/-- Whether it is the start ± 32 ns of a window (R336). -/
def atWindow (s : State) (w : Nat) : Bool := decide (100 * w ≤ s.time.toNat + 32) && decide (s.time.toNat ≤ 100 * w + 32)

/-- Whether a gang's next team starts at a place now (R335, R336): a first team, and one that waits for a window, at the start of its window;
another from T0 on. -/
def startsNowAt (s : State) (g : Gang) (part : Nat) (p : Place) : Bool :=
  if firstTeam g part || !(pendingWins s part p).isEmpty then atWindow s (startOf s g part p) else decide (g.t0.toNat ≤ s.time.toNat + 32)

/-- The cores of a place whose windows begin now are activated; windows assigned to cores that others have activated are given back
(R336). -/
def clockPlace (part : Nat) (p : Place) (s : State) : State :=
  let unused := p.wins.filter (fun e => (getCore s part e.1).clocked && decide (startWindow s ≤ e.2))
  ((pendingWins s part p).filter (fun e => atWindow s e.2)).foldl (fun s e => setCore part e.1 { getCore s part e.1 with clocked := true } s)
    (unused.foldl (fun s e => freeWindow part e.2 s) s)

/-- Puts the place of a gang's next team on a partition in its stead. -/
def putPlace (part : Nat) (p : Place) : List Place → List Place
  | [] => [p]
  | x :: l => if x.key / 128 = part then p :: l else x :: putPlace part p l

/-- A place stays reserved for the team that starts with a later window; the cores whose windows begin now are activated (R336). -/
def keepPlace (gid part : Nat) (p : Place) (s : State) : State :=
  let gone := p.wins.filter (fun e => (getCore s part e.1).clocked && decide (startWindow s < e.2))
  let s1 := clockPlace part p s
  setGang gid { getGang s1 gid with places := putPlace part { p with wins := p.wins.filter (fun e => !gone.contains e) } (getGang s1 gid).places } s1

/-- TEAM_START (R29, R94, R335, R336): the next team of a gang on a partition has its windows assigned, and starts on a core at its time and where it
fits; where a pair's leader has an earlier window than its follower, the leader is activated in it. -/
def execTeamStart (gid part core quarter : Nat) (s : State) : Result :=
  let g := getGang s gid
  let q := quarter % 4
  if g.status == .committed && (firstTeam g part || !quiescing s g.ctx) && decide (part < 4) && decide (g.next.getD part 0 < teamsBound g part) &&
      decide (g.t0.toNat ≤ s.time.toNat + 32) then
    match teamPlace s gid part core q with
    | none => .next s
    | some p =>
      let r := planPlace s g part p
      if startsNowAt r.1 g part r.2 then .next (placeTeam gid part core q (clockPlace part r.2 r.1))
      else .next (keepPlace gid part r.2 r.1)
  else .next s

/-- GANG_START_FAILURE (R335): a committed partition has not started its first team in time, since a core has failed. -/
def execGangStartFailure (gid : Nat) (s : State) : Result :=
  let g := getGang s gid
  if g.status == .committed &&
      (partsOf g).any (fun p => teamsBound g p != 0 && firstTeam g p && decide (firstDeadline s g p < s.time.toNat) && firstFailed s g p) then .next (abortGang gid 0 s)
  else .next s

end Sys2Proof.Machine
end

