-- ==== Sys2Proof/Machine/Spawn.lean ====
section
/-! DEFINITION. Spawn bins: SPAWN, the groups that a bin forms and their placing (R92, R190, R339). -/

namespace Sys2Proof.Machine

/-- Bins of a partition (R339). -/
def binsPerPart : Nat := 64

/-- A bin by its key: 64 times the partition plus its number. -/
def getBin (s : State) (b : Nat) : Bin := Sparse.get Bin.free s.bins b

/-- Replaces a bin. -/
def setBin (b : Nat) (v : Bin) (s : State) : State := { s with bins := Sparse.set Bin.free s.bins b v }

/-- The bin of a partition that holds a key (R339). -/
def binOfKey (s : State) (part ctx gang : Nat) (key : DWord) : Option Nat :=
  (List.range binsPerPart).map (fun k => part * binsPerPart + k) |>.find? (fun b =>
    let x := getBin s b
    x.used && x.ctx == ctx && x.gang == gang && x.key == key)

/-- A free bin of a partition. -/
def freeBin (s : State) (part : Nat) : Option Nat :=
  (List.range binsPerPart).map (fun k => part * binsPerPart + k) |>.find? (fun b => !(getBin s b).used)

/-- Whether a spawn header's bytes keep R92. -/
def spawnLegal (bs : List Byte) : Bool :=
  fieldAt bs 0 4 == 0x39515348 && fieldAt bs 4 2 == 1 && decide (3 ≤ fieldAt bs 6 1) && decide (fieldAt bs 6 1 ≤ 7) && zeroAt bs 7 1 &&
  (fieldAt bs 8 4 == 0 || (decide (100 ≤ fieldAt bs 8 4) && decide (fieldAt bs 8 4 ≤ 1000000))) && zeroAt bs 0x0C 4 && zeroAt bs 0x20 32

/-- The bin that a spawn header describes (R92, R190); RESERVED_FIELD for one that breaks its rules. A kernel header that breaks only R90
is held to break R89 as well (DESIGN CHOICE, log entry 90). -/
def readSpawn (s : State) (part ctx gang : Nat) (key : DWord) : Got Bin :=
  (frontBytes s ctx key 64).andThen (fun bs =>
    Got.check (spawnLegal bs) 0x02 ((readHeader s ctx (dw (fieldAt bs 0x10 8))).andThen (fun h =>
      Got.check (h.1.ng != 0) 0x02
        (.ok { Bin.free with used := true, part := part, ctx := ctx, gang := gang, key := key, lgw := fieldAt bs 6 1,
                             timer := if fieldAt bs 8 4 = 0 then 2000 else fieldAt bs 8 4,
                             hdr := spawnKernel h.1 (fieldAt bs 6 1) (dw (fieldAt bs 0x18 8)), fallback := h.2,
                             entry := dw (fieldAt bs 0x18 8) }))))

/-- Full groups that a bin forms from its threads, in the order in which they entered (R339); n bounds their number. -/
def formGroups : Nat → Bin → Bin
  | 0, b => b
  | n + 1, b =>
    if b.threads.length < 2 ^ b.lgw then b
    else formGroups n { b with threads := b.threads.drop (2 ^ b.lgw), formed := b.formed ++ [(b.threads.take (2 ^ b.lgw)).map (·.1)] }

/-- Threads enter a bin (R190, R339). -/
def enterBin (args : List Word) (now : DWord) (b : Bin) : Bin :=
  let ts := b.threads ++ args.map (fun a => (a, now))
  formGroups ts.length { b with threads := ts }

/-- A context error of the issuing group at a bad spawn header (R190). -/
def spawnError (cause : Cause) (key : DWord) (s : State) : State := contextError cause.code key s

/-- The outcome of a SPAWN's entry into a bin. -/
inductive SpawnStep where
  | entered (s : State)
  | full
  | wait (va : Nat) (paged : Bool)
  | bad (c : Cause)
  deriving DecidableEq, Repr

/-- The threads of a SPAWN enter the bin of their key, which reads the header where it is new (R190, R339). -/
def spawnInto (g : Group) (key : DWord) (args : List Word) (s : State) : SpawnStep :=
  match binOfKey s g.part g.ctx g.gang key with
  | some b => .entered (setBin b (enterBin args s.time (getBin s b)) s)
  | none => match freeBin s g.part with
    | none => .full
    | some b => match readSpawn s g.part g.ctx g.gang key with
      | .ok x => .entered (setBin b (enterBin args s.time x) s)
      | .wait va p => .wait va p
      | .deny c => .bad c
      | .err _ => .bad .reservedField

/-- The arguments of the enabled lanes, in increasing lane order (R190). -/
def spawnArgs (s : State) (b : RegCode) : List Word := (lanesOf (enabled s.cur)).map (fun l => opLane s (rdOp 2 b) 0 l)

/-- SPAWN (R190): S counts it until every thread has entered. -/
def execSpawn (a b : RegCode) (s : State) : Result :=
  issueStrand (.spawn a b) (fun s =>
    let o := (rdOp 1 a).pair true
    let key := uPair s o
    orTrap (firstSome [mustBeU s o, if key.toNat % 64 ≠ 0 then some (trapOf .align key) else none])
      (fun s =>
        if ctrFull .s s.cur then stallCounter 1 s
        else match spawnInto s.cur key (spawnArgs s b) s with
          | .entered s1 => .next (modCur (fun g => nextPc (closeIdem g)) s1)
          | .full => .next (modCur (fun g => raiseCtr .s (holdStrand (clkOf s) (.bin key (spawnArgs s b)) (closeIdem g))) s)
          | .wait va p =>
            .next (modCur (holdStrand (clkOf s) (.fault false (dw va))) (reportFault s.cur.ctx va .rd 0 0 p s))
          | .bad c => .next (spawnError c key s)) s) s

/-- The strands of a group that wait for a bin, each with its lowest lane, and the header and arguments it holds. -/
def binWaiters (g : Group) : List (Nat × DWord × List Word) :=
  (allStrands g).filterMap (fun t => match t.hold with | .bin k l => some ((lowestLane t.mask).getD 0, k, l) | _ => none)

/-- The strand that holds a lane goes on once its threads have entered (R190). -/
def passSpawn (lane : Nat) (g : Group) : Group :=
  progress (dropCtr .s (mapStrands (fun t =>
    if t.mask.getLsbD lane then { t with hold := .none, pc := t.pc + 4, replay := none } else t) g))

/-- A strand that waits for a bin tries again (R190). -/
def enterAgain (g : Group) (w : Nat × DWord × List Word) (s : State) : State :=
  match spawnInto g w.2.1 w.2.2 s with
  | .entered s1 => settleGroup g.id (modGroup g.id (passSpawn w.1) s1)
  | .full => s
  | .wait va p => reportFault g.ctx va .rd 0 0 p s
  | .bad c => spawnError c w.2.1 (focusLane g.id w.1 s)

/-- The strands of a partition that wait for a bin try again (R190). -/
def enterHeld (part : Nat) (s : State) : State :=
  (groups s).foldl (fun s g => if g.part != part then s else (binWaiters g).foldl (fun s w => enterAgain g w s) s) s

/-- A bin without threads and formed groups is free for another key (R339). -/
def settleBin (b : Nat) (s : State) : State :=
  let x := getBin s b
  if x.used && x.threads.isEmpty && x.formed.isEmpty then enterHeld x.part (setBin b Bin.free s) else s

/-- BIN_TIMER_EXPIRY (R339): the threads of a bin whose timer has run out form a partial group. -/
def execBinTimerExpiry (b : Nat) (s : State) : Result :=
  let x := getBin s b
  match x.threads with
  | [] => .next s
  | t :: _ =>
    if decide (t.2.toNat + x.timer ≤ s.time.toNat) then
      .next (setBin b { x with threads := [], formed := x.formed ++ [x.threads.map (·.1)] } s)
    else .next s

/-- A spawned group (R190): v0 holds the arguments as G, v1 U 0; the lanes without a thread start exited. -/
def spawnedGroup (s : State) (tid : Nat) (t : Team) (args : List Word) : Group :=
  let g := freshGroup s tid t (0, t.hdr.lgw)
  let m := fullMask args.length
  { g with
    exited := fullMask (width g) &&& ~~~m, strand := newStrand t.hdr.entry m false (clkOf s),
    regs := Sparse.set (.u 0) [] 0 (.g ((List.range (width g)).map (fun l => args.getD l 0))) }

/-- Whether other work goes before the groups of a bin in the order of priorities (R331, R332, R339). -/
def binYields (s : State) (x : Bin) : Bool :=
  let g := getGang s x.gang
  binAhead s (1#4 <<< x.part) g.rcd.prio || savedAhead s (1#4 <<< x.part) g.rcd.prio g.seq || launchAhead s x.part g.rcd.prio g.seq

/-- SPAWN_GROUP_PLACE (R190, R339): the oldest formed group of a bin starts on a core with a free slot and enough words. -/
def execSpawnGroupPlace (b core quarter slot : Nat) (s : State) : Result :=
  let x := getBin s b
  let q := quarter % 4
  match x.formed with
  | [] => .next s
  | args :: l =>
    let taken := (groups s).any (fun g => g.part == x.part && g.core == core && g.quarter == q && g.slot == slot)
    if taken || quiescing s x.ctx || binYields s x || decide (32 ≤ slot) || !fits s x.part core q x.hdr [(0, x.hdr.lgw)] then .next s
    else match activate x.part core x.hdr s with
      | .none => .next s
      | .half s1 => .next s1
      | .ready s1 =>
        let gg := getGang s1 x.gang
        let n := Sparse.get 0 gg.spawnNo x.part
        let (tid, s2) := freshId s1
        let t : Team := { Team.vacant with status := .running, id := tid, gang := x.gang, ctx := x.ctx, index := n, part := x.part,
                                           core := core, quarter := q, spawned := true, hdr := x.hdr,
                                           main := x.hdr, fallback := x.fallback, scrAt := (scrPlaces s x.part core x.hdr).1 }
        let s3 := setBin b { x with formed := l } (setGang x.gang { gg with spawnNo := Sparse.set 0 gg.spawnNo x.part (n + 1) } (setTeam tid t s2))
        .next (settleBin b (addGroup { spawnedGroup s tid t args with id := s3.nextId, part := x.part, core := core, quarter := q, slot := slot }
          { s3 with nextId := s3.nextId + 1 }))

end Sys2Proof.Machine
end

