-- ==== Sys2Proof/Machine/Fork.lean ====
section
/-! DEFINITION. FORK and ENQ, the retirement of groups and teams, and the restoring of saved teams (R114, R191, R192, R337, R340 to
R342, R365, R366). -/

namespace Sys2Proof.Machine

/-! ### FORK -/

/-- The record at which a group waits for the rest of its team (R191, step 2), with its address. -/
def forkWait (g : Group) : Option (DWord × DWord) :=
  match g.strand.hold with | .forkTeam r => some (r, g.strand.pc) | _ => none

/-- The groups of a team that have not retired, each at its FORK. -/
def allAtFork (s : State) (tid : Nat) : Bool := (teamGroups s tid).all (fun g => (forkWait g).isSome)

/-- Whether a group of a team waits at another FORK than a given one (R191, step 2). -/
def forkDiffers (s : State) (tid : Nat) (at_ : DWord × DWord) : Bool :=
  (teamGroups s tid).any (fun g => match forkWait g with | some x => x != at_ | none => false)

/-- Ends the FORK of a team whose child is not to run, or has run (R191). -/
def passFork (tid : Nat) (s : State) : State :=
  mapGroups (fun g => g.team == tid && (forkWait g).isSome)
    (fun g => progress (nextPc { g with strand := { g.strand with hold := .none } })) s

/-- A group whose FORK is to be executed again has not counted it (R401). -/
def unfoldFork (g : Group) : Group :=
  if g.inTrap then g else { g with sig := rotl32 (g.sig ^^^ wd (opcodeOf (.fork 0))) 27 }

/-- A team at its FORK waits for a page: the first of its groups is held at it, and executes the FORK again (R178, R191). -/
def forkHeld (tid va : Nat) (k : AccKind) (paged : Bool) (s : State) : State :=
  match (teamGroups s tid).head? with
  | some g => modGroup g.id (fun g => { unfoldFork g with strand := { g.strand with hold := .fault false (dw va) } })
      (reportFault (getTeam s tid).ctx va k 0 0 paged s)
  | none => s

/-- A child that completes at once with a status (R191, R340), once the page of its completion word is there (R434); without a known completion
word nothing is written. -/
def forkFails (tid : Nat) (done : DWord) (code : Nat) (s : State) : State :=
  let c := (getTeam s tid).ctx
  match fillWord c done (errorValue code) s with
  | some s1 => passFork tid s1
  | none => match frontPlace s c done .wr with
    | .wait va p => forkHeld tid va .wr p s
    | _ => s

/-- The SAFE entry before the FORK at which a group waits. -/
def forkSafe (s : State) (g : Group) : Option SafePoint := safeBefore s g g.strand

/-- The groups of a team wait for the child (R191, step 4): where each has a SAFE before the FORK and the pool holds their areas, they
save themselves through it; else they stay resident. -/
def awaitChild (tid gid : Nat) (s : State) : State :=
  let gs := teamGroups s tid
  let new := gs.filter (fun g => !g.preempt)
  let stay := mapGroups (fun g => g.team == tid && (forkWait g).isSome)
    (fun g => { g with strand := { g.strand with hold := .forkChild gid } }) s
  if gs.all (fun g => (forkSafe s g).isSome) then
    match reserveAreas (getTeam s tid).ctx new s with
    | none => stay
    | some s1 => gs.foldl (fun t g => match forkSafe s g with
        | some e => modGroup g.id (fun g => beginSave e { g with cont := some (g.strand.pc, .child gid) }) t
        | none => t) s1
  else stay

/-- The child gang of a FORK (R340). -/
def childGang (s : State) (tid : Nat) (r : LaunchRec) (h : KHeader) (f : Option KHeader) : Gang :=
  let t := getTeam s tid
  { Gang.vacant with status := .dep, seq := s.gangNo, ctx := t.ctx, rcd := r, hdr := h, fallback := f, t0 := 0, parent := some tid,
                     depth := (getGang s t.gang).depth + 1 }

/-- The child enters reservation at once, at its own record's priority, where its DEPs allow and its turn has come; one without teams completes
(R331, R338, R340). -/
def enterChild (gid : Nat) (s : State) : State :=
  let g := getGang s gid
  if g.rcd.teams = 0 then (if depsDone s g then commitEmpty gid s else s)
  else if nextToReserve s gid then sendReservation gid s
  else s

/-- The front end takes the record of a gathered team's FORK (R191, step 3, R340). -/
def startFork (tid : Nat) (rcd : DWord) (s : State) : State :=
  let t := getTeam s tid
  match readLaunch s t.ctx rcd with
  | .wait va p => forkHeld tid va .rd p s
  | .ok (r, h, f) =>
    let x := childGang s tid r h f
    if 9 ≤ x.depth then forkFails tid r.done 0x07 s
    else if noFit s x then forkFails tid r.done 0x04 s
    else
      let s1 := setGang s.gangNo x { s with gangNo := s.gangNo + 1 }
      enterChild s.gangNo (awaitChild tid s.gangNo s1)
  | .deny _ => forkFails tid (recordDone s t.ctx rcd) 0x08 s
  | .err c => forkFails tid (recordDone s t.ctx rcd) c s

/-- What follows when a group of a team has come to its FORK, or has retired (R191, step 2). -/
def gatherFork (tid : Nat) (s : State) : State :=
  match (teamGroups s tid).head? with
  | some g => match forkWait g with
    | some x => if allAtFork s tid && !forkDiffers s tid x then startFork tid x.1 s else s
    | none => s
  | none => s

/-- What a FORK that is executed again goes on with (R191, R366, R407). -/
def forkResumes (g : Group) : Option Resume :=
  match g.cont with
  | some (pc, .forked) => if pc = g.strand.pc then some .forked else none
  | some (pc, .child c) => if pc = g.strand.pc then some (.child c) else none
  | _ => none

/-- FORK (R191). -/
def execFork (a : RegCode) (s : State) : Result :=
  issueStrand (.fork a) (fun s =>
    let o := (rdOp 1 a).pair true
    let rcd := uPair s o
    match forkResumes s.cur with
    | some (.child c) =>
      let s1 := modCur (fun g => { closeIdem g with cont := none }) s
      if gangGone s c then .next (modCur nextPc s1) else .next (modCur (groupHold (.forkChild c)) s1)
    | some _ => .next (modCur (fun g => nextPc { closeIdem g with cont := none }) s)
    | none =>
      orTrap (firstSome [mustBeU s o, if s.cur.region.isSome then some (trapOf .shape 0xEE) else none,
          if rcd.toNat % 128 ≠ 0 then some (trapOf .align rcd) else none])
        (fun s =>
          if !wholeStrand s.cur || !countersZero s.cur then
            .next (modCur (holdStrand (clkOf s) (.forkGather rcd)) { s with last := .stalled })
          else if forkDiffers s s.cur.team (rcd, s.cur.strand.pc) then .next (contextError 0x05 0xEE s)
          else .next (gatherFork s.cur.team (modCur (fun g => groupHold (.forkTeam rcd) (closeIdem g)) s))) s) s

/-! ### ENQ -/

/-- A queue of the issuing context that exists (R192). -/
def enqQueue (s : State) (q : Nat) : Bool := (getQueue s (queueKey s.cur.ctx q)).live

/-- What the atomic add on prod gives (R192, R323): an index, the poison that it meets (R396), or nothing where the record cannot be reached. -/
inductive IndexStep where
  | at (i : Nat) (s : State)
  | poison (addr : DWord)
  | none
  deriving DecidableEq, Repr

/-- Takes an index by the atomic add on prod (R192, R323). -/
def takeIndex (k : Nat) (s : State) : IndexStep :=
  match frontTarget (k / 64) ((getQueue s k).rcd + 0x20) .wr s with
  | (.ok (_, loc), s1) =>
    if isPoisoned s1 0 loc 8 then .poison (poisonLocator loc)
    else
      let i := readBytes s1 0 loc 8
      .at i (writeBytes 0 loc 8 (i + 1) s1)
  | _ => .none

/-- The end of the budget of an ENQ that waits from now on (R192); none is unlimited. -/
def enqDeadline (s : State) : Option DWord :=
  let p := fieldW (s.cur.feb.getD (gmField s.cur 20 2) 0) 8 24
  if p = 0 then none else some (s.time + dw (1000 * p))

/-- A group whose strand waits in ENQ behind a SAFE begins its save once it is pre-empt-pending, of one strand, and its counters are 0
(R116, R192); a buddy that waits in GFUSE for it learns BUDDY_GONE (R127; DEDUCED, log entry 93). -/
def swapEnq (s : State) (g : Group) : State :=
  match g.strand.hold, safeBefore s g g.strand with
  | .enq q i p d, some e =>
    if g.preempt && g.saving.isNone && !g.inTrap && wholeStrand g && countersZero g then
      endFuseOf g 2 (modGroup g.id (fun g => beginSave e { g with cont := some (g.strand.pc, .enq q i p d) }) s)
    else s
  | _, _ => s

/-- The groups that wait in ENQ and can begin their saves do (R192). -/
def swapEnqs (s : State) : State := (groups s).foldl swapEnq s

/-- The wait of an ENQ for its slot (R192): resident, or saved through the SAFE before it with the rest of its team, a pre-emption of its
group as R127 means it (DEDUCED, log entry 93). -/
def waitEnq (q index : Nat) (pkt : List Byte) (deadline : Option DWord) (s : State) : State :=
  let stay := modCur (holdStrand (clkOf s) (.enq q index pkt deadline)) s
  match safeBefore s s.cur s.cur.strand with
  | none => stay
  | some _ => if s.cur.preempt then stay else (markTeam s.cur.team stay).getD stay

/-- ENQ goes on with an index that it holds (R192, R342); where the slot's page is absent it waits for the page. -/
def placeEnq (q index : Nat) (pkt : List Byte) (deadline : Option DWord) (s : State) : State :=
  let k := queueKey s.cur.ctx q
  if slotFree (getQueue s k) index then
    match placePacket k index pkt s with
    | some (none, s1) => modCur nextPc s1
    | some (some a, s1) => consumePoison a s1
    | none => slotWait k index (modCur (holdStrand (clkOf s) (.enq q index pkt deadline)) s)
  else waitEnq q index pkt deadline s

/-- The index that an ENQ has taken before (R342, R407). -/
def enqHeld (g : Group) : Option (Nat × Nat × List Byte × Option DWord) :=
  match g.cont with
  | some (pc, .enq q i p d) => if pc = g.strand.pc then some (q, i, p, d) else none
  | _ => none

/-- ENQ_TIMEOUT (R192, R324) of the strand of a group that holds a lane: the index stays taken, and the queue skips it. -/
def timeoutEnq (gid lane q index : Nat) (s : State) : State :=
  match findGroup gid s with
  | none => s
  | some g =>
    let k := queueKey g.ctx q
    takeTrap (trapOf .enqTimeout (dw q)) (modCur (fun g => { g with strand := { g.strand with hold := .none } })
      (focusLane gid lane (setLast k index (skipIndex k index s))))

/-- Whether every access that the issuing group has issued is performed at system scope: an ENQ's fill releases there (R277). -/
def enqReleased (s : State) : Bool := allPerformed s s.cur 4 s.nextId s.cur.outs

/-- ENQ (R192). -/
def execEnq (a b : RegCode) (s : State) : Result :=
  issueStrand (.enq a b) (fun s =>
    match enqHeld s.cur with
    | some (q, i, p, d) =>
      let s1 := modCur (fun g => { closeIdem g with cont := none }) s
      if enqOver s d then .next (timeoutEnq s.cur.id ((lowestLane (activeLanes s.cur)).getD 0) q i s1)
      else if slotFree (getQueue s (queueKey s.cur.ctx q)) i then .next (placeEnq q i p d s1)
      else .next (modCur (holdStrand (clkOf s) (.enq q i p d)) s1)
    | none =>
      let o := (rdOp 1 a).pair true
      let addr := uPair s o
      let v := uWord s (rdOp 2 b)
      let r := dw (effReg s.cur (rdOp 2 b))
      orTrap (firstSome [mustBeU s o, mustBeU s (rdOp 2 b), if addr.toNat % 64 ≠ 0 then some (trapOf .align addr) else none,
          if fieldW v 6 26 ≠ 0 then some (trapOf .reservedField r) else none,
          if enqQueue s (fieldW v 0 6) then none else some (trapOf .protect r)])
        (fun s => if !enqReleased s then stallIssue s else withOwnRead false addr (fun pkt s =>
          match takeIndex (queueKey s.cur.ctx (fieldW v 0 6)) s with
          | .at i s1 => .next (placeEnq (fieldW v 0 6) i pkt (enqDeadline s) (modCur closeIdem s1))
          | .poison a => .next (consumePoison a (modCur closeIdem s))
          | .none => .next (takeTrap (trapOf .protect r) s)) s) s) s

/-- The strand of a group whose ENQ has waited for its budget, with its queue and its index. -/
def enqLate (s : State) (g : Group) : Option (Strand × Nat × Nat) :=
  (allStrands g).findSome? (fun t => match t.hold with | .enq q i _ d => if enqOver s d then some (t, q, i) else none | _ => none)

/-- ENQ_TIMEOUT (R192): the budget of a group's ENQ has run out. -/
def execEnqTimeout (gid : Nat) (s : State) : Result :=
  match findGroup gid s with
  | none => .next s
  | some g => match enqLate s g with
    | some (t, q, i) => .next (timeoutEnq gid ((lowestLane t.mask).getD 0) q i s)
    | none => .next s

/-! ### Retirement -/

/-- Whether a group retires (R114): all lanes exited, the counters 0, and its region, where one is open, acknowledged; no copy that it has
abandoned still reads its team's scratchpad (R276). -/
def mayRetire (s : State) (g : Group) : Bool :=
  residentLanes g == 0 && countersZero g && !g.parked && (getGang s g.gang).status != .aborting &&
  !s.engines.any (fun x => x.gid.isNone && x.pkt.isNone && x.team == g.team) &&
  (match g.region with | some r => (unackedIds s g.id r.firstOp).isEmpty && r.failing.isNone | none => true)

/-- A team whose groups have all retired retires: what it held is free, and its slice may be complete (R336, R337). -/
def finishTeam (tid : Nat) (s : State) : State :=
  let t := getTeam s tid
  let s1 := releaseTeam t (setTeam tid Team.vacant s)
  let g := getGang s1 t.gang
  match g.queue with
  | some (k, _) => if g.irqs && sliceDone s1 t.gang t.part then queueInterrupt k s1 else s1
  | none => s1

/-- GROUP_RETIRE (R114, R127, R191, R337, R364). -/
def execGroupRetire (gid : Nat) (s : State) : Result :=
  match findGroup gid s with
  | none => .next s
  | some g =>
    if !mayRetire s g then .next s
    else
      let s1 := dropGroups (fun h => h.id == gid) (endFuseOf g 2 s)
      if (teamGroups s1 g.team).isEmpty then .next (finishTeam g.team s1)
      else .next (gatherFork g.team (settleTeam g.team s1))

/-! ### Restoring a team -/

/-- Seats the restored groups of a team (R366). -/
def restoreTeam (tid core q : Nat) (h : KHeader) (s : State) : State :=
  let t0 := getTeam s tid
  let t := { t0 with status := .running, core := core, quarter := q, hdr := h, scrAt := (scrPlaces s t0.part core h).1,
                     scrAtF := (scrPlaces s t0.part core h).2, saves := [], saveAt := none, booked := false, scrL := Scratch.clear,
                     scrF := Scratch.clear, tilesL := [], tilesF := [], tpoison := [], streams := [] }
  let make := fun (b : Nat × Nat) => match t0.saves.find? (fun r => r.base == b.1) with
    | some r => restoredGroup s tid t r
    | none => freshGroup s tid t b
  seatGroups h t.part core q make (savedGroups t0) (setTeam tid t s)

/-- PLACEMENT (R365): no header fits any core; each group takes the class M trap, and the gang aborts. -/
def placementTrap (tid : Nat) (s : State) : State :=
  let t := getTeam s tid
  let s1 := t.saves.foldl (fun s r => interruptPf 3 (dayRecord
    { time := s.time, kind := 0x01, ctx := t.ctx, part := t.part, core := 0xFF, slot := 0xFF, code := Cause.placement.code, id := r.safe,
      val := dw r.safe, aux := 0 } s)) s
  abortGang t.gang Cause.placement.code s1

/-- Whether other work goes before the restore of a saved team in the order of priorities (R332, R339). -/
def restoreYields (s : State) (t : Team) : Bool :=
  let g := getGang s t.gang
  savedAhead s (1#4 <<< t.part) g.rcd.prio g.seq || binAhead s (1#4 <<< t.part) g.rcd.prio || launchAhead s t.part g.rcd.prio g.seq

/-- The place of a saved team stays reserved while its leader alone is clocked (R336). -/
def bookTeam (tid core q : Nat) (h : KHeader) (s : State) : State :=
  let t := getTeam s tid
  let a := scrPlaces s t.part core h
  setTeam tid { t with booked := true, core := core, quarter := q, hdr := h, scrAt := a.1, scrAtF := a.2 } s

/-- TEAM_RESTORE (R332, R336, R365, R366). -/
def execTeamRestore (tid : Nat) (core : Option Nat) (s : State) : Result :=
  let t := getTeam s tid
  if t.status != .saved || quiescing s t.ctx || restoreWaits s t || restoreYields s t then .next s
  else match restoreHeader s t, core with
    | none, _ => .next (placementTrap tid s)
    | some _, none => .next s
    | some h, some c =>
      let s0 := setTeam tid { t with booked := false } s
      if t.booked && c != t.core then .next s
      else match fitQuarter s0 t.part c h (savedGroups t) with
        | none => .next s
        | some q => match activate t.part c h s0 with
          | .ready s1 => .next (restoreTeam tid c q h s1)
          | .half s1 => .next (bookTeam tid c q h s1)
          | .none => .next s

/-- The end of a restore (R366): the group has reached the instruction after its SAFE, and its save area is free. -/
def endRestore (gid : Nat) (s : State) : State :=
  match findGroup gid s with
  | none => s
  | some g => match g.restoring with
    | some pc =>
      if g.strand.pc = pc then modGroup gid (fun g => { g with restoring := none, restoreArea := 0 }) (dropArea g.ctx g.restoreArea s)
      else s
    | none => s

end Sys2Proof.Machine
end

