-- ==== Sys2Proof/Machine/Packets.lean ====
section
/-! DEFINITION. The packets of the queues: consumption, rejection, and what each kind does (R324 to R330, R338, R405); and the
completion and the failure of engine operations, a COPY's among them (R40, R179, R180, R327). -/

namespace Sys2Proof.Machine

/-! ### The form of a packet -/

/-- Whether the words of a packet from one on, but for some, are 0. -/
def restZero (p : Packet) (used : List Nat) : Bool := (List.range 8).all (fun i => i == 0 || used.contains i || p.word i == 0)


/-- Whether a size word of a COPY is legal (R182, R327): BIND and YIELD 0. -/
def copySizeLegal (v : DWord) : Bool := fieldD v 47 17 == 0 && decide (fieldD v 0 41 ≤ 2 ^ 40) && !v.getLsbD 45 && !v.getLsbD 46

/-- The engine operation's full/empty treatment keeps to whole words (R183). -/
def copyFeAligned (p : Packet) : Bool := fieldD (p.word 3) 41 2 == 0 || fieldD (p.word 3) 0 41 % 8 == 0

/-- Whether the fields of a packet are legal (R326 to R328), apart from what its addresses lead to. -/
def packetLegal (s : State) (c : Nat) (p : Packet) : Bool :=
  let w0 := p.word 0
  let scope := fun (v : DWord) => decide (2 ≤ fieldD v 8 3) && decide (fieldD v 8 3 ≤ 4)
  fieldD w0 11 53 == 0 && (!w0.getLsbD 10 || p.kind == 1) &&
  (match p.kind with
    | 1 => restZero p [1] && (p.word 1).toNat % 128 == 0
    | 2 => restZero p [1, 2, 3, 4, 5, 6, 7] && aligned8 (p.word 1) && aligned8 (p.word 2) && aligned8 (p.word 5) && aligned8 (p.word 6) &&
        copySizeLegal (p.word 3) && copyFeAligned p && decide ((p.word 4).toNat < 4) && (getCtx s c).affinity.getLsbD (p.word 4).toNat &&
        ((p.word 3).getLsbD 44 || p.word 5 == 0)
    | 3 => restZero p [1, 2, 3] && aligned8 (p.word 1) && decide (fieldD (p.word 3) 0 3 ≤ 2) && scope (p.word 3) &&
        fieldD (p.word 3) 3 5 == 0 && fieldD (p.word 3) 11 53 == 0
    | 4 => restZero p [1, 2, 3, 4, 6] && aligned8 (p.word 1) && aligned8 (p.word 6) && decide (fieldD (p.word 4) 0 3 ≤ 4) &&
        scope (p.word 4) && fieldD (p.word 4) 3 5 == 0 && fieldD (p.word 4) 11 21 == 0
    | 5 => restZero p []
    | 6 => restZero p [1] && aligned8 (p.word 1)
    | 7 => restZero p []
    | _ => false)

/-- The word that a packet uses for a full/empty operation (R328). -/
def feWordOf (p : Packet) : Option DWord :=
  if p.kind = 2 && (p.word 3).getLsbD 44 then some (p.word 5)
  else if p.kind = 3 && fieldD (p.word 3) 0 3 = 1 then some (p.word 1)
  else if p.kind = 4 && fieldD (p.word 4) 0 3 = 4 then some (p.word 1)
  else none

/-- Whether a packet's full/empty word lies in host memory (R328), or the page that must be there to tell. -/
def feWordCheck (s : State) (c : Nat) (p : Packet) : Got Bool :=
  match feWordOf p with
  | none => .ok true
  | some a => match addrForm s a with
    | .plain va => match findLeaf s c 0 dieCore va with
      | .leaf l => .ok (l.mtype == .device)
      | .absent g => .wait va g
      | .broken => .ok true
    | _ => .ok true

/-! ### LAUNCH -/

/-- The gang of a LAUNCH packet (R325, R333). -/
def launchGang (k : Nat) (p : Packet) (r : LaunchRec) (h : KHeader) (f : Option KHeader) : Gang :=
  { Gang.vacant with status := .dep, seq := p.seq, ctx := k / 64, queue := some (k, p.index), irq := p.irq, irqs := (p.word 0).getLsbD 10,
                     rcd := r, hdr := h, fallback := f }

/-- Reads the record and the header of a LAUNCH packet, and makes its gang or rejects it (R328, R333). -/
def admitLaunch (k : Nat) (p : Packet) (s : State) : State :=
  let c := k / 64
  if p.denied then failPacket k p (recordDone s c (p.word 1)) 0x08 s
  else match readLaunch s c (p.word 1) with
    | .wait va g => holdPacket k va (frontWait c va .rd g s)
    | .ok (r, h, f) =>
      let x := launchGang k p r h f
      if noFit s x then failPacket k p r.done 0x04 s
      else
        let q := getQueue s k
        setGang p.seq x (setQueue k { q with cur := q.cur.map (fun p => { p with gang := some x.seq, held := none }) } s)
    | .deny _ => failPacket k p (recordDone s c (p.word 1)) 0x08 s
    | .err e => failPacket k p (recordDone s c (p.word 1)) e s

/-- Carries on the LAUNCH of a gang whose DEPs are over (R330, R333, R338): one without teams completes, another sends its
reservations when its turn comes. -/
def runLaunch (gid : Nat) (s : State) : State :=
  let g := getGang s gid
  if g.status != .dep || !headOfQueue s g || !depsDone s g then s
  else if g.rcd.teams = 0 then
    (match fillWord g.ctx g.rcd.done g.rcd.value s with
      | some _ => endGang gid g.rcd.value (takeHandles gid (startPacket g s))
      | none => fillHeld g.ctx g.rcd.done s)
  else if nextToReserve s gid then sendReservation gid s
  else s

/-- LAUNCH (R330, R333, R338). -/
def execLaunch (c q : Nat) (s : State) : Result :=
  let k := queueKey c q
  match (getQueue s k).cur with
  | some p =>
    if p.kind != 1 then .next s
    else match p.gang with
      | some g => .next (runLaunch g s)
      | none => .next (admitLaunch k p s)
  | none => .next s

/-! ### Consumption -/

/-- Whether the current packet of a queue starts now (R330); a SIGNAL or a NOP consumed while ABT is set starts at once (R405). -/
def startsNow (s : State) (k : Nat) (p : Packet) : Bool :=
  mayStart s k p || ((getQueue s k).abt && p.inAbt && startsInAbort p)

/-- A packet that keeps later ones from starting moves behind the front of its queue once it has started (R330). -/
def makeBusy (k : Nat) (p : Packet) (s : State) : State :=
  let q := getQueue s k
  setQueue k { q with cur := none, busy := some { p with since := s.time } } s

/-- The completion word of a rejected packet: done of a COPY, and of the record of a LAUNCH (R328); the page to wait for before the
record can be read. -/
def rejectDone (s : State) (c : Nat) (p : Packet) : Got DWord :=
  if p.kind = 2 then .ok (if aligned8 (p.word 6) then p.word 6 else 0)
  else if p.kind = 1 && (p.word 1).toNat % 128 == 0 && !p.denied then
    match frontBytes s c (p.word 1) 128 with
    | .wait va g => .wait va g
    | _ => .ok (recordDone s c (p.word 1))
  else .ok 0

/-- Rejects a packet for its own fields (R328). -/
def rejectPacket (k : Nat) (p : Packet) (s : State) : State :=
  match rejectDone s (k / 64) p with
  | .ok w => failPacket k p w 0x01 s
  | .wait va g => holdPacket k va (frontWait (k / 64) va .rd g s)
  | _ => failPacket k p 0 0x01 s

/-- What follows consumption: a bad packet is rejected; a LAUNCH's record is read; a QBARRIER or a TIMESTAMP that may start has
started (R327, R328, R330). -/
def acceptPacket (k : Nat) (p : Packet) (s : State) : State :=
  let c := k / 64
  if !packetLegal s c p then rejectPacket k p s
  else if p.denied && p.kind != 1 then failPacket k p (if p.kind = 2 then p.word 6 else 0) 0x08 s
  else match feWordCheck s c p with
    | .wait va g => holdPacket k va (frontWait c va .feWrite g s)
    | .ok false => failPacket k p (if p.kind = 2 then p.word 6 else 0) 0x01 s
    | _ =>
      if p.kind = 1 then admitLaunch k p s
      else if (p.kind = 5 || p.kind = 6) && mayStart s k p then makeBusy k p s
      else s

/-- The consumption of a slot: cons rises, the slot's first word becomes empty, and waiting ENQs go on (R325). -/
def advanceQueue (k : Nat) (s : State) : State :=
  let q := getQueue s k
  let s1 := emptySlot k (q.cons.toNat % 2 ^ q.lgslots) s
  let s2 := writeRecord k 0x10 8 (q.cons + 1).toNat (setQueue k { getQueue s1 k with cons := q.cons + 1 } s1)
  serveEnqs k s2

/-- The packet in the slot of the next index (R325). -/
def nextPacket (s : State) (k : Nat) (bs : List Byte) : Packet :=
  { index := (getQueue s k).cons.toNat, seq := s.gangNo, inAbt := (getQueue s k).abt, words := (List.range 8).map (fun i => dw (fieldAt bs (8 * i) 8)),
    since := s.time, gang := none, held := none, denied := false }

/-- The NOP that a queue consumes in the place of a skipped index (R324). -/
def skippedPacket (s : State) (k : Nat) : Packet := nextPacket s k (7 :: List.replicate 63 0)

/-- Whether the first word of a queue's slot is still to be made empty when its page comes in (R322, R324). -/
def slotOwed (q : Queue) : Bool := q.slots.contains (q.cons.toNat % 2 ^ q.lgslots)

/-- PACKET_CONSUME (R324, R325, R328); a packet that stands at the front and waited for a page is looked at again. -/
def execPacketConsume (c q : Nat) (s : State) : Result :=
  let k := queueKey c q
  let x := getQueue s k
  match x.cur with
  | some p => if p.gang.isNone then .next (acceptPacket k p s) else .next s
  | none =>
  if !x.live || x.stopped then .next s
  else if slotOwed x then .next (payQueue k s)
  else if x.skip.contains x.cons.toNat then
    let p := skippedPacket s k
    .next (acceptPacket k p (advanceQueue k { setQueue k { x with skip := x.skip.filter (fun i => i != x.cons.toNat), cur := some p } s with
      gangNo := s.gangNo + 1 }))
  else match frontPlace s c (slotAddr x x.cons.toNat) .feWrite with
    | .wait va g => .next (frontWait c va .feWrite g s)
    | .ok (_, loc) =>
      if !readFe s 0 loc then .next s
      else
        let p := nextPacket s k ((List.range 64).map (fun i => readByte s 0 loc i))
        let bad := isPoisoned s 0 loc 64
        let s1 := advanceQueue k { setQueue k { x with cur := some p } s with gangNo := s.gangNo + 1 }
        .next (if bad then failPacket k p 0 0x08 s1 else acceptPacket k p s1)
    | _ => .next s

/-- QUEUE_ABT_POLL (R405): the front end reads the status of a held queue; once ABT is clear the held packet may start. -/
def execQueueAbtPoll (c q : Nat) (s : State) : Result :=
  let k := queueKey c q
  let x := getQueue s k
  match readRecordField s k 0x18 1 with
  | some b => if x.abt && !b.testBit 2 then .next (setQueue k { x with abt := false } s) else .next s
  | none => .next s

/-! ### The kinds -/

/-- The current packet of a queue, where it has a kind and starts now. -/
def startingPacket (s : State) (k kind : Nat) : Option Packet :=
  match (getQueue s k).cur with
  | some p => if p.kind = kind && startsNow s k p then some p else none
  | none => none

/-- NOP_PACKET (R327). -/
def execNopPacket (c q : Nat) (s : State) : Result :=
  match startingPacket s (queueKey c q) 7 with
  | some p => .next (completePacket (queueKey c q) p s)
  | none => .next s

/-- What a SIGNAL needs of its word (R327). -/
def signalKind (op : Nat) : AccKind := if op = 0 then .wr else if op = 1 then .feWrite else .at

/-- The write of a SIGNAL (R327): a plain store, a fill, or an addition under n64. -/
def signalWrite (c op va : Nat) (loc : Loc) (v : DWord) (s : State) : State :=
  match op with
  | 0 => storeAt 0 loc 8 v.toNat s
  | 1 => match feAttempt .stfu c 0 va loc v s with | some (_, s1) => s1 | none => s
  | _ => writeBytes 0 loc 8 (readBytes s 0 loc 8 + v.toNat) s

/-- SIGNAL (R327). -/
def execSignal (c q : Nat) (s : State) : Result :=
  let k := queueKey c q
  match startingPacket s k 3 with
  | none => .next s
  | some p =>
    let op := fieldD (p.word 3) 0 3
    if p.denied then .next (failPacket k p 0 0x08 s)
    else match frontTarget c (p.word 1) (signalKind op) s with
      | (.ok (va, loc), s1) =>
        if op != 0 && isPoisoned s1 0 loc 8 then .next (failPacket k p 0 0x08 s1)
        else if op = 1 && loc.isHost then .next (failPacket k p 0 0x01 s1)
        else .next (completePacket k p (signalWrite c op va loc (p.word 2) s1))
      | (.wait va g, s1) => .next (holdPacket k va (frontWait c va (signalKind op) g s1))
      | (_, s1) => .next (failPacket k p 0 0x08 s1)

/-- The condition of a WAITVAL on a word's value and its bit (R327). -/
def waitvalHolds (p : Packet) (v : DWord) (full : Bool) : Bool :=
  let x := (v &&& p.word 3).toNat
  let w := (p.word 2).toNat
  match fieldD (p.word 4) 0 3 with
  | 0 => x == w
  | 1 => x != w
  | 2 => decide (w ≤ x)
  | 3 => decide (x < w)
  | _ => full

/-- A read of a WAITVAL's word (R327): the packet completes where the condition holds. -/
def pollWaitval (k : Nat) (p : Packet) (s : State) : State :=
  let c := k / 64
  let kind : AccKind := if fieldD (p.word 4) 0 3 = 4 then .feRead else .rd
  match frontPlace s c (p.word 1) kind with
  | .ok (_, loc) =>
    if isPoisoned s 0 loc 8 then failPacket k p 0 0x08 s
    else if waitvalHolds p (dw (readBytes s 0 loc 8)) (readFe s 0 loc) then completePacket k p s
    else s
  | .wait va g => frontWait c va kind g s
  | _ => failPacket k p 0 0x08 s

/-- WAITVAL (R327): the packet starts to wait, with a first read of its word. -/
def execWaitval (c q : Nat) (s : State) : Result :=
  let k := queueKey c q
  match startingPacket s k 4 with
  | some p => .next (pollWaitval k { p with since := s.time } (makeBusy k p s))
  | none => .next s

/-- The WAITVAL that waits in a queue. -/
def waitingPacket (s : State) (k kind : Nat) : Option Packet := (getQueue s k).busy.filter (fun p => p.kind == kind)

/-- WAITVAL_POLL (R327). -/
def execWaitvalPoll (c q : Nat) (s : State) : Result :=
  match waitingPacket s (queueKey c q) 4 with
  | some p => .next (pollWaitval (queueKey c q) p s)
  | none => .next s

/-- WAITVAL_TIMEOUT (R327): done receives the error value, and the packet completes. -/
def execWaitvalTimeout (c q : Nat) (s : State) : Result :=
  let k := queueKey c q
  match waitingPacket s k 4 with
  | none => .next s
  | some p =>
    let us := fieldD (p.word 4) 32 32
    if us = 0 || decide (s.time.toNat < p.since.toNat + 1000 * us) then .next s
    else match fillWord c (p.word 6) (errorValue 0x09) s with
      | some s1 => .next (completePacket k p s1)
      | none => .next (fillHeld c (p.word 6) s)

/-- A QBARRIER or a TIMESTAMP that waits at the head of its queue starts once it may (R330). -/
def startBlocking (k kind : Nat) (s : State) : State :=
  match startingPacket s k kind with
  | some p => makeBusy k p s
  | none => s

/-- QBARRIER (R327, R330): it completes once every earlier packet has. -/
def execQbarrier (c q : Nat) (s : State) : Result :=
  let k := queueKey c q
  let s1 := startBlocking k 5 s
  match waitingPacket s1 k 5 with
  | some p => if (getQueue s1 k).open_.isEmpty then .next (completePacket k p s1) else .next s1
  | none => .next s1

/-- TIMESTAMP (R327): after every earlier packet SR_TIME is stored to the word. -/
def execTimestamp (c q : Nat) (s : State) : Result :=
  let k := queueKey c q
  let s1 := startBlocking k 6 s
  match waitingPacket s1 k 6 with
  | none => .next s1
  | some p =>
    if !(getQueue s1 k).open_.isEmpty then .next s1
    else match frontTarget c (p.word 1) .wr s1 with
      | (.ok (_, loc), s2) => .next (completePacket k p (storeAt 0 loc 8 s.time.toNat s2))
      | (.wait va g, s2) => .next (frontWait c va .wr g s2)
      | (_, s2) => .next (failPacket k p 0 0x08 s2)

/-! ### COPY -/

/-- The other package that a COPY reaches, at its destination or its source (R184). -/
def copyFar (s : State) (p : Packet) : Option Nat :=
  let far := fun (a : DWord) => match addrForm s a with | .pod n _ => if n = pkgId s then none else some n | _ => none
  match far (p.word 1) with
  | some n => some n
  | none => if fieldD (p.word 3) 0 41 = 0 then none else far (p.word 2)

/-- What a COPY packet asks of its engine (R327). -/
def copyReq (p : Packet) : EngReq :=
  { kind := .copy, dst := p.word 1, src := some (p.word 2), index := none, size := fieldD (p.word 3) 0 41, lock := fieldD (p.word 3) 0 41,
    fe := fieldD (p.word 3) 41 2, land := if (p.word 3).getLsbD 44 then some (p.word 5) else none, bind := none, relay := false }

/-- The check of R183 and R184 that a COPY packet breaks: it fails, as for a cause of R180 (R327, log entry 84). It has no
scratchpad. -/
def copyBreaks (s : State) (k : Nat) (p : Packet) : Option Trap :=
  engTrap { s with cur := { Group.vacant with ctx := k / 64, part := (p.word 4).toNat, core := dieCore } } (copyReq p)

/-- The engine operation of a COPY packet (R327). -/
def copyOp (s : State) (k id : Nat) (p : Packet) : EngOp :=
  { id := id, gid := none, pkt := some (k, p.index), ctx := k / 64, team := 0, part := (p.word 4).toNat, core := dieCore, half := false, kind := .copy, dst := p.word 1,
    src := p.word 2, size := fieldD (p.word 3) 0 41, fe := fieldD (p.word 3) 41 2,
    land := if (p.word 3).getLsbD 44 then some (p.word 5) else none, bind := none,
    relay := (p.word 3).getLsbD 43, chan := none, landed := 0, ahead := [], bits := [], edges := [], filled := false, parked := false, held := none,
    remote := (copyFar s p).isSome && (copyBreaks s k p).isNone, fail := (copyBreaks s k p).map (fun t => (t.cause, t.tval)) }

/-- The barrow entry of a COPY to or from another package (R289). -/
def copyPacketEntry (s : State) (x : EngOp) (n bid : Nat) : Barrow :=
  let push := match addrForm s x.dst with | .pod m _ => m == n | _ => false
  let off := fun (a : DWord) => fieldD a 0 46
  let rcd : OpRecord :=
    { src := pkgId s, ctx := x.ctx, part := x.part, core := 0x7F, slot := 0x7F, lane := 0, tag := bid,
      kind := if push then .completion (x.land.map off) x.size else .pull x.size (BitVec.ofNat 2 x.fe),
      off := if push then off (x.land.getD 0) else off x.src, size := x.size, ty := 0, round := 0, data := BitVec.ofNat 512 x.size,
      data2 := 0, chan := none, spin := 0, park := 0, scope := 3 }
  { id := bid, dst := n, gid := none, gang := none, op := x.id, rcd := rcd, copy := some x.id, sent := 0,
    total := if push then (x.size + 65535) / 65536 else 1, cur := none, gone := [], relayed := [], refused := [],
    since := (getPeer s n).slots, reply := !push,
    answered := false, doneQ := false }

/-- COPY_PACKET (R327): the copy starts, once its barrow has room (R289), and later packets may follow it. -/
def execCopyPacket (c q : Nat) (s : State) : Result :=
  let k := queueKey c q
  match startingPacket s k 2 with
  | none => .next s
  | some p =>
    let far := if (copyBreaks s k p).isSome then none else copyFar s p
    if p.denied then .next (failPacket k p (p.word 6) 0x08 s)
    else if (match far with | some n => !barrowRoom s [n] | none => false) then .next s
    else
      let (id, s1) := freshId s
      let x := copyOp s k id p
      let s2 := match far with
        | some n =>
          let (bid, s2) := freshId s1
          { s2 with barrow := s2.barrow ++ [copyPacketEntry s x n bid] }
        | none => s1
      let y := getQueue s2 k
      .next (setQueue k { y with cur := none, open_ := y.open_ ++ [p] } { s2 with engines := s2.engines ++ [x] })

/-- The COPY packet of an engine operation, with its queue. -/
def copyOf (s : State) (x : EngOp) : Option (Nat × Packet) :=
  match x.pkt with
  | some (k, i) => ((getQueue s k).open_.find? (fun p => p.index == i)).map (fun p => (k, p))
  | none => none

/-! ### The end of an engine operation -/

/-- Whether an operation is a tile mover's, which its tile operation ends (R204). -/
def moverOp (x : EngOp) : Bool := match x.kind with | .tile .. => true | _ => false

/-- An engine operation completes (R40, R179): its ranges are free, and C falls; what waited for a copy through the issuing
package's own window goes on (R195). -/
def endEngine (x : EngOp) (s : State) : State :=
  let s1 := match s.barrow.find? (fun b => b.copy == some x.id) with
    | some b => retireEntry b.id (dropEngine x.id s)
    | none => dropEngine x.id s
  match x.gid with
  | some gid => retireEntry x.id (dropC gid s1)
  | none => retireEntry x.id s1

/-- ENGINE_COMPLETE (R40, R179, R187, R254, R327). -/
def execEngineComplete (e : Nat) (s : State) : Result :=
  match findEng e s with
  | none => .next s
  | some x =>
    if !engDone x || x.remote || moverOp x then .next s
    else match copyOf s x with
      | some (k, p) => match fillWord (k / 64) (p.word 6) (p.word 7) s with
        | some s1 => .next (completePacket k p (endEngine x s1))
        | none => .next (fillHeld (k / 64) (p.word 6) s)
      | none => .next (endEngine x s)

/-- The causes of a remote failure (R158, R300), which its issuer has learned of already. -/
def remoteCause : Cause → Bool
  | .remoteDenied | .peerLost | .remotePoison => true
  | _ => false

/-- The tile operation of a mover, at the head of its stream. -/
def moverTile (s : State) (x : EngOp) : Option (Nat × Nat × TileOp) :=
  match x.kind with
  | .tile tm k id => (findTile s tm k id).map (fun o => (tm, k, o))
  | _ => none

/-- ENGINE_FAILURE (R180, R327): the operation stops, its ranges are free, its counter falls, and its group or its packet learns of
it. -/
def execEngineFailure (e : Nat) (s : State) : Result :=
  match findEng e s with
  | none => .next s
  | some x => match x.fail with
    | none => .next s
    | some (c, v) =>
      match moverTile s x with
      | some (tm, k, o) => .next (failTile tm k o c v (dropEngine e s))
      | none => match copyOf s x with
        | some (k, p) =>
          if (fillWord (k / 64) (p.word 6) (errorValue 0x08) s).isNone then .next (fillHeld (k / 64) (p.word 6) s)
          else .next (failPacket k p (p.word 6) 0x08 (endEngine x s))
        | none => match x.gid with
          | some gid =>
            let s1 := endEngine x s
            .next (if remoteCause c then s1 else reportFail gid c v s1)
          | none => .next (endEngine x s)

/-! ### Host fills that wait -/

/-- The queue and the index of the packet that stands in the slot whose first word lies at a physical address (R324). -/
def slotIndexAt (s : State) (pa : Nat) : Option (Nat × Nat) :=
  s.queues.findSome? (fun e =>
    let q := e.2
    if !q.live then none
    else (List.range (2 ^ q.lgslots)).findSome? (fun j =>
      match frontPlace s (e.1 / 64) (slotAddr q j) .rd with
      | .ok (_, .dev b) => if b = pa / 8 * 8 then
          some (e.1, (q.cons.toNat + (j + 2 ^ q.lgslots - q.cons.toNat % 2 ^ q.lgslots) % 2 ^ q.lgslots) % 2 ^ 64) else none
      | _ => none))

/-- HOST_FILL_TIMEOUT (R324, R433): a fill that has been held for 1 µs is dropped; in a queue's slot it is a dropped packet. -/
def execHostFillTimeout (n : Nat) (s : State) : Result :=
  match s.fills[n]? with
  | none => .next s
  | some f =>
    if decide (s.time.toNat < f.since.toNat + 1000) then .next s
    else
      let s1 := { s with fills := s.fills.eraseIdx n }
      match slotIndexAt s f.pa with
      | some (k, i) =>
        let d := (i + 2 ^ (getQueue s k).lgslots) % 2 ^ 64
        .next (raiseStatus k 1 (setLast k d (skipIndex k d s1)))
      | none => .next s1

end Sys2Proof.Machine
end

