-- ==== Sys2Proof/Machine/GangAbort.lean ====
section
/-! DEFINITION. Gang abort (R279, R404, R405) and the failure of a core (R406). -/

namespace Sys2Proof.Machine

/-- Ends what a group has outstanding (R404, step 2): its records in the bench, its matrix and engine operations, its save area. -/
def stopGroup (g : Group) (s : State) : State :=
  let s1 := abandonTiles g.id 0 (withdrawWaits g.id s)
  let mine := s1.engines.filter (fun x => x.gid == some g.id)
  let fills := s1.waits.filter (fun w => match w.who with
    | .engine e => mine.any (fun x => x.id == e)
    | .lane _ _ _ => false
    | .remote _ => false
    | .tile _ _ => false)
  let s2 := mine.foldl (fun s x => dropEngine x.id s) (fills.foldl (fun s w => dropWait w s) s1)
  dropRestored g (if g.saveArea = 0 then s2 else dropArea g.ctx g.saveArea s2)

/-- The landing fill of a copy that has been sent, and may wait at its target, is withdrawn there (R250, R433). -/
def withdrawFill (b : Barrow) (s : State) : State :=
  match b.rcd.kind with
  | .completion (some _) _ =>
    if b.doneQ then
      let (id, s1) := freshId s
      { s1 with barrow := s1.barrow ++ [withdrawal id (getPeer s b.dst).slots b] }
    else s
  | _ => s

/-- Cancels a gang's barrow entries that have not been sent and its copies, and abandons its operations that have been (R404,
step 3); what withdraws its lanes and fills that wait at other packages still goes (R249, R250, log entry 82). -/
def abandonBarrow (gid : Nat) (s : State) : State :=
  let mine := fun (b : Barrow) => b.gang == some gid
  let gone := s.barrow.filter (fun b => mine b && (b.sent == 0 || b.copy.isSome) &&
    (match b.rcd.kind with | .withdraw _ => false | _ => true))
  let s1 := gone.foldl (fun s b => retireEntry b.id (withdrawFill b s)) s
  { s1 with barrow := updateWhere mine (fun b => { b with gid := none, gang := none }) s1.barrow }

/-- The bins of a gang are emptied (R404, step 4). -/
def clearBins (gid : Nat) (s : State) : State :=
  let mine := s.bins.filter (fun b => b.2.used && b.2.gang == gid)
  mine.foldl (fun s b => enterHeld b.2.part (setBin b.1 Bin.free s)) s

/-- The teams of a gang, with what they hold (R404, step 4). -/
def clearTeams (gid : Nat) (s : State) : State :=
  (s.teams.filter (fun e => e.2.gang == gid)).foldl (fun s e =>
    let s1 := e.2.saves.foldl (fun s r => dropArea e.2.ctx r.area s) (setTeam e.1 Team.vacant s)
    releaseTeam e.2 s1) s

/-- What an abort reports after the completion word has been filled (R404, step 6). -/
def reportAbort (gid : Nat) (g : Gang) (s1 : State) : State :=
  let s2 := match gangPacket s1 g with
    | some (k, p) =>
      let t := dropPacket k p s1
      raiseStatus k 6 (setLast k p.index (setQueue k { getQueue t k with abt := true } t))
    | none => s1
  interruptCtx g.ctx 63 (dayRecord { time := s1.time, kind := 0x03, ctx := g.ctx, part := 0xFF, core := 0xFF, slot := 0xFF,
                                     code := g.cause.toNat, id := 0, val := 0, aux := dw gid } s2)

/-- The child gangs that a gang's teams have forked and that have not completed (R404, step 4). -/
def childGangs (s : State) (gid : Nat) : List Nat :=
  (s.gangs.filter (fun e => match e.2.parent with | some t => (getTeam s t).gang == gid && (getTeam s t).status != .free | none => false)).map (·.1)

/-- What a gang holds is released (R404, steps 1 to 4). -/
def releaseGang (gid : Nat) (s : State) : State :=
  let s1 := ((groups s).filter (fun x => x.gang == gid)).foldl (fun s x => stopGroup x s) s
  let s2 := freePlaces gid (clearTeams gid (dropGroups (fun x => x.gang == gid) (clearBins gid (abandonBarrow gid s1))))
  setGang gid { getGang s2 gid with status := .aborting, places := [] } s2

/-- Aborts one gang (R404); where the page of its completion word is absent, the fill waits for it, and what follows waits for the fill
(R178, R434). -/
def abortOne (gid : Nat) (s : State) : State :=
  let g := getGang s gid
  let s1 := releaseGang gid s
  match fillWord g.ctx g.rcd.done (errorValue 0x05) s1 with
  | none => fillHeld g.ctx g.rcd.done s1
  | some s2 =>
    let s3 := setGang gid Gang.vacant (leaveHandles gid (reportAbort gid g s2))
    match g.parent with
    | some t => resumeFork gid t s3
    | none => s3

/-- Aborts a gang and the gangs that it has forked, the innermost first (R404, step 4); n bounds the depth. -/
def abortTree : Nat → Nat → State → State
  | 0, gid, s => abortOne gid s
  | n + 1, gid, s =>
    abortOne gid ((childGangs s gid).foldl (fun s c =>
      abortTree n c (setGang c { getGang s c with status := .aborting, cause := (getGang s gid).cause } s)) s)

/-- Forks nest to depth 8 (R340). -/
def forkDepth : Nat := 8

/-- GANG_ABORT (R404): a gang that has been stopped is aborted. -/
def execGangAbort (gid : Nat) (s : State) : Result :=
  if (getGang s gid).status == .aborting then .next (abortTree forkDepth gid s) else .next s

/-- The gangs with a team or a spawned group on a core (R406). -/
def gangsOnCore (s : State) (part core : Nat) : List Nat :=
  dedupNat ((s.teams.filter (fun e => teamOnCore e.2 part core)).map (fun e => e.2.gang))

/-- Marks gangs as aborting and makes their aborts due (R404). -/
def abortGangs (l : List Nat) (cause : Nat) (s : State) : State := l.foldl (fun s g => abortGang g cause s) s

/-- CORE_FAIL (R406): the core goes out of service, its gangs abort, and it is scheduled for retirement. -/
def execCoreFail (part core : Nat) (s : State) : Result :=
  let c := getCore s part core
  if !decide (core < enabledCores s part) || !c.service then .next s
  else
    let s1 := setCore part core { c with service := false, retire := true } s
    let s2 := dayRecord { time := s.time, kind := 0x08, ctx := 0xFF, part := part, core := core, slot := 0xFF, code := 0, id := 0,
                          val := dw (Config.coreMisses s.steps), aux := 0 } s1
    .next (abortGangs (gangsOnCore s part core) 0 s2)

end Sys2Proof.Machine
end

