-- ==== Sys2Proof/Machine/Wire.lean ====
section
/-! DEFINITION. What a flit is on the wire: the bytes of a header flit and of a data flit, trailers, lane markers, codewords, and the
checks at the receiver (R287, R372 to R377). -/

namespace Sys2Proof.Machine

/-! ### Bytes -/

/-- A barrier token as 8 bytes (R298). -/
def tokenBytes (t : Token) : List Byte :=
  bytesLE 8 (t.ctx % 32 * 2 ^ 59 + t.bar % 256 * 2 ^ 51 + t.ep % 2 ^ 19 * 2 ^ 32 + t.hash.toNat)

/-- An end-to-end acknowledgement entry as 8 bytes (R287). -/
def ackBytesOf (a : E2EAck) : List Byte :=
  bytesLE 8 (boolNat a.refused * 2 ^ 63 + a.place.toNat * 2 ^ 24 + a.num % 2 ^ 24)

/-- The first n bytes of a list, with zeros where it is shorter. -/
def padTo (n : Nat) (l : List Byte) : List Byte := (List.range n).map (fun i => l.getD i 0)

/-- A gap entry of the link fields as 4 bytes (R377). -/
def gapBytes (g : Nat × Nat) : List Byte := bytesLE 4 (g.1 % 16384 * 2 ^ 18 + g.2 % 1024 * 2 ^ 8)

/-- The 256 data bytes of a header flit (R287, R377). -/
def headerData (h : HeaderFlit) : List Byte :=
  bytesLE 8 (h.src % 1024 * 2 ^ 53 + h.slot % 32 * 2 ^ 48 + h.cycle % 2 ^ 48) ++
  bytesLE 2 h.map.toNat ++ bytesLE 2 (h.high % 16384) ++ padTo 20 ((h.gaps.take 5).flatMap gapBytes) ++
  bytesLE 8 (h.room % 65536) ++
  bytesLE 8 (h.overflow % 65536 * 2 ^ 16 + h.acks.length % 256 * 2 ^ 8 + h.tokens.length % 256) ++
  padTo 80 ((h.tokens.take 10).flatMap tokenBytes) ++ padTo 128 ((h.acks.take 16).flatMap ackBytesOf)

/-- The first 264 bytes of a header flit (R286, R375). -/
def headerBytes (h : HeaderFlit) : List Byte := padTo 8 h.front ++ headerData h

/-- The 256 data bytes of a data flit: a parcel's bytes, overflow entries, a piece for the tier, or what the spec leaves open, which is a free
value (R287, R288; log entry 100). -/
def flitData (f : FlitBody) : List Byte :=
  match f with
  | .parcel p => padTo 256 p.bytes
  | .overflow ts es => padTo 256 (ts.flatMap tokenBytes ++ es.flatMap ackBytesOf)
  | .tier bs _ => padTo 256 bs
  | .ops _ => (List.range 256).map (fun i => Config.flitByte f (8 + i))
  | .replies _ => (List.range 256).map (fun i => Config.flitByte f (8 + i))
  | .idle => padTo 256 []

/-- The first 264 bytes of a data flit: its flit header, whose layout the spec leaves open, and its data (R286, R288). -/
def flitBytes (f : FlitBody) : List Byte := (List.range 8).map (fun i => Config.flitByte f i) ++ flitData f

/-- The trailer of a flit (R375). -/
def trailer (crc : Word) (seq : Nat) (rstr : Bool) (ack : Option Nat) (idle : Bool) : DWord :=
  dw (crc.toNat * 2 ^ 32 + seq % 16384 * 2 ^ 18 + boolNat rstr * 2 ^ 17 + boolNat ack.isSome * 2 ^ 16 + ack.getD 0 % 16384 * 4 +
    boolNat idle * 2)

/-- Whether a body is that of a filler flit (R375). -/
def isIdle (f : FlitBody) : Bool :=
  match f with
  | .idle => true
  | .parcel _ => false
  | .ops _ => false
  | .replies _ => false
  | .overflow _ _ => false
  | .tier _ _ => false

/-- The 272 bytes of a data flit (R286, R375). -/
def dataWire (f : DataFlit) : List Byte := padTo 264 f.bytes ++ bytesLE 8 (trailer f.crc f.seq f.rstr f.ack (isIdle f.body)).toNat

/-- The 272 bytes of a header flit, which carries no acknowledgement in its trailer: nothing of its slot has been decoded yet (R375, R376). -/
def headerWire (h : HeaderFlit) : List Byte := headerBytes h ++ bytesLE 8 (trailer h.crc h.seq false none false).toNat

/-! ### Checks -/

/-- The codewords of one wavelength in one slot: the numbers of their symbols and of their data symbols (R372). -/
def codewords : List (Nat × Nat) := List.replicate 18 (544, 514) ++ [(378, 348)]

/-- The symbol errors that a codeword may have (R372). -/
def correctable : Nat := 15

/-- The codewords of a list that the slot has on the wavelengths of a lane map: on others nothing is decoded or counted (R372). -/
def mapWords (m : BitVec 16) (l : List (Nat × Nat × Nat)) : List (Nat × Nat × Nat) :=
  l.filter (fun e => m.getLsbD e.1 && decide (e.2.1 < codewords.length))

/-- Whether a codeword of a list has more symbol errors than can be corrected (R373). -/
def uncorrectable (l : List (Nat × Nat × Nat)) : Bool := l.any (fun e => decide (correctable < e.2.2))

/-- Whether a data flit that came under a receive lane map survives decoding and the check of its CRC (R373, R375). -/
def flitGood (m : BitVec 16) (f : DataFlit) : Bool := !uncorrectable (mapWords m f.words) && crc32 (padTo 264 f.bytes) == f.crc

/-- The same of a header flit. -/
def headerGood (m : BitVec 16) (h : HeaderFlit) : Bool := !uncorrectable (mapWords m h.words) && crc32 (headerBytes h) == h.crc

/-! ### Times -/

/-- The live wavelengths of a lane map. -/
def liveLanes (m : BitVec 16) : Nat := ((List.range 16).filter (fun i => m.getLsbD i)).length

/-- The wavelengths that carry the 17 beats of a flit (R286, R374): beat b of the stream goes to the (b mod λ)-th live one. -/
def flitLanes (m : BitVec 16) (beat : Nat) : List Nat :=
  let live := (List.range 16).filter (fun i => m.getLsbD i)
  (List.range 17).map (fun i => live.getD ((beat + i) % live.length) 0)

/-- The payload of a slot, 480 ns, in units of 1/75 ns (R285, R286). -/
def payload : Nat := 36000

/-- How long a flit of 272 bytes lasts at 25 bytes in a ns on each live wavelength, in units of 1/75 ns (R374); the wavelengths of a map come in
quads. -/
def flitTime (m : BitVec 16) : Nat := 816 / liveLanes m

/-- Whether a flit that begins at a time of the payload ends within it, under a lane map (R286). -/
def flitFits (m : BitVec 16) (at_ : Nat) : Bool := m != 0 && decide (at_ + flitTime m ≤ payload)

/-- The flits of a slot under a lane map (R286), its header among them. -/
def slotFlits (m : BitVec 16) : Nat := if m = 0 then 0 else payload / flitTime m

end Sys2Proof.Machine
end

