-- ==== Sys2Proof/Machine/Rota.lean ====
section
/-! DEFINITION. The porters: header and data flits of a slot, sequence numbers, acknowledgement and replay, barrow entries and copy
parcels, relay, pod-barrier tokens, and what arrives from other packages (R281 to R296, R298, R375 to R378). -/

namespace Sys2Proof.Machine

/-! ### The calendar -/

/-- The number of the slot in which time stands, counted from the rota origin (R283). -/
def absSlot (s : State) : Nat := (s.time - s.tbase.origin).toNat / 512

/-- The peer that port p faces in a slot (R281); the anchor port of die d faces its fixed peer in the checkpoint tier, number 1,024 + d here
(R391). -/
def slotPeer (s : State) (slot p : Nat) : Nat := if p < 32 then pkgId s ^^^ (32 * (slot % slotsPerCycle s) + p) else 992 + p

/-- The port that faces a peer (R281, R391). -/
def peerPort (s : State) (q : Nat) : Nat := if q < 1024 then (pkgId s ^^^ q) % 32 else q - 992

/-- Whether a number names a package that a port can face: another one of the pod, or a peer in the tier. -/
def facesPeer (s : State) (q : Nat) : Bool := (decide (q < podSize s) && q != pkgId s) || (decide (1024 ≤ q) && decide (q < 1028))

/-- Whether the pair with a peer is formed (R379): its fibre delay, in 0.1 ns, is at most 400 ns. -/
def formed (s : State) (q : Nat) : Bool := decide (s.fibre.getD q 0 ≤ 4000)

/-- The slot that has begun. -/
def runningSlot (s : State) : Option Nat := if s.tbase.inrota && s.slotAt != 0 then some (s.slotAt - 1) else none

/-- How far time stands in the payload of a slot, in units of 1/75 ns; none before it begins, 32 ns into the slot (R285). -/
def payloadNow (s : State) (slot : Nat) : Option Nat :=
  let m := (s.time - s.tbase.origin).toNat - 512 * slot
  if m < 32 then none else some (min payload (75 * (m - 32)))

/-- The slot and the peer of a port that sends and receives in the running slot (R281, R379). -/
def portRuns (s : State) (p : Nat) : Option (Nat × Nat) :=
  match runningSlot s with
  | some slot => if slotPeer s slot p != pkgId s && formed s (slotPeer s slot p) then some (slot, slotPeer s slot p) else none
  | none => none

/-- What the state keeps for a port. -/
def getPort (s : State) (p : Nat) : Port := Sparse.get Port.start s.ports p

/-- Replaces what is kept for a port. -/
def setPort (p : Nat) (v : Port) (s : State) : State := { s with ports := Sparse.set Port.start s.ports p v }

/-- Applies f to what is kept for a peer. -/
def modPeer (q : Nat) (f : Peer → Peer) (s : State) : State := setPeer q (f (getPeer s q)) s

/-- Applies f to what is kept for a port. -/
def modPort (p : Nat) (f : Port → Port) (s : State) : State := setPort p (f (getPort s p)) s

/-- Whether sequence number a precedes b (R375). -/
def seqBefore (a b : Nat) : Bool := a != b && decide ((b + 16384 - a) % 16384 < 8192)

/-- Puts a flit into a list in SEQ order. -/
def insertSeq (f : Nat × Nat × FlitBody) : List (Nat × Nat × FlitBody) → List (Nat × Nat × FlitBody)
  | [] => [f]
  | g :: l => if seqBefore f.1 g.1 then f :: g :: l else g :: insertSeq f l

/-! ### Entries -/

/-- Whether an entry is a copy to another package: its parcels and its completion record. -/
def isPush (b : Barrow) : Bool := b.copy.isSome && (match b.rcd.kind with | .completion _ _ => true | _ => false)

/-- Whether a parcel is sent or on its way through a broker. -/
def parcelOff (b : Barrow) (n : Nat) : Bool := b.gone.contains n || b.relayed.any (fun r => r.1 == n)

/-- The next parcel of a copy on the direct path. -/
def nextParcel (b : Barrow) : Option Nat :=
  match b.cur with
  | some n => some n
  | none => (List.range b.total).find? (fun n => !parcelOff b n)

/-- Whether the completion record of a copy may be queued (R290). -/
def completionDue (b : Barrow) : Bool := isPush b && !b.doneQ && b.relayed.isEmpty && b.cur.isNone && (nextParcel b).isNone

/-- Whether an entry still has something to send on the direct path, before which nothing later of its group may go (R274). -/
def directUnsent (b : Barrow) : Bool := if isPush b then (nextParcel b).isSome || completionDue b else b.sent == 0

/-- Whether an earlier operation for the same package keeps an operation of a group from entering the barrow (R257, R274, R276): one of the
group that has not entered, one that the group has abandoned until it has been sent whole, one that the group from which it was divided
had left until it has retired. -/
def goesBefore (s : State) (gid : Nat) (e : Barrow) : Bool :=
  (e.gid == some gid && !e.queued) || (e.left == some gid && (if isPush e then !e.doneQ else e.sent == 0)) ||
  (match findGroup gid s with | some g => g.inherits.contains e.id | none => false)

/-- Whether an earlier operation for the same package keeps an operation from entering; a withdrawal follows only what it withdraws. -/
def waitsBehind (s : State) (b : Barrow) : Bool :=
  match b.gid, b.rcd.kind with
  | none, _ => false
  | _, .withdraw _ => false
  | some gid, _ => s.barrow.any (fun e => decide (e.id < b.id) && e.dst == b.dst && goesBefore s gid e)

/-- Whether the memory order lets a lane's record go (R155, R162, R163): a write once its barrow has accepted it, a read once it may be
performed. -/
def recordMayGo (s : State) (b : Barrow) : Bool :=
  match b.gid with
  | none => true
  | some gid => match findGroup gid s with
    | none => true
    | some g => match findOp b.op g with
      | none => true
      | some o => (o.lanes.any (fun l => l.lane == b.rcd.lane && l.done)) || (b.reply && canPerform s g o)

/-- Whether an engine operation may use its source now. -/
def engineMaySend (s : State) (e : Nat) : Bool :=
  match findEng e s with
  | some x => x.fail.isNone && x.held.isNone && x.remote && engineMayAct x s
  | none => false

/-- Whether an entry sends an operation record next. -/
def sendsRecord (b : Barrow) : Bool := !isPush b || completionDue b

/-- Whether an entry was queued after the running slot to its package had begun (R316). -/
def queuedLate (s : State) (b : Barrow) : Bool := decide ((getPeer s b.dst).slots ≤ b.since)

/-- Whether what an operation sends may go: its record, or its source (R155, R162, R163, R178). -/
def mayGo (s : State) (b : Barrow) : Bool := match b.copy with | some e => engineMaySend s e | none => recordMayGo s b

/-- Whether an entry can send something now on the direct path. -/
def sendable (s : State) (b : Barrow) : Bool :=
  !(sendsRecord b && queuedLate s b) && (match b.copy with | some e => engineMaySend s e | none => true)

/-- Whether an operation enters the order of its barrow (R289, R291; log entry 86): nothing that must go before it has not entered, it may go,
and its place in the ring is free. A withdrawal takes the place of what it withdraws. -/
def mayEnter (s : State) (b : Barrow) : Bool :=
  !b.queued && b.dst != pkgId s && !waitsBehind s b && mayGo s b &&
  (match b.rcd.kind with
    | .withdraw _ => true
    | _ => !s.barrow.any (fun e => e.queued && e.dst == b.dst && e.place.toNat == (getPeer s b.dst).tail))

/-- An entry takes its place at the end of the order of its barrow, in the slot that has begun (R289, R316). -/
def toTail (id : Nat) (f : Barrow → Barrow) (s : State) : State :=
  match findEntry id s with
  | some b => { s with barrow := s.barrow.filter (fun e => e.id != id) ++ [{ f b with queued := true, since := (getPeer s b.dst).slots }] }
  | none => s

/-- An operation enters its barrow, where it may (R289). -/
def enterBarrow (s : State) (id : Nat) : State :=
  match findEntry id s with
  | none => s
  | some b =>
    if !mayEnter s b then s
    else match b.rcd.kind with
      | .withdraw _ => toTail id (fun e => e) s
      | _ => modPeer b.dst (fun p => { p with tail := (p.tail + 1) % barrowSize })
          (toTail id (fun e => { e with place := BitVec.ofNat 14 (getPeer s b.dst).tail }) s)

/-- The operations that may enter their barrows do, in issue order (R289, R291). -/
def enterBarrows (s : State) : State := ((s.barrow.filter (fun b => !b.queued)).map (·.id)).foldl enterBarrow s

/-- An entry whose record has been sent. -/
def recordSent (b : Barrow) : Barrow := if isPush b then { b with doneQ := true } else { b with sent := 1 }

/-! ### What arrives at a copy -/

/-- The bytes of a copy's parcel. -/
def parcelBytes (b : Barrow) (n : Nat) : Nat := min 65536 (b.rcd.size - 65536 * n)

/-- Bytes of a copy have been acknowledged end to end: pending bytes fall (R183). -/
def ackBytes (b : Barrow) (n : Nat) (s : State) : State :=
  match b.copy with
  | none => s
  | some e => match findEng e s with
    | none => s
    | some x => match x.bind with
      | some off => landPend x.team off n s
      | none => s

/-- Retires an entry of which every flit has been acknowledged, and its reply, if it has one, delivered (R290). -/
def settleEntry (id : Nat) (s : State) : State :=
  match findEntry id s with
  | none => s
  | some b =>
    if stillOut s b then s
    else if b.answered then retireEntry id s
    else match b.copy with
      | none => if b.sent = 1 && !b.reply then retireEntry id s else s
      | some e => if isPush b && b.doneQ then copyReplied e none (retireEntry id s) else s

/-- The entries of this package that a flit names. -/
def entriesIn (s : State) : FlitBody → List Nat
  | .parcel p => if p.src = pkgId s && p.pull.isNone then [p.entry] else []
  | .ops l => l.map (·.tag)
  | .replies _ => []
  | .overflow _ _ => []
  | .tier _ _ => []
  | .idle => []

/-- Whether a flit carries something of a parcel that this package holds as a broker. -/
def carries (k : Brokered) : FlitBody → Bool
  | .parcel p => p.src == k.src && p.entry == k.entry && p.num == k.num && p.pull.isNone
  | .ops _ => false
  | .replies _ => false
  | .overflow _ _ => false
  | .tier _ _ => false
  | .idle => false

/-- A broker frees the space of a parcel that has come whole and of which the destination has acknowledged every flit (R294). -/
def freeBrokered (s : State) : State :=
  let out := fun (k : Brokered) => s.relay.any (fun p => carries k (.parcel p)) ||
    (((getPeer s k.dst).unacked ++ (getPeer s k.dst).replay).any (fun f => carries k f.2.2))
  { s with brokered := s.brokered.filter (fun k => !k.whole || out k) }

/-- What the link acknowledgement of a flit means (R290, R294): direct bytes have reached their destination, a broker's space is free,
and entries may retire. -/
def flitAcked (f : FlitBody) (s : State) : State :=
  let s1 := match f with
    | .parcel p =>
      if p.pull.isSome then s
      else if p.src = pkgId s then
        (if p.relayed then s else match findEntry p.entry s with | some b => ackBytes b p.bytes.length s | none => s)
      else freeBrokered s
    | _ => s
  (entriesIn s f).foldl (fun s id => settleEntry id s) s1

/-- An in-slot acknowledgement (R376): flits sent before it and not acknowledged are lost. -/
def inSlotAck (q seq : Nat) (s : State) : State :=
  let p := getPeer s q
  match p.unacked.find? (fun f => f.1 == seq) with
  | none => s
  | some f =>
    let before := p.unacked.takeWhile (fun f => f.1 != seq)
    let after := (p.unacked.dropWhile (fun f => f.1 != seq)).drop 1
    flitAcked f.2.2 (setPeer q { p with unacked := after, replay := before.foldl (fun l f => insertSeq f l) p.replay } s)

/-! ### Headers -/

/-- Whether a failure of an operation of a peer has not yet reached it (R300). -/
def failureOut (s : State) (q tag : Nat) : Bool :=
  let p := getPeer s q
  let names := fun (l : List Reply) => l.any (fun r => r.tag == tag && r.fail.isSome)
  names p.replies || (p.unacked ++ p.replay).any (fun f => match f.2.2 with | .replies l => names l | _ => false)

/-- Whether a record or a parcel of a peer is still to be performed here (R183, R194, R356), or its failure to reach the peer (R300). -/
def pendingHere (s : State) (q tag : Nat) : Bool :=
  failureOut s q tag ||
  s.served.any (fun x => x.rcd.src == q && x.rcd.tag == tag) || s.prels.any (fun x => x.rcd.src == q && x.rcd.tag == tag) ||
  s.waits.any (fun w => match w.who with | .remote r => r.src == q && r.tag == tag | _ => false)

/-- An acknowledgement is owed, after those that are owed already (R376). -/
def oweAck (l : List Nat) (n : Nat) : List Nat := if l.contains n then l else l ++ [n]

/-- Acknowledgements that were withheld until their records were performed, and now are owed (log entry 28). -/
def lateOwed (s : State) (q : Nat) (p : Peer) : Peer :=
  { p with lateAcks := p.lateAcks.filter (fun a => a.2.any (pendingHere s q)),
           owedAcks := ((p.lateAcks.filter (fun a => !a.2.any (pendingHere s q))).map (·.1)).foldl oweAck p.owedAcks }

/-- Whether the acknowledgement of a flit is withheld: that of one whose record is still to be performed (log entry 28), or which is held at a
fault (R356). -/
def ackHeld (p : Peer) (n : Nat) : Bool := p.lateAcks.any (fun a => a.1 == n) || (p.fault.isSome && p.rxnext == n)

/-- The next acknowledgement to a peer: they go in the order of decoding, so one that is withheld holds back those behind it (R376). -/
def nextAck (p : Peer) : Option Nat := p.owedAcks.head?.bind (fun n => if ackHeld p n then none else some n)

/-- One past the highest SEQ received from a peer (R377). -/
def highSeq (p : Peer) : Nat := p.rxheld.foldl (fun h f => if seqBefore h ((f.1 + 1) % 16384) then (f.1 + 1) % 16384 else h) p.rxnext

/-- The SEQs below HIGH that are not accounted as received: those not received, and those whose acknowledgement is withheld (log entry 28). -/
def missingSeqs (p : Peer) : List Nat :=
  p.lateAcks.map (·.1) ++ (if p.fault.isSome then [p.rxnext] else []) ++
  ((List.range ((highSeq p + 16384 - p.rxnext) % 16384)).map (fun k => (p.rxnext + k) % 16384)).filter
    (fun n => !p.rxheld.any (fun f => f.1 == n))

/-- A SEQ joins the gaps in order. -/
def addGap (n : Nat) : List (Nat × Nat) → List (Nat × Nat)
  | [] => [(n, 1)]
  | [(a, c)] => if (a + c) % 16384 = n && c < 1023 then [(a, c + 1)] else [(a, c), (n, 1)]
  | g :: l => g :: addGap n l

/-- The gap entries of a header: at most five, the fifth up to HIGH (R377). -/
def gapEntries (p : Peer) : List (Nat × Nat) :=
  let l := (missingSeqs p).foldl (fun l n => addGap n l) []
  if l.length ≤ 5 then l
  else l.take 4 ++ ((l.drop 4).take 1).map (fun g => (g.1, min 1023 ((highSeq p + 16384 - g.1) % 16384)))

/-- The free places of the relay area (R287, R294). -/
def relayRoom (s : State) : Nat := 32768 - s.brokered.length

/-- The tokens that this package owes a member (R298). -/
def dueTokens (s : State) (q : Nat) : List Token :=
  (s.episodes.filter (fun e => e.cover.isEmpty && e.members.contains q && !e.sentTo.contains q)).map (fun e =>
    { ctx := e.ctx, bar := e.bar, ep := e.ep, hash := e.hash })

/-- A header to a peer for a slot, with tokens and acknowledgements (R287, R377). -/
def slotHeader (s : State) (q slot : Nat) (p : Peer) (toks : List Token) (acks : List E2EAck) : HeaderFlit :=
  { front := (List.range 8).map (fun i => Config.flitByte .idle i), crc := 0, words := [], marker := none,
    missed := p.missed.filter (fun n => decide (slot < n + 16 * slotsPerCycle s)), seq := p.txseq, src := pkgId s, slot := slot % slotsPerCycle s, cycle := slot / slotsPerCycle s % 2 ^ 48,
    map := (getPort s (peerPort s q)).txmap, high := highSeq p, gaps := gapEntries p, room := relayRoom s,
    overflow := (p.overT.length + (toks.length - 10) + p.overE.length + (acks.length - 16) + 31) / 32, tokens := toks.take 10,
    acks := acks.take 16 }

/-- Fixes the header to a peer for a slot (R285, R287, R377): the tokens and acknowledgements that have no place in it become overflow
entries. -/
def fixHeader (q slot : Nat) (s : State) : HeaderFlit × State :=
  let p := lateOwed s q (getPeer s q)
  let toks := p.redoT ++ dueTokens s q
  let h := slotHeader s q slot p toks p.e2e
  let p1 := { p with owedAcks := [], redoT := [], e2e := [], overT := p.overT ++ toks.drop 10,
                     overE := p.overE ++ p.e2e.drop 16 }
  let due := fun (e : Episode) => e.cover.isEmpty && e.members.contains q && !e.sentTo.contains q
  (h, completeEpisodes { setPeer q p1 s with
        episodes := s.episodes.map (fun e => if due e then { e with sentTo := q :: e.sentTo } else e) })

/-- A header that was fixed and is not sent gives back what it was to carry (R287, R298). -/
def unfixHeader (q : Nat) (h : HeaderFlit) (s : State) : State :=
  modPeer q (fun p => { p with redoT := h.tokens ++ p.redoT, e2e := h.acks ++ p.e2e }) s

/-- Takes a port's fixed header away: the header, where it is for a slot; one for another slot gives back what it was to carry. -/
def takeFixed (p slot : Nat) (s : State) : Option HeaderFlit × State :=
  match (getPort s p).header with
  | none => (none, s)
  | some (n, h) =>
    let s1 := modPort p (fun x => { x with header := none }) s
    if n = slot then (some h, s1) else (none, unfixHeader (slotPeer s n p) h s1)

/-- The slot whose header contents are fixed, or are to be fixed, at this time: the one whose point of −64 ns was the last to pass
(R285). -/
def fixSlot (s : State) : Nat := ((s.time - s.tbase.origin).toNat + 64) / 512

/-- Whether the header of port p for that slot is still to be fixed (R285). -/
def headerDue (s : State) (p : Nat) : Bool :=
  let q := slotPeer s (fixSlot s) p
  s.tbase.inrota && decide (p < 36) && q != pkgId s && formed s q && s.slotAt != fixSlot s + 1 &&
  (match (getPort s p).header with | some (n, _) => n != fixSlot s | none => true)

/-- HEADER_FIX (R285): the contents of the coming slot's header on port p are fixed, from the point of −64 ns on. -/
def execHeaderFix (p : Nat) (s : State) : Result :=
  if !headerDue s p then .next s
  else
    let slot := fixSlot s
    let r := fixHeader (slotPeer s slot p) slot (takeFixed p slot s).2
    .next (modPort p (fun x => { x with header := some (slot, r.1) }) r.2)

/-! ### Data flits sent -/

/-- The overflow entries of a flit: 32 at most, tokens first (R287). -/
def takeOverflow (q : Nat) (s : State) : Option (FlitBody × State) :=
  let p := getPeer s q
  if p.overT.isEmpty && p.overE.isEmpty then none
  else
    let t := p.overT.take 32
    let e := p.overE.take (32 - t.length)
    some (.overflow t e, setPeer q { p with overT := p.overT.drop 32, overE := p.overE.drop e.length } s)

/-- The bytes that a data flit carries (R286). -/
def flitSize : Nat := 256

/-- The next piece of what waits to go to the tier (R391, R412). -/
def takeTier (q : Nat) (s : State) : Option (FlitBody × State) :=
  match (getPort s (peerPort s q)).tier with
  | [] => none
  | (bs, bad) :: l =>
    let rest := (bs.drop flitSize, bad.drop (flitSize / 64))
    some (.tier (bs.take flitSize) (bad.take (flitSize / 64)), modPort (peerPort s q) (fun x => { x with tier := if rest.1.isEmpty then l else rest :: l }) s)

/-- Replies owed to a peer: up to 8 records, or the next flit of a pull's data (R288). -/
def takeReplies (q : Nat) (s : State) : Option (FlitBody × State) :=
  let p := getPeer s q
  if p.replies.isEmpty then match p.parcels with
    | x :: l => some (.parcel x, setPeer q { p with parcels := l } s)
    | [] => none
  else some (.replies (p.replies.take 8), setPeer q { p with replies := p.replies.drop 8 } s)

/-- The next flit that this package holds as broker for a peer (R291, R294). -/
def takeBrokered (q : Nat) (s : State) : Option (FlitBody × State) :=
  match s.relay.find? (fun p => p.dst == q) with
  | none => none
  | some p => some (.parcel p, modPeer q (fun x => { x with passed := x.passed + 1 }) { s with relay := s.relay.erase p })

/-- How many bytes that lie before offset o of an operation lie with it in one aligned word of the source at address a. -/
def wordBefore (x : EngOp) (o : Nat) (a : DWord) : Nat :=
  min (a.toNat % 8) (match x.kind with | .gather _ _ rowbytes _ _ => (gatherRow rowbytes o).2 | _ => o)

/-- The source bytes of a parcel from offset o of its operation on, at most n: each word of the source is read whole, and what other flits
will carry of it is kept for them (R179, R261). -/
def parcelRun (x : EngOp) (o n : Nat) (s : State) : Fetched × State :=
  match sourceAddr x o s with
  | (.inr r, s1) => (.stop r, s1)
  | (.inl (a, len), s1) =>
    let m := min (min n len) (toBoundary a)
    let back := wordBefore x o a
    let fwd := min ((8 - (a.toNat + m) % 8) % 8) (len - m)
    match fetchSource x (a - dw back) (back + m + fwd) s1 with
    | (.run bs _ bad, s2) =>
      let known := ((List.range bs.length).map (fun i => o - back + i)).zip (bs.zip bad) |>.map (fun e =>
        (x.edges.find? (fun d => d.1 == e.1)).getD e)
      let mine := (known.drop back).take m
      (.run (mine.map (fun e => e.2.1)) [] (mine.map (fun e => e.2.2)),
        modEngine x.id (fun y => { y with edges := y.edges.filter (fun d => !known.any (fun e => e.1 == d.1)) ++ known.take back ++ known.drop (back + m) })
          s2)
    | (f, s2) => (f, s2)

/-- The bytes of a parcel's flit at their source: whole words under a full/empty treatment, and of a pattern (R183, R185). -/
def parcelSource (x : EngOp) (o n : Nat) (s : State) : Fetched × State :=
  if x.fe ≠ 0 then sourceRun x o n s
  else match x.kind with
    | .copy | .gather .. => parcelRun x o n s
    | .fill _ | .prefetch | .aread _ | .tile .. => sourceRun x o n s

/-- A flit of a parcel of a copy from byte o of the parcel on, and the state after its source has been read; none where the source
gives nothing now (R178, R184, R288). -/
def parcelFlit (b : Barrow) (n o : Nat) (relayed : Bool) (s : State) : Option ParcelFlit × State :=
  match b.copy.bind (fun e => findEng e s) with
  | none => (none, s)
  | some x =>
    match parcelSource x (65536 * n + o) (min 256 (parcelBytes b n - o)) s with
    | (.run bs bits bad, s1) =>
      (some { src := pkgId s, dst := b.dst, ctx := x.ctx, part := b.rcd.part, core := b.rcd.core, slot := b.rcd.slot, entry := b.id, place := b.place, num := n, off := podOff x.dst + 65536 * n + o, bytes := bs,
              feMode := BitVec.ofNat 2 x.fe, feBits := if x.fe = 1 then bits else [],
              poison := (List.range ((bs.length + 63) / 64)).map (fun k => ((bad.drop (64 * k)).take 64).any id),
              first := o == 0, last := decide (parcelBytes b n ≤ o + bs.length),
              final := decide (x.size ≤ 65536 * n + o + bs.length), relayed := relayed, pull := none }, s1)
    | (.stop r, s1) => (none, engStop x (engSrcKind x.fe) r s1)
    | (.wait, s1) => (none, s1)

/-- An entry after a flit of a direct parcel has been sent. -/
def directSent (n len : Nat) (last : Bool) (b : Barrow) : Barrow :=
  if last then { b with cur := none, sent := 0, gone := b.gone ++ [n] } else { b with cur := some n, sent := b.sent + len }

/-- Whether an entry has nothing more to send in its place, and later entries go on: all is sent, or its direct parcels are and relayed ones
are not acknowledged (R316); or the engine operation of a copy has ended. -/
def passedOver (s : State) (b : Barrow) : Bool :=
  !directUnsent b || (match b.copy with | some e => (findEng e s).isNone | none => false)

/-- The operation records that follow in one flit: those of the entries ahead of the next parcel, at most k (R288, R316). -/
def gatherRecords (q : Nat) : Nat → List Nat → State → List OpRecord × State
  | _, [], s => ([], s)
  | 0, _ :: _, s => ([], s)
  | k + 1, id :: ids, s =>
    match findEntry id s with
    | none => gatherRecords q (k + 1) ids s
    | some b =>
      if passedOver s b then gatherRecords q (k + 1) ids s
      else if sendable s b && sendsRecord b then
        let r := gatherRecords q k ids (modEntry id recordSent s)
        (b.rcd :: r.1, r.2)
      else ([], s)

/-- The next flit of this package's own entries for a peer, from the head of the barrow, in order (R178, R291 step 6, R316): an entry that cannot
send now holds back those behind it. -/
def takeOwn (q : Nat) : List Nat → State → Option FlitBody × State
  | [], s => (none, s)
  | id :: ids, s =>
    match findEntry id s with
    | none => takeOwn q ids s
    | some b =>
      if passedOver s b then takeOwn q ids s
      else if !sendable s b then (none, s)
      else if sendsRecord b then
        let r := gatherRecords q 8 (id :: ids) s
        (some (.ops r.1), r.2)
      else match nextParcel b with
        | none => (none, s)
        | some n => match parcelFlit b n b.sent false s with
          | (some p, s1) => (some (.parcel p), modEntry id (directSent n p.bytes.length p.last) s1)
          | (none, s1) => (none, s1)

/-- An entry after a flit of a relayed parcel has been sent. -/
def relaySent (n len : Nat) (b : Barrow) : Barrow :=
  { b with relayed := b.relayed.map (fun r => if r.1 = n then (r.1, r.2.1, r.2.2 + len) else r) }

/-- The next flit of a parcel that is assigned to a peer as broker (R291 step 5, R293). -/
def takeRelayOut (q : Nat) : List Barrow → State → Option FlitBody × State
  | [], s => (none, s)
  | b :: bs, s =>
    match b.relayed.find? (fun r => r.2.1 == q && decide (r.2.2 < parcelBytes b r.1)), b.copy with
    | some (n, _, o), some e =>
      if !engineMaySend s e then takeRelayOut q bs s
      else match parcelFlit b n o true s with
        | (some p, s1) =>
          let s2 := modEntry b.id (relaySent n p.bytes.length) s1
          (some (.parcel p), if p.first then modPeer q (fun x => { x with given := x.given ++ [x.slots] }) s2 else s2)
        | (none, s1) => takeRelayOut q bs s1
    | _, _ => takeRelayOut q bs s

/-- The content of the next new data flit to a peer, in the order of R291. -/
def nextBody (q : Nat) (s : State) : Option FlitBody × State :=
  match takeOverflow q s with
  | some r => (some r.1, r.2)
  | none => match takeReplies q s with
    | some r => (some r.1, r.2)
    | none => match (if (getPeer s q).passed < 352 then takeBrokered q s else none) with
      | some r => (some r.1, r.2)
      | none => match takeRelayOut q s.barrow s with
        | (some f, s1) => (some f, s1)
        | (none, s1) => match takeOwn q ((s1.barrow.filter (fun b => b.queued && b.dst == q)).map (·.id)) s1 with
          | (some f, s2) => (some f, s2)
          | (none, s2) => match takeBrokered q s2 with
            | some r => (some r.1, r.2)
            | none => match takeTier q s2 with
              | some r => (some r.1, r.2)
              | none => (none, s2)

/-- Sends a flit to a peer with an acknowledgement that is owed (R376), its beats dealt over the live wavelengths (R374). -/
def sendFlit (q seq : Nat) (body : FlitBody) (replayed : Bool) (s : State) : State :=
  let k := peerPort s q
  let p := getPeer s q
  let x := getPort s k
  let ack := nextAck p
  let f : DataFlit := { pos := x.sent, bytes := flitBytes body, crc := crc32 (flitBytes body), seq := seq, rstr := x.rstr, ack := ack, body := body,
                        words := [] }
  emit (.flit k q (flitLanes x.txmap x.beat) f)
    (setPort k { x with rstr := false, beat := x.beat + 17, next := x.next + flitTime x.txmap, sent := x.sent + 1,
                        txflit := if isIdle body then x.txflit else x.txflit + 1,
                        txreplay := if replayed then x.txreplay + 1 else x.txreplay }
      (setPeer q { p with owedAcks := if ack.isSome then p.owedAcks.drop 1 else p.owedAcks,
                          unacked := if isIdle body then p.unacked else p.unacked ++ [(seq, p.slots, body)] } s))

/-- The next data flit to a peer (R291, R376): a replay, new content, or a filler flit that carries an acknowledgement or is the first under a
new lane map. -/
def sendOne (q : Nat) (s : State) : Option State :=
  let p := lateOwed s q (getPeer s q)
  let s1 := setPeer q p s
  match p.replay.find? (fun f => decide (f.2.1 < p.slots)) with
  | some f => some (sendFlit q f.1 f.2.2 true (setPeer q { p with replay := p.replay.filter (fun g => g.1 != f.1) } s1))
  | none => match nextBody q s1 with
    | (some body, s2) =>
      let y := getPeer s2 q
      some (sendFlit q y.txseq body false (setPeer q { y with txseq := (y.txseq + 1) % 16384 } s2))
    | (none, s2) =>
      if (nextAck (getPeer s2 q)).isNone && !(getPort s2 (peerPort s2 q)).rstr then none else some (sendFlit q 0 .idle false s2)

/-- Filler flits stand in the positions of a port's slot that begin by a time of the payload and have nothing to carry (R375). -/
def fillPositions (p q upto : Nat) (s : State) : State :=
  let x := getPort s p
  let n := min ((upto - x.next) / flitTime x.txmap + 1) ((payload - x.next) / flitTime x.txmap)
  emit (.filler p q n) (setPort p { x with beat := x.beat + 17 * n, next := x.next + n * flitTime x.txmap, sent := x.sent + n } s)

/-- The data flits of a port's slot that begin by a time of the payload (R285, R286). -/
def sendAll (p q upto : Nat) : Nat → State → State
  | 0, s => s
  | n + 1, s =>
    let x := getPort s p
    if !flitFits x.txmap x.next || decide (upto < x.next) then s
    else match sendOne q s with
      | some s1 => sendAll p q upto n s1
      | none => fillPositions p q upto s

/-- Whether the porters send to a peer: the pod health table does not mark it lost or absent (R408). -/
def reachable (s : State) (q : Nat) : Bool := decide ((Sparse.get 0 s.health q).toNat < 2)

/-! ### Relay -/

/-- The data flits of an entry that have not been sent: those of its parcels, and its records (R292). -/
def unsentFlits (b : Barrow) : Nat :=
  if isPush b then
    (((List.range b.total).filter (fun n => !parcelOff b n)).map (fun n =>
      (parcelBytes b n - (if b.cur = some n then b.sent else 0) + 255) / 256)).foldl (· + ·) 0
  else 0

/-- The depth of the barrow of a package (R292). -/
def depth (s : State) (d : Nat) : Nat :=
  let l := s.barrow.filter (fun b => b.queued && b.dst == d)
  (l.map unsentFlits).foldl (· + ·) 0 +
    ((l.filter (fun b => if isPush b then completionDue b else b.sent == 0)).length + 7) / 8

/-- Whether relay may take a parcel (R293). -/
def relayable (s : State) (b : Barrow) (n : Nat) : Bool :=
  isPush b && !parcelOff b n && b.cur != some n && !b.refused.contains n &&
  (match b.copy.bind (fun e => findEng e s) with
    | some x => x.relay && (match x.kind with | .copy => true | .gather .. => true | _ => false)
    | none => false)

/-- The room that a broker is taken to have (R293). -/
def roomOf (p : Peer) : Nat := p.room - (p.given.filter (fun k => decide (p.roomAt ≤ k + 1))).length

/-- The eligible brokers for a destination; `used` are those given a parcel in this slot (R293). -/
def eligible (s : State) (slot d : Nat) (used : List Nat) : List Nat :=
  ((List.range 32).map (slotPeer s slot) ++ (List.range 32).map (slotPeer s (slot + 1))).eraseDups.filter
    (fun q => q != pkgId s && q != d && formed s q && !used.contains q && decide (1 ≤ roomOf (getPeer s q)))

/-- Relay takes parcels of one barrow, from its tail, until its depth is within the threshold; each broker is drawn (R293). -/
def relayFrom (slot d : Nat) : List (Nat × Nat) → List Nat → List Nat → State → State × List Nat × List Nat
  | [], draws, used, s => (s, draws, used)
  | (id, n) :: l, draws, used, s =>
    if depth s d ≤ s.relayq.toNat then (s, draws, used)
    else match findEntry id s with
      | none => relayFrom slot d l draws used s
      | some b =>
        let el := eligible s slot d used
        if !relayable s b n || el.isEmpty then relayFrom slot d l draws used s
        else
          let q := el.getD (draws.headD 0 % el.length) 0
          relayFrom slot d l (draws.drop 1) (q :: used) (modEntry id (fun b => { b with relayed := b.relayed ++ [(n, q, 0)] }) s)

/-- The relay selector at the start of a slot (R293). -/
def selectRelay (slot : Nat) : List Nat → List Nat → List Nat → State → State
  | [], _, _, s => s
  | d :: ds, draws, used, s =>
    let tail := (s.barrow.filter (fun b => b.queued && b.dst == d)).reverse.flatMap (fun b => (List.range b.total).reverse.map (fun n => (b.id, n)))
    let r := relayFrom slot d tail draws used s
    selectRelay slot ds r.2.1 r.2.2 r.1

/-! ### The start of a slot -/

/-- A day book record of a peer's change of state (R408). -/
def setHealth (p : Nat) (st : BitVec 2) (s : State) : State :=
  if Sparse.get 0 s.health p == st then s
  else dayPackage 0x0C 0 0 (dw p) (dw st.toNat) { s with
    health := Sparse.set 0 s.health p st, recovAt := if st = 1 then Sparse.set 0 s.recovAt p s.time else s.recovAt }

/-- A joined slot begins: the last one is judged by whether a header was accepted in it (R408); the acknowledgements that it did not carry are
those of the headers to come (R376). -/
def beginPeer (q : Nat) (s : State) : State :=
  let p := getPeer s q
  let p1 : Peer := if p.slots = 0 then p
    else if p.heard then { p with quiet := 0, seen := p.seen + 1 } else { p with quiet := p.quiet + 1, seen := 0 }
  let s1 := setPeer q { p1 with heard := false, slots := p.slots + 1, passed := 0, owedAcks := [] } s
  if Sparse.get 0 s.health q == 1 && !p1.byFabric && decide (4 ≤ p1.seen) then setHealth q 0 s1 else s1

/-- A port at the start of a slot (R285, R374). -/
def beginPort (p : Nat) (s : State) : State :=
  modPort p (fun x => { x with next := 0, sent := 0, beat := 0, head := true, rxpos := 0, rxwords := [] }) s

/-- Sends the lane markers of a slot, and a header as its first flit (R286, R372, R374, R375, R377): its lane map is that of the slot's start,
and its SEQ that of the first new data flit; what it carries is kept for the case that the peer discards it (R378). -/
def sendHeader (slot p q : Nat) (h : HeaderFlit) (s : State) : State :=
  let m := (getPort s p).txmap
  let s1 := emit (.marker p ((List.range 16).filter (fun i => m.getLsbD i)) m h.slot (h.cycle % 2 ^ 20)) s
  let h1 := { h with map := m, seq := (getPeer s q).txseq }
  emit (.header p q (flitLanes m 0) { h1 with crc := crc32 (headerBytes h1) })
    (modPort p (fun x => { x with beat := 17, next := flitTime m })
      (modPeer q (fun y => { y with sentH := y.sentH.filter (fun e => decide (slot < e.1 + 20 * slotsPerCycle s)) ++ [(slot, h.tokens, h.acks)] }) s1))

/-- The payload of a port's slot begins: its header goes (R285). Where no header was fixed for it in time, one goes that carries neither tokens
nor end-to-end acknowledgements. -/
def startPayload (slot p q : Nat) (s : State) : State :=
  let r := takeFixed p slot (modPort p (fun x => { x with head := false }) s)
  let s1 := r.2
  if !reachable s1 q || (getPort s1 p).txmap == 0 then (match r.1 with | some h => unfixHeader q h s1 | none => s1)
  else match r.1 with
    | some h => sendHeader slot p q h s1
    | none => sendHeader slot p q (slotHeader s1 q slot (getPeer s1 q) [] []) s1

/-- What a port sends by now in the running slot: its header, and the data flits whose positions have begun (R285, R286, R374). -/
def sendPort (s : State) (p : Nat) : State :=
  match portRuns s p with
  | none => s
  | some (slot, q) => match payloadNow s slot with
    | none => s
    | some now =>
      let s1 := if (getPort s p).head then startPayload slot p q s else s
      if reachable s1 q then sendAll p q now (slotFlits (getPort s1 p).txmap) s1 else s1

/-- What the ports send as time passes. -/
def sendPorts (s : State) : State := (List.range 36).foldl sendPort s

/-- A port at the start of a slot, with its peer (R281, R379). -/
def runPort (slot p : Nat) (s : State) : State :=
  let q := slotPeer s slot p
  if q = pkgId s || !formed s q then s else beginPort p (beginPeer q s)

/-! ### What arrives -/

/-- A flit of a parcel whose bytes are written at the destination: its pieces, each within a page. -/
def pieces (va n : Nat) : List (Nat × Nat) :=
  let m := min n (65536 - va % 65536)
  if m < n then [(0, m), (m, n - m)] else [(0, n)]

/-- Where the pieces of an arriving parcel go (R300, R356). -/
def placePieces (c off : Nat) (k : AccKind) : List (Nat × Nat) → State → (List (Nat × Nat × Nat × Loc) ⊕ Option (Nat × Bool)) × State
  | [], s => (.inl [], s)
  | (o, n) :: l, s =>
    match ingress c (off + o) n k s with
    | (.denied, s1) => (.inr none, s1)
    | (.absent va p, s1) => (.inr (some (va, p)), s1)
    | (.ok va loc, s1) => match placePieces c off k l s1 with
      | (.inl ps, s2) => (.inl ((o, n, va, loc) :: ps), s2)
      | (.inr f, s2) => (.inr f, s2)

/-- Whether every byte of a split word that its copy writes has come. -/
def SplitWord.whole (x : SplitWord) : Bool :=
  let ks := x.parts.map (·.1)
  let lo := if x.first then ks.foldl min 8 else 0
  let hi := if x.final then ks.foldl max 0 + 1 else 8
  ks.length == hi - lo

/-- n bytes of an arriving flit, from its byte o on, that do not make up an 8-byte word of the destination at va: the word is written in one
step, once what the other flits carry of it has come too (R261). -/
def addSplit (p : ParcelFlit) (o n va : Nat) (loc : Loc) (s : State) : State :=
  let same := fun (x : SplitWord) => x.src == p.src && x.entry == p.entry && x.word == va / 8
  let parts := (List.range n).map (fun i => (va % 8 + i, p.bytes.getD (o + i) 0, p.poison.getD ((o + i) / 64) false))
  let old := s.split.find? same
  let x : SplitWord :=
    { src := p.src, ctx := p.ctx, entry := p.entry, word := va / 8, parts := old.elim [] (·.parts) ++ parts,
      first := old.elim false (·.first) || (p.num == 0 && p.first && o == 0),
      final := old.elim false (·.final) || (p.final && o + n == p.bytes.length),
      direct := if p.relayed then old.bind (·.direct) else some (p.part, p.core, p.slot) }
  let s1 := { s with split := s.split.filter (fun y => !same y) }
  if x.whole then
    let l := (List.range 8).filterMap (fun k => x.parts.find? (fun e => e.1 == k))
    let lo := (l.map (·.1)).headD 0
    engWrite p.ctx 0 0 (va / 8 * 8 + lo) ((loc.minus (va % 8)).plus lo) (l.map (fun e => e.2.1)) (fun _ => true)
      (fun i => (l.map (fun e => e.2.2)).getD i false) s1
  else { s1 with split := s1.split ++ [x] }

/-- Writes n bytes of an arriving flit, from its byte o on, to one page of the destination, word by word (R252, R261, R396). -/
def writePiece (p : ParcelFlit) (o n va : Nat) (loc : Loc) (s : State) : State :=
  let put := fun (o n va : Nat) (loc : Loc) (s : State) =>
    engWrite p.ctx 0 p.feMode.toNat va loc ((p.bytes.drop o).take n) (fun k => p.feBits.getD (o / 8 + k) true)
      (fun i => p.poison.getD ((o + i) / 64) false) s
  if p.feMode != 0 then put o n va loc s
  else
    let head := min n ((8 - va % 8) % 8)
    let tail := if head < n then (va + n) % 8 else 0
    let s1 := if head = 0 then s else addSplit p o head va loc s
    let s2 := put (o + head) (n - head - tail) (va + head) (loc.plus head) s1
    if tail = 0 then s2 else addSplit p (o + n - tail) tail (va + n - tail) (loc.plus (n - tail)) s2

/-- Writes the pieces of an arriving parcel (R252, R261, R396). -/
def writePieces (p : ParcelFlit) : List (Nat × Nat × Nat × Loc) → State → State
  | [], s => s
  | (o, n, va, loc) :: l, s => writePieces p l (writePiece p o n va loc s)

/-- Sends a failure of an entry of another package (R300). -/
def failAt (src tag : Nat) (c : Cause) (s : State) : State :=
  modPeer src (fun p => { p with replies := p.replies ++ [{ tag := tag, lane := 0, data := 0, fail := some (BitVec.ofNat 8 c.code) }] }) s

/-- How far a parcel has been applied (R295). -/
def appliedTo (s : State) (p : ParcelFlit) : Nat :=
  ((getPeer s p.src).landed.find? (fun k => k.1 == p.entry && k.2.1 == p.num)).elim 0 (fun k => k.2.2)

/-- Notes how far a parcel has been applied; its last flit draws an end-to-end acknowledgement where it came by relay (R294). -/
def noteApplied (p : ParcelFlit) (s : State) : State :=
  modPeer p.src (fun x =>
    { x with landed := x.landed.filter (fun k => !(k.1 == p.entry && k.2.1 == p.num)) ++ [(p.entry, p.num, p.off + p.bytes.length)],
             e2e := if p.relayed && p.last then x.e2e ++ [{ refused := false, place := p.place, num := p.num }] else x.e2e }) s

/-- A flit of a parcel as what stands in the order of its group (R274). -/
def parcelRecord (p : ParcelFlit) : OpRecord :=
  { src := p.src, ctx := p.ctx, part := p.part, core := p.core, slot := p.slot, lane := 0, tag := p.entry, kind := .store, off := p.off,
    size := p.bytes.length, ty := 0, round := 0, data := 0, data2 := 0, chan := none, spin := 0, park := 0, scope := 3 }

/-- A flit of a parcel is applied at its destination (R183, R252, R295): the state, and the address whose page is absent (R356). -/
def applyParcel (p : ParcelFlit) (s : State) : State × Option (Nat × Bool) :=
  if p.off < appliedTo s p then
    (if p.relayed && p.last then modPeer p.src (fun x => { x with e2e := x.e2e ++ [{ refused := false, place := p.place, num := p.num }] }) s
     else s, none)
  else
    let va := (getCtx s p.ctx).expbase.toNat + p.off
    match placePieces p.ctx p.off (engDstKind p.feMode.toNat) (pieces va p.bytes.length) s with
    | (.inl ps, s1) =>
      if p.feMode != 0 && ps.any (fun x => x.2.2.2.isHost) then (failAt p.src p.entry .remoteDenied s1, none)
      else (noteApplied p (writePieces p ps s1), none)
    | (.inr none, s1) => (failAt p.src p.entry .remoteDenied s1, none)
    | (.inr (some f), s1) => (s1, some f)

/-- A parcel of a copy arrives at its destination: on the direct path it stands behind what waits here of its group and its source (R274,
R291). The state, and whether it has been dealt with: one whose page is absent holds back what its peer sends behind it (R356). -/
def landParcel (q : Nat) (p : ParcelFlit) (s : State) : State × Bool :=
  if !p.relayed && standsBehind s (parcelRecord p) s.served then
    ({ s with served := s.served ++ [{ src := p.src, rcd := parcelRecord p, held := none, parcel := some p }] }, true)
  else match applyParcel p s with
    | (s1, none) => (s1, true)
    | (s1, some (va, paged)) =>
      (reportFault p.ctx va (engDstKind p.feMode.toNat) 2 p.src paged (modPeer q (fun x => { x with fault := some (p.ctx, va) }) s1), false)

/-- A parcel that has waited behind an operation of its group is applied (R274); one whose page is absent goes on waiting (R356). -/
def serveParcel (p : ParcelFlit) (s : State) : State :=
  match applyParcel p s with
  | (s1, none) => s1
  | (s1, some (va, paged)) =>
    reportFault p.ctx va (engDstKind p.feMode.toNat) 2 p.src paged
      { s1 with served := { src := p.src, rcd := parcelRecord p, held := some va, parcel := some p } :: s1.served }

/-- What waits here to be served is served (R274, R296). -/
def serveWaiting (x : Served) (s : State) : State :=
  match x.parcel with
  | some p => serveParcel p s
  | none => serveNow x.rcd s

/-- The data of a pull arrives (R184): it waits at its operation until it can land. -/
def landPull (tag : Nat) (p : ParcelFlit) (s : State) : State :=
  match (findEntry tag s).bind (fun b => b.copy.bind (fun e => findEng e s)) with
  | none => s
  | some x =>
    let bad := (List.range p.bytes.length).map (fun i => p.poison.getD (i / 64) false)
    pullLands x.id (modEngine x.id (fun y => { y with ahead := y.ahead ++ p.bytes.zip bad, bits := y.bits ++ p.feBits }) s)

/-- A relayed parcel arrives at its broker (R294). -/
def brokerParcel (p : ParcelFlit) (s : State) : State :=
  let mine := fun (k : Brokered) => carries k (.parcel p)
  if p.first then
    if relayRoom s = 0 then modPeer p.src (fun x => { x with e2e := x.e2e ++ [{ refused := true, place := p.place, num := p.num }] }) s
    else { s with relay := s.relay ++ [p], brokered := s.brokered.filter (fun k => !mine k) ++
      [{ src := p.src, entry := p.entry, num := p.num, dst := p.dst, whole := p.last }] }
  else if s.brokered.any mine then
    { s with relay := s.relay ++ [p], brokered := s.brokered.map (fun k => if mine k then { k with whole := k.whole || p.last } else k) }
  else s

/-- A pod-barrier token of a member (R196, R298): one of an episode that this package has not reached is kept. -/
def takeToken (q : Nat) (t : Token) (s : State) : State :=
  match s.episodes.find? (fun e => tokenOf e t) with
  | some e =>
    if e.failed then s
    else if t.hash != e.hash then failEpisode e .remoteDenied s
    else completeEpisodes { s with episodes := s.episodes.map (fun x => if x == e then { x with got := if x.got.contains q then x.got else q :: x.got } else x) }
  | none =>
    let n := Sparse.get 0 s.arrivals (barKey t.ctx t.bar) % 2 ^ 19
    if decide (t.ctx < 32) && decide ((n + 2 ^ 19 - t.ep) % 2 ^ 19 - 1 < 2 ^ 18) && n != t.ep then s
    else if s.tokens.contains (q, t) then s else { s with tokens := s.tokens ++ [(q, t)] }

/-- The entry of this package that an end-to-end acknowledgement from a peer names (R287): by its place in the barrow for that peer, or, where
the peer refuses a parcel as broker, in the barrow of the parcel. -/
def ackedEntry (q : Nat) (a : E2EAck) (s : State) : Option Barrow :=
  s.barrow.find? (fun b => b.place == a.place && b.relayed.any (fun r => r.1 == a.num && (if a.refused then r.2.1 == q else b.dst == q)))

/-- An end-to-end acknowledgement of a relayed parcel, from a peer (R290, R294); the completion record that the last one lets go is queued now,
behind what stands in the barrow (R316; log entry 106). -/
def takeE2E (q : Nat) (a : E2EAck) (s : State) : State :=
  match ackedEntry q a s with
  | none => s
  | some b =>
    let b1 := { b with relayed := b.relayed.filter (fun r => r.1 != a.num) }
    if a.refused then modEntry b.id (fun _ => { b1 with refused := a.num :: b.refused }) s
    else
      let b2 := { b1 with gone := b.gone ++ [a.num] }
      let s1 := modEntry b.id (fun _ => b2) s
      ackBytes b (parcelBytes b a.num) (if completionDue b2 then toTail b.id (fun e => e) s1 else s1)

/-- An operation record arrives (R274, R296): a write is performed at once where nothing of its group stands before it, the others wait
for their service. -/
def takeRecord (r : OpRecord) (s : State) : State :=
  match r.kind with
  | .load | .atomic _ | .fe .ldwt | .fe .ldcn | .fe .stfl | .fe .fetest | .pull _ _ =>
    { s with served := s.served ++ [{ src := r.src, rcd := r, held := none }] }
  | _ => serveOp r s

/-- Whether the acknowledgement of a flit waits for a record of this kind to be performed (log entry 28). -/
def ackWaits (k : RemKind) : Bool :=
  match k with
  | .load => false
  | .fe .ldwt => false
  | .fe .ldcn => false
  | .fe .stfl => false
  | .fe .fetest => false
  | .pull _ _ => false
  | _ => true

/-- The acknowledgement of a flit is withheld until the records of a list are performed. -/
def withhold (q seq : Nat) (tags : List Nat) (s : State) : State :=
  if tags.isEmpty then s
  else modPeer q (fun p => { p with lateAcks := p.lateAcks ++ [(seq, tags)] }) s

/-- Applies the content of a data flit; whether it has been dealt with (R288, R291). -/
def applyBody (q seq : Nat) (f : FlitBody) (s : State) : State × Bool :=
  match f with
  | .parcel p =>
    if p.relayed && p.dst != pkgId s then (brokerParcel p s, true)
    else match p.pull with
      | some tag => (landPull tag p s, true)
      | none =>
        let r := landParcel q p s
        (if r.2 && p.src == q && pendingHere r.1 q p.entry then withhold q seq [p.entry] r.1 else r.1, r.2)
  | .ops l =>
    let s1 := l.foldl (fun s r => takeRecord r s) s
    (withhold q seq ((l.filter (fun r => ackWaits r.kind && pendingHere s1 q r.tag)).map (·.tag)) s1, true)
  | .replies l => (l.foldl (fun s r => deliverReply r s) s, true)
  | .tier _ _ => (s, true)
  | .overflow ts as => (as.foldl (fun s a => takeE2E q a s) (ts.foldl (fun s t => takeToken q t s) s), true)
  | .idle => (s, true)

/-- Applies the flits that are next in sequence (R291); one held at a fault is not acknowledged and holds back those behind it
(R356). -/
def applyNext (q : Nat) : Nat → State → State
  | 0, s => s
  | n + 1, s =>
    let p := getPeer s q
    if p.fault.isSome then s
    else match p.rxheld.find? (fun f => f.1 == p.rxnext) with
      | none => s
      | some (seq, f) => match applyBody q seq f s with
        | (s1, true) => applyNext q n (modPeer q (fun x =>
            { x with rxnext := (seq + 1) % 16384, rxheld := x.rxheld.filter (fun g => g.1 != seq) }) s1)
        | (s1, false) => s1

/-- Whether a SEQ has been received already (R376). -/
def duplicate (p : Peer) (seq : Nat) : Bool := seqBefore seq p.rxnext || p.rxheld.any (fun f => f.1 == seq)

/-- A data flit with content that has not been discarded (R375, R376, R389). -/
def takeFlit (q : Nat) (f : DataFlit) (s : State) : State :=
  let p := getPeer s q
  let dup := duplicate p f.seq
  let s1 := modPort (peerPort s q) (fun x => { x with rxgood := x.rxgood + 1, rxdup := if dup then x.rxdup + 1 else x.rxdup }) s
  if dup then
    modPeer q (fun p => { p with owedAcks := if ackHeld p f.seq then p.owedAcks else oweAck p.owedAcks f.seq }) s1
  else
    let s2 := modPeer q (fun p => { p with rxheld := p.rxheld ++ [(f.seq, f.body)], owedAcks := oweAck p.owedAcks f.seq }) s1
    applyNext q ((getPeer s2 q).rxheld.length) s2

/-- What the decoding of a flit adds to a port's counters (R389): each codeword of the slot once. -/
def countCodewords (p : Nat) (words : List (Nat × Nat × Nat)) (s : State) : State :=
  modPort p (fun x =>
    let l := (mapWords x.rxmap words).filter (fun e => !x.rxwords.contains (e.1, e.2.1))
    let good := l.filter (fun e => decide (e.2.2 ≤ correctable))
    { x with cwcorr := x.cwcorr + dw (good.filter (fun e => e.2.2 != 0)).length, cwunc := x.cwunc + dw (l.length - good.length),
             unc := x.unc || uncorrectable l, symcorr := x.symcorr + dw ((good.map (·.2.2)).foldl (· + ·) 0),
             lanesym := good.foldl (fun l e => Sparse.set 0 l e.1 (Sparse.get 0 l e.1 + wd e.2.2)) x.lanesym,
             rxwords := x.rxwords ++ l.map (fun e => (e.1, e.2.1)) }) s

/-- The first flit under a new lane map fixes the receiver's alignment (R383, R389, R390): the map, the positions lost, and the record. -/
def alignPort (p q pos : Nat) (s : State) : State :=
  let x := getPort s p
  match x.rxloss with
  | [] => s
  | l :: rest =>
    let e : LinkEvent := { time := l.time, kind := 2, source := 0xFF, port := p, before := l.before, after := l.after, place := l.place,
                           first := highSeq (getPeer s q), lost := pos - x.rxpos, rstr := pos, ports := 0, power := 0 }
    { setPort p { x with rxmap := l.after, rxloss := rest, rxbad := x.rxbad + dw (pos - x.rxpos), restripe := x.restripe + 1, rxpos := pos } s with
      lateEvents := s.lateEvents ++ [e] }

/-- A data flit that fails the checks of R373: its position is counted, but for those that count as lost when the receiver aligns anew. -/
def discardFlit (p pos : Nat) (s : State) : State :=
  modPort p (fun x => if x.rxloss.isEmpty then { x with rxbad := x.rxbad + 1, rxpos := pos + 1 } else x) s

/-- The receive map under which a data flit is judged: the first under a new map is tried under the new map (R383). -/
def judgeMap (x : Port) (f : DataFlit) : BitVec 16 :=
  match x.rxloss with
  | l :: _ => if f.rstr then l.after else x.rxmap
  | [] => x.rxmap

/-- DATA_FLIT_RECEIVE (R288, R291, R373, R375, R376, R379, R383): a data flit from a peer is decoded. -/
def execDataFlitReceive (q : Nat) (f : DataFlit) (s : State) : Result :=
  let k := peerPort s q
  if !facesPeer s q || !formed s q then .next s
  else if !flitGood (judgeMap (getPort s k) f) f then .next (discardFlit k f.pos (countCodewords k f.words s))
  else
    let s1 := countCodewords k f.words (if f.rstr then alignPort k q f.pos s else s)
    let s2 := modPort k (fun x => { x with rxpos := f.pos + 1 }) s1
    let s3 := if isIdle f.body then s2 else takeFlit q { f with seq := f.seq % 16384 } s2
    .next (match f.ack with | some n => inSlotAck q (n % 16384) s3 | none => s3)

/-- Whether a header accounts a flit as received (R377). -/
def accounted (h : HeaderFlit) (seq : Nat) : Bool :=
  seqBefore seq (h.high % 16384) && !h.gaps.any (fun g => decide ((seq + 16384 - g.1 % 16384) % 16384 < g.2))

/-- Whether a flit was sent early enough for a header of the running slot to account for it (R376, R377). -/
def covered (s : State) (p : Peer) (slot : Nat) : Bool := decide (slot + (if podSize s = 32 then 1 else 0) < p.slots)

/-- The flits that a header does not account as received are lost; those that it does are acknowledged (R376, R378). -/
def settleHeader (q : Nat) (got : Nat → Bool) (s : State) : State :=
  let p := getPeer s q
  let all := p.unacked ++ p.replay
  let isLost := fun (f : Nat × Nat × FlitBody) => covered s p f.2.1 && !got f.1
  (all.filter (fun f => got f.1)).foldl (fun s f => flitAcked f.2.2 s)
    (setPeer q { p with unacked := p.unacked.filter (fun f => !got f.1 && !isLost f),
                        replay := (p.unacked.filter isLost).foldl (fun l f => insertSeq f l) (p.replay.filter (fun f => !got f.1)) } s)

/-- The tokens and acknowledgements of headers that a peer says it has discarded are to go again (R378). -/
def redoHeaders (q : Nat) (missed : List Nat) (s : State) : State :=
  modPeer q (fun p =>
    let l := p.sentH.filter (fun e => missed.contains e.1)
    { p with sentH := p.sentH.filter (fun e => !missed.contains e.1), redoT := l.flatMap (fun e => e.2.1) ++ p.redoT,
             e2e := l.flatMap (fun e => e.2.2) ++ p.e2e }) s

/-- A header that is discarded (R373, R378): what it would have settled is lost. -/
def discardHeader (q : Nat) (s : State) : State :=
  settleHeader q (fun _ => false)
    (modPeer q (fun p => { p with missed := (match runningSlot s with | some n => oweAck p.missed n | none => p.missed) })
      (modPort (peerPort s q) (fun x => { x with rxbad := x.rxbad + 1 }) s))

/-- HEADER_FLIT_RECEIVE (R287, R293, R373, R376 to R379, R381, R408): a header from a peer is decoded; the lane map is learnt from the lane markers,
and from MAP. -/
def execHeaderFlitReceive (q : Nat) (h : HeaderFlit) (s : State) : Result :=
  let k := peerPort s q
  if !facesPeer s q || !formed s q then .next s
  else
    let s1 := countCodewords k h.words (modPort k (fun x => { x with rxmap := h.marker.getD x.rxmap }) s)
    if !headerGood (getPort s1 k).rxmap h then .next (discardHeader q s1)
    else
      let s2 := redoHeaders q h.missed (modPeer q (fun p =>
        { p with heard := true, room := h.room, roomAt := p.slots, given := p.given.filter (fun k => decide (p.slots ≤ k + 1)),
                 missed := p.missed.filter (fun n => match runningSlot s with | some m => decide (m < n + 16 * slotsPerCycle s) | none => true) })
        (modPort k (fun x => { x with rxmap := h.map }) s1))
      .next (h.acks.foldl (fun s a => takeE2E q a s) (h.tokens.foldl (fun s t => takeToken q t s) (settleHeader q (accounted h) s2)))

/-- REMOTE_SERVICE_COMPLETE (R296): the service of arrived operation k ends, and its reply is queued. -/
def execRemoteServiceComplete (k : Nat) (s : State) : Result :=
  match s.served[k]? with
  | none => .next s
  | some x =>
    if x.held.isSome || standsBehind s x.rcd (s.served.take k) then .next s
    else .next (serveWaiting x { s with served := s.served.eraseIdx k })

end Sys2Proof.Machine
end

