-- ==== Sys2Proof/Machine/Link.lean ====
section
/-! DEFINITION. The optical link: laser sources, lane maps and restriping, link event records, the source and port registers, the Quiper
sideband, and the start of a slot (R285, R291, R293, R380 to R391, R432). -/

namespace Sys2Proof.Machine

/-! ### Sources and maps -/

/-- The block of a laser source. -/
def getSource (s : State) (n : Nat) : Source := Sparse.get Source.start s.sources n

/-- Replaces the block of a laser source. -/
def setSource (n : Nat) (v : Source) (s : State) : State := { s with sources := Sparse.set Source.start s.sources n v }

/-- The wavelengths of quad q (R380). -/
def quadMap (q : Nat) : BitVec 16 := 0xF#16 <<< (4 * q)

/-- The die of a port: a calendar port, or an anchor port from 32 on (R281, R380). -/
def portDie (p : Nat) : Nat := if p < 32 then p / 8 else p - 32

/-- The ports that a source feeds (R380): the calendar ports of its die, and its anchor port. -/
def sourcePorts (n : Nat) : List Nat := (List.range 8).map (fun i => 8 * (n / 4) + i) ++ [32 + n / 4]

/-- Whether a source's quad takes part in a slot (R381, R385): it went live at least 1 µs before the slot starts. -/
def sourceJoins (s : State) (slot n : Nat) : Bool :=
  let x := getSource s n
  x.st == 2 && !x.retire && decide (x.since.toNat + 1000 ≤ s.tbase.origin.toNat + 512 * slot)

/-- The transmit lane map of a die's ports from the start of a slot (R381, R385). -/
def dieMap (s : State) (slot d : Nat) : BitVec 16 :=
  (List.range 4).foldl (fun m q => if sourceJoins s slot (4 * d + q) then m ||| quadMap q else m) 0

/-! ### Link event records -/

/-- A link event of the package at a time (R390). -/
def linkEventOf (s : State) (kind source port : Nat) (before after : BitVec 16) : LinkEvent :=
  { time := s.time, kind := kind, source := source, port := port, before := before, after := after, place := 0, first := 0, lost := 0,
    rstr := 0, ports := 0, power := 0 }

/-- Bytes 0x08 to 0x0F of a link event record (R390). -/
def linkEventHead (e : LinkEvent) : DWord :=
  dw (e.kind % 256 + e.source % 256 * 2 ^ 8 + e.port % 256 * 2 ^ 16 + e.before.toNat * 2 ^ 32 + e.after.toNat * 2 ^ 48)

/-- Writes a link event record: the ring of 1,024, its copy in the day book, vector 2, and the sideband's interrupt (R390, R432). -/
def linkRecord (e : LinkEvent) (s : State) : State :=
  let s1 := dayPackage 0x09 0 0 e.time (linkEventHead e)
    { s with events := (if s.events.length < 1024 then s.events else s.events.drop 1) ++ [e], eventIdx := s.eventIdx + 1 }
  let s2 := interruptPf 2 s1
  if e.kind = 1 || e.kind = 3 || e.kind = 5 then emit (.i3c [BitVec.ofNat 8 e.kind]) s2 else s2

/-- A loss of light or of a port (R390): its record is written after the end of the slot in which it occurred. -/
def lossRecord (e : LinkEvent) (s : State) : State := if s.tbase.inrota then { s with lateEvents := s.lateEvents ++ [e] } else linkRecord e s

/-- Writes the records of the slot that has ended (R390). -/
def flushEvents (s : State) : State := s.lateEvents.foldl (fun s e => linkRecord e s) { s with lateEvents := [] }

/-- The slot of an event on a port, with the peer (R390): the slot that has begun. An anchor port's peer is no package: its field is 0 (log entry
100). -/
def eventPlace (s : State) (p : Nat) : DWord :=
  match runningSlot s with
  | none => 0
  | some n => dw ((if p < 32 then slotPeer s n p else 0) * 2 ^ 54 + n % slotsPerCycle s * 2 ^ 48 + n / slotsPerCycle s % 2 ^ 48)

/-- Whether the payload of the running slot is under way on a port. -/
def portBusy (s : State) (p : Nat) : Bool :=
  let x := getPort s p
  (portRuns s p).isSome && !x.head && flitFits x.txmap x.next

/-- Records a port that is left with no wavelength (R384, R390), with what its slot does not carry (log entry 100). -/
def portDown (p : Nat) (before : BitVec 16) (s : State) : State :=
  let e := { linkEventOf s 4 0xFF p before 0 with place := eventPlace s p }
  let x := getPort s p
  lossRecord (match portRuns s p with
    | some (_, q) => if flitFits before x.next && !x.head then
        { e with first := (getPeer s q).txseq, lost := (payload - x.next) / flitTime before } else e
    | none => e) s

/-! ### Loss and return of light -/

/-- A port's transmit map loses a quad at the next flit boundary (R374, R382, R384, R389): beats count from 0 again, and the first flit under
the new map carries RSTR; before the payload of a slot begins the loss is no restripe. -/
def dropQuad (q p : Nat) (s : State) : State :=
  let x := getPort s p
  let m := x.txmap &&& ~~~(quadMap q)
  if m = x.txmap then s
  else
    let busy := portBusy s p
    let s1 := setPort p { x with txmap := m, beat := 0, rstr := x.rstr || (busy && m != 0),
                                 restripe := if busy then x.restripe + 1 else x.restripe } s
    if m = 0 then portDown p x.txmap s1 else s1

/-- SOURCE_LOSS (R382, R384, R390): a live source goes dark. -/
def execSourceLoss (n : Nat) (s : State) : Result :=
  let x := getSource s n
  if decide (16 ≤ n) || (x.st != 1 && x.st != 2) then .next s
  else
    let s1 := setSource n { x with st := 3, power := 0x8000, since := s.time } s
    if x.st != 2 then .next s1
    else
      let before := (getPort s (8 * (n / 4))).txmap
      let e : LinkEvent := { linkEventOf s 1 n 0xFF before (before &&& ~~~(quadMap (n % 4))) with ports := 0x1FF, power := x.power }
      .next (lossRecord e ((sourcePorts n).foldl (fun s p => dropQuad (n % 4) p s) s1))

/-- The receive map to which a port will have aligned. -/
def comingMap (x : Port) : BitVec 16 := (x.rxloss.getLast?).elim x.rxmap (·.after)

/-- RX_LOSS (R383, R384, R390): a receiver detects the loss of light on wavelengths. Within a payload it goes on under the old map until the first
flit under the new one; elsewhere the map shrinks at once, and nothing is lost. The receiver itself finds which flits are lost (log entry 76). -/
def execRxLoss (p : Nat) (lost : BitVec 16) (_first _count _rstr : Nat) (s : State) : Result :=
  let x := getPort s p
  let m := comingMap x &&& ~~~lost
  if decide (36 ≤ p) || m == comingMap x then .next s
  else match portRuns s p with
    | some (slot, _) =>
      if (payloadNow s slot).isSome then
        .next (setPort p { x with rxloss := x.rxloss ++ [{ time := s.time, before := comingMap x, after := m, place := eventPlace s p }] } s)
      else .next (lossRecord { linkEventOf s 2 0xFF p (comingMap x) m with place := eventPlace s p } (setPort p { x with rxmap := m } s))
    | none => .next (lossRecord { linkEventOf s 2 0xFF p (comingMap x) m with place := eventPlace s p } (setPort p { x with rxmap := m } s))

/-- A loss of light to which no flit of its slot has let the receiver align (R383, R390; log entry 100): what was left of the slot under the old map
is lost. -/
def closeLosses (p : Nat) (s : State) : State :=
  (getPort s p).rxloss.foldl (fun s l =>
    let x := getPort s p
    let left := slotFlits l.before - 1 - x.rxpos
    let e : LinkEvent := { time := l.time, kind := 2, source := 0xFF, port := p, before := l.before, after := l.after, place := l.place,
                           first := highSeq (getPeer s (slotPeer s (s.slotAt - 1) p)), lost := left, rstr := 0, ports := 0, power := 0 }
    { setPort p { x with rxmap := l.after, rxloss := x.rxloss.drop 1, rxbad := x.rxbad + dw left, rxpos := x.rxpos + left } s with
      lateEvents := s.lateEvents ++ [e] }) s

/-- SOURCE_LIGHT_RETURN (R385): a lost source qualifies. -/
def execSourceLightReturn (n : Nat) (s : State) : Result :=
  let x := getSource s n
  if decide (n < 16) && x.st == 3 then .next (setSource n { x with st := 1, since := s.time } s) else .next s

/-- SOURCE_QUALIFIED (R385, R386): 100 ms of unbroken light at or above LIMIT make a source live. -/
def execSourceQualified (n : Nat) (s : State) : Result :=
  let x := getSource s n
  if decide (16 ≤ n) || x.st != 1 || x.retire || decide ((s.time - x.since).toNat < 100000000) || x.power.slt x.limit then .next s
  else
    let before := (getPort s (8 * (n / 4))).txmap
    let e : LinkEvent := { linkEventOf s 3 n 0xFF before (before ||| quadMap (n % 4)) with ports := 0x1FF, power := x.power }
    .next (linkRecord e (setSource n { x with st := 2, since := s.time, base := if x.base = 0x8000 then x.power else x.base } s))

/-- A full repair store (R414): the steward reports the package to the fabric manager. -/
def storeFull (s : State) : State := emit .storeFull s

/-- Adds an entry to the repair store, where it has room, with its record (R414). -/
def addRepair (r : Repair) (val : DWord) (s : State) : State :=
  if s.repairs.length < 256 then dayPackage 0x0B 0 0 val 0 { s with repairs := s.repairs ++ [r] } else storeFull s

/-- A write of RETIRE (R385, R386, R414): 1 removes the quad from the next slot start; 0 starts qualification again. -/
def retireSource (n : Nat) (retire : Bool) (s : State) : State :=
  let x := getSource s n
  if decide (16 ≤ n) || retire == x.retire then s
  else if retire then addRepair (.lane n) (dw n) (setSource n { x with retire := true } s)
  else setSource n { x with retire := false, st := if x.st = 2 then 1 else x.st, since := s.time } s

/-- SOURCE_RETIRE_WRITE (R385). -/
def execSourceRetireWrite (n : Nat) (retire : Bool) (s : State) : Result := .next (retireSource n retire s)

/-- A source block after its module has been read (R386, log entry 30): one that appears qualifies if it has light. -/
def readModule (now : DWord) (t : Telemetry) (x : Source) : Source :=
  if !t.present then { Source.start with retire := x.retire, limit := x.limit }
  else
    let st : BitVec 2 := if x.st = 0 then (if t.power = 0x8000 then 3 else 1) else x.st
    let since := if x.st = 0 || (x.st == 1 && t.power.slt x.limit) then now else x.since
    { x with present := true, st := st, power := t.power, bias := t.bias, temp := t.temp, hours := t.hours, since := since }

/-- SOURCE_TELEMETRY (R386): the runner reads a source's module and measures its light. -/
def execSourceTelemetry (n : Nat) (t : Telemetry) (s : State) : Result :=
  let x := getSource s n
  if 16 ≤ n then .next s
  else
    let s1 := setSource n (readModule s.time t x) s
    .next (if !t.present && x.st == 2 then (sourcePorts n).foldl (fun s p => dropQuad (n % 4) p s) s1 else s1)

/-! ### Ageing -/

/-- The least-squares slope of hourly means, in 0.001 dB per 1,000 hours, rounded toward zero (R387). -/
def slopeOf (ys : List (BitVec 16)) : Int :=
  let n : Int := ys.length
  let l := (List.range ys.length).zip (ys.map (fun y => y.toInt))
  let sx := l.foldl (fun a e => a + (e.1 : Int)) 0
  let sy := l.foldl (fun a e => a + e.2) 0
  let sxy := l.foldl (fun a e => a + (e.1 : Int) * e.2) 0
  let sxx := l.foldl (fun a e => a + (e.1 : Int) * e.1) 0
  let den := n * sxx - sx * sx
  if den = 0 then 0 else Int.tdiv (10000 * (n * sxy - sx * sy)) den

/-- The predicted powered hours at end of life (R387). -/
def eolOf (power limit : BitVec 16) (slope : Int) (hours : Nat) : BitVec 32 :=
  if power.sle limit then BitVec.ofNat 32 hours
  else if 0 ≤ slope then 0xFFFFFFFF
  else BitVec.ofInt 32 (hours + (power.toInt - limit.toInt) * 10 * 1000 / (-slope))

/-- SOURCE_HOURLY_UPDATE (R387): the hour's mean, SLOPE, EOL, and the AGEING event. -/
def execSourceHourlyUpdate (n : Nat) (mean : BitVec 16) (s : State) : Result :=
  let x := getSource s n
  if decide (16 ≤ n) || !x.present then .next s
  else
    let all := x.means ++ [mean]
    let means := all.drop (all.length - 2000)
    let slope : Int := if means.length < 100 then 0 else slopeOf (means.drop (means.length - min 2000 x.hours.toNat))
    let eol := eolOf x.power x.limit slope x.hours.toNat
    let left : Int := (eol.toNat : Int) - x.hours.toNat
    let fires := decide (left < 2000) && !x.ageing
    let s1 := setSource n { x with means := means, slope := BitVec.ofInt 16 slope, eol := eol,
                                   ageing := if left < 2000 then true else if 4000 < left then false else x.ageing } s
    let map := (getPort s (8 * (n / 4))).txmap
    .next (if fires then linkRecord { linkEventOf s 5 n 0xFF map map with ports := 0x1FF, power := x.power } s1 else s1)

/-! ### Registers -/

/-- The 32-bit word at an offset of a source's block (R386). -/
def sourceWord (x : Source) (off : Nat) : BitVec 32 :=
  if off = 0 then x.st.setWidth 32 <<< 2 ||| (if x.retire then 2#32 else 0#32) ||| (if x.present then 1#32 else 0#32)
  else if off = 0x04 then x.power.setWidth 32
  else if off = 0x08 then x.bias.setWidth 32
  else if off = 0x0C then x.temp.setWidth 32
  else if off = 0x10 then x.hours
  else if off = 0x14 then x.slope.setWidth 32
  else if off = 0x18 then x.eol
  else if off = 0x1C then x.limit.setWidth 32
  else if off = 0x20 then x.base.setWidth 32
  else 0

/-- The 64-bit counters of a port's block, in order of offset (R389). -/
def portCounters (x : Port) : List DWord := [x.txflit, x.txreplay, x.rxgood, x.rxbad, x.rxdup, x.cwcorr, x.cwunc, x.symcorr]

/-- The 32-bit word at an offset of a port's block (R389). -/
def portWord (x : Port) (off : Nat) : BitVec 32 :=
  if off < 0x40 then ((portCounters x).getD (off / 8) 0 >>> (8 * (off % 8))).setWidth 32
  else if off = 0x40 then x.restripe.setWidth 32 <<< 16 ||| x.rxmap.setWidth 32
  else if 0x80 ≤ off && off < 0xC0 then Sparse.get 0 x.lanesym ((off - 0x80) / 4)
  else 0

/-- The 32-bit word at an offset relative to BAR0 0x0020_0000 (R386, R389). -/
def linkWord (s : State) (off : Nat) : BitVec 32 :=
  if off < 0x400 then sourceWord (getSource s (off / 0x40)) (off % 0x40)
  else if 0x10000 ≤ off && off < 0x10000 + 36 * 0x100 then portWord (getPort s ((off - 0x10000) / 0x100)) (off % 0x100)
  else 0

/-- Every counter of a port's block becomes 0 in one step (R389). -/
def clearPort (p : Nat) (s : State) : State :=
  if 36 ≤ p then s
  else modPort p (fun x =>
    { x with txflit := 0, txreplay := 0, rxgood := 0, rxbad := 0, rxdup := 0, cwcorr := 0, cwunc := 0, symcorr := 0, restripe := 0,
             lanesym := [] }) s

/-- PORT_COUNTER_CLEAR (R389). -/
def execPortCounterClear (p : Nat) (s : State) : Result := .next (clearPort p s)

/-- A 32-bit write at an offset relative to BAR0 0x0020_0000: RETIRE, LIMIT and CLR (R385, R386, R389). -/
def linkWrite (off : Nat) (v : BitVec 32) (s : State) : State :=
  if off < 0x400 then
    if off % 0x40 = 0 then retireSource (off / 0x40) (v.getLsbD 1) s
    else if off % 0x40 = 0x1C then setSource (off / 0x40) { getSource s (off / 0x40) with limit := v.setWidth 16 } s
    else s
  else if decide (0x10000 ≤ off) && decide (off < 0x10000 + 36 * 0x100) && off % 0x100 == 0x48 && v.getLsbD 0 then
    clearPort ((off - 0x10000) / 0x100) s
  else s

/-! ### The Quiper sideband -/

/-- Whether the sideband answers: runner 5 has started, or the always-on domain alone has power (R432). -/
def quiperUp (s : State) : Bool := s.fw.sideband

/-- Whether a private transfer reaches the target: it answers, and it has its dynamic address (R388, R432). -/
def quiperAt (s : State) : Bool := quiperUp s && s.i3cAddr.isSome

/-- QUIPER_OFFSET_WRITE (R388). -/
def execQuiperOffsetWrite (off : BitVec 24) (s : State) : Result := .next (if quiperAt s then { s with quiper := off } else s)

/-- The bytes of the registers from an offset on (R388). -/
def linkBytes (s : State) (off n : Nat) : List Byte :=
  (List.range n).map (fun i => if 0x1FFFF < off then 0 else (linkWord s ((off + i) / 4 * 4)).extractLsb' (8 * ((off + i) % 4)) 8)

/-- QUIPER_DATA_READ (R388): the registers at the offset are sent. -/
def execQuiperDataRead (n : Nat) (s : State) : Result :=
  .next (if quiperAt s then emit (.i3c (linkBytes s s.quiper.toNat n)) s else s)

/-- QUIPER_DATA_WRITE (R388): a write of a 4-byte register at the offset. -/
def execQuiperDataWrite (bytes : List Byte) (s : State) : Result :=
  let off := s.quiper.toNat
  .next (if quiperAt s && decide (off ≤ 0x1FFFF) && off % 4 == 0 && bytes.length == 4 then linkWrite off (BitVec.ofNat 32 (natLE bytes)) s else s)

/-! ### The start of a slot -/

/-- A port's transmit map at the start of a slot (R381, R384, R385). -/
def startMap (slot p : Nat) (s : State) : State :=
  let x := getPort s p
  let m := dieMap s slot (portDie p)
  let s1 := setPort p { x with txmap := m, beat := 0, rstr := false } s
  if m = 0 && x.txmap != 0 then portDown p x.txmap s1 else s1

/-- Reports a port whose count of uncorrectable codewords rose in 8 slots running (R390): a slot that the port does not take part in counts
as none. -/
def errorRate (p : Nat) (s : State) : State :=
  let x := getPort s p
  let run := if x.unc then x.uncRun + 1 else 0
  if (portRuns s p).isNone then s
  else
    let s1 := setPort p { x with unc := false, uncRun := run } s
    if run = 8 then lossRecord { linkEventOf s 6 0xFF p x.rxmap x.rxmap with place := eventPlace s p } s1 else s1

/-- The running slot ends: its losses and its errors are counted, and its records are written (R383, R390). -/
def endSlot (s : State) : State :=
  if (runningSlot s).isNone then s else flushEvents ((List.range 36).foldl (fun s p => errorRate p (closeLosses p s)) s)

/-- Whether the package leaves the rota at a boundary that has been reached (R417, R419). -/
def leaveDue (s : State) : Bool :=
  match s.tbase.leaving with | some n => s.tbase.inrota && decide (n < absSlot s) | none => false

/-- Whether a slot has come whose start is still to take place (R285). -/
def slotDue (s : State) : Bool := s.tbase.inrota && s.slotAt != absSlot s + 1 && !leaveDue s

/-- SLOT_START (R285, R291, R293, R390, R391): a slot begins on every calendar port and anchor port; for each parcel that relay takes, the broker
drawn. -/
def execSlotStart (brokers : List Nat) (s : State) : Result :=
  let slot := absSlot s
  if !slotDue s then .next s
  else
    let s1 := { endSlot s with slotAt := slot + 1 }
    let s2 := (List.range 36).foldl (fun s p => startMap slot p s) s1
    let s3 := selectRelay slot ((s2.barrow.map (·.dst)).eraseDups) brokers [] s2
    .next ((List.range 36).foldl (fun s p => runPort slot p s) s3)

end Sys2Proof.Machine
end

