-- ==== Sys2Proof/Machine/Manage.lean ====
section
/-! DEFINITION. The management commands' form and status, and the commands on contexts, queues and buffer handles (R322, R343, R347 to
R349); and the change of a core's carve-out (R244). -/

namespace Sys2Proof.Machine

/-! ### Commands -/

/-- The kind of a command (R347). -/
def mgmtKind (m : MgmtPacket) : Nat := fieldD m.w0 0 8

/-- The physical address of a command's status word (R347). -/
def mgmtStatusAt (m : MgmtPacket) : Nat := fieldD m.w0 16 48

/-- The context that a command names at 0x08 (R347). -/
def mgmtCtxOf (m : MgmtPacket) : Nat := fieldD m.w1 0 8

/-- The byte at 0x09. -/
def mgmtByte9 (m : MgmtPacket) : Nat := fieldD m.w1 8 8

/-- The 32-bit field at 0x0C. -/
def mgmtId (m : MgmtPacket) : Nat := fieldD m.w1 32 32

/-- Words 2 to 7 of a command. -/
def mgmtTail (m : MgmtPacket) : List DWord := [m.w2, m.w3, m.w4, m.w5, m.w6, m.w7]

/-- Whether the header's reserved byte and the words after the first n of the tail are 0 (R347). -/
def mgmtClean (m : MgmtPacket) (n : Nat) : Bool := fieldD m.w0 8 8 == 0 && ((mgmtTail m).drop n).all (fun w => w == 0)

/-- The status values of R347. -/
inductive MgmtStatus where
  | ok | badCommand | busy | noResource | notFound
  deriving DecidableEq, Repr

/-- The value of a status. -/
def MgmtStatus.code : MgmtStatus → Nat
  | .ok => 0 | .badCommand => 1 | .busy => 2 | .noResource => 3 | .notFound => 4

/-- The fill of a status word by physical address: its data and its bit change, and no lane wakes (R347, R370, R371); at a poisoned word it does not take place (R396). -/
def fillStatus (pa : Nat) (st : MgmtStatus) (s : State) : State :=
  interruptPf 0 (if isPoisoned s 0 (.dev pa) 8 then s else writeFe 0 (.dev pa) true (writeBytes 0 (.dev pa) 8 st.code s))

/-- The end of a command with a status. -/
def mgmtEnd (m : MgmtPacket) (st : MgmtStatus) (s : State) : Result := .next (fillStatus (mgmtStatusAt m) st s)

/-- Whether a command that has been taken from the queue has not taken effect yet: an INVAL, a migration or a page-out (R355, R359, R361). -/
def mgmtOpen (s : State) : Bool := !s.invals.isEmpty || s.ctxs.any (fun e => e.2.mig.isSome)

/-- The event of a command packet, by its kind (R347, R410, R429); what a restore gets from the tier is its own (R412). -/
def mgmtInstr (m : MgmtPacket) : Option Instr :=
  match mgmtKind m with
  | 0x80 => some (.ctxCreate m)
  | 0x81 => some (.ctxDestroy m)
  | 0x82 => some (.queueReg m)
  | 0x83 => some (.queueUnreg m)
  | 0x84 => some (.handleNew m)
  | 0x85 => some (.handleFree m)
  | 0x86 => some (.inval m)
  | 0x87 => some (.migrate m)
  | 0x88 => some (.pageout m)
  | 0x89 => some (.faultReply m)
  | 0x8A => some (if mgmtByte9 m = 2 then .ckptRestore m (Config.tierUnits (mgmtCtxOf m) m.w2.toNat)
      else if mgmtByte9 m = 1 then .ckptIncremental m else .ckptFull m)
  | 0x8B => some (.commit m)
  | _ => none

/-- A command in its turn (R347): without a running steward nothing happens, one of another kind is not this one, and one whose status word is
misaligned has no effect (log entry 25); behind a command that is still open it waits, for commands take effect in queue order. -/
def mgmt (kind : Nat) (m : MgmtPacket) (body : State → Result) (s : State) : Result :=
  if mgmtKind m != kind || !s.fw.running || (mgmtStatusAt m) % 8 != 0 then .next s
  else if mgmtOpen s then .next { s with mgmtHeld := s.mgmtHeld ++ (mgmtInstr m).toList }
  else body s

/-- A command of a context that must exist: NOT_FOUND where it does not, BAD_COMMAND where its fields are not legal (R347). -/
def mgmtCtx (kind : Nat) (legal : Bool) (m : MgmtPacket) (body : State → Result) (s : State) : Result :=
  mgmt kind m (fun s =>
    if !legal then mgmtEnd m .badCommand s
    else if decide (32 ≤ (mgmtCtxOf m)) || !(getCtx s (mgmtCtxOf m)).live then mgmtEnd m .notFound s
    else body s) s

/-! ### Memory in use -/

/-- The bytes that the steward reserves for the pod (R289, R294): a barrow for each other package, and the relay area. -/
def podBytes (s : State) : Nat := (podSize s - 1) * 2 ^ 20 + 2 ^ 31

/-- Where they lie once the package has been told to join: below the firmware's memory (log entry 26). -/
def podBase (s : State) : Nat := firmwareBase s - podBytes s

/-- Whether n bytes of device memory overlap memory in use (R289, R294, R348, R359, R425): a frame that a context maps, its page tables, its bench and
what else is reserved for it, its save pool, the target of a migration, the firmware's memory, or what is reserved for the pod. -/
def memoryInUse (s : State) (f n : Nat) : Bool :=
  meetsFirmware s f n || (s.tbase.join && rangesMeet f n (podBase s) (podBytes s)) ||
  s.ctxs.any (fun e => e.2.live &&
    ((ctxEntries s e.1).any (fun x => x.device && rangesMeet f n x.frame (2 ^ levelShift x.level)) ||
      (tablesOf s 3 e.2.root).any (fun t => rangesMeet f n t.1 t.2) ||
      rangesMeet f n (reserveBase s e.1) (2 ^ 27) || rangesMeet f n e.2.savebase e.2.savelen ||
      (match e.2.mig with | some m => !m.toHost && rangesMeet f n m.frame 65536 | none => false)))

/-- Whether a frame may take a unit. -/
def frameLegal (s : State) (f : Nat) : Bool := f % 65536 == 0 && decide (f + 65536 ≤ deviceBytes s) && !memoryInUse s f 65536

/-- The lowest frame that may take a unit. -/
def freeFrame (s : State) : Option Nat := ((List.range (deviceBytes s / 65536)).find? (fun k => frameLegal s (65536 * k))).map (fun k => 65536 * k)

/-! ### Contexts -/

/-- Whether the fields of CTX_CREATE are legal (R348); the save pool and the root table lie in device memory outside the firmware's (R425; log
entry 26). -/
def ctxLegal (s : State) (m : MgmtPacket) : Bool :=
  let out := fun (a n : Nat) => decide (a + n ≤ deviceBytes s) && !meetsFirmware s a n
  out m.w1.toNat 8192 && (m.w6 == 0 || out m.w5.toNat m.w6.toNat) &&
  fieldD m.w0 8 8 == 0 && m.w1.toNat % 8192 == 0 && decide (fieldD m.w2 0 8 < 32) && fieldD m.w2 8 4 != 0 && fieldD m.w2 12 4 == 0 &&
  decide (20 ≤ fieldD m.w2 16 8) && decide (fieldD m.w2 16 8 ≤ 26) && fieldD m.w2 26 6 == 0 && fieldD m.w2 32 8 != 0 && fieldD m.w2 40 24 == 0 &&
  m.w3.toNat % 65536 == 0 && m.w4.toNat % 65536 == 0 && m.w5.toNat % 4096 == 0 && m.w6.toNat % 4096 == 0 && m.w7.toNat % 2 ^ 30 == 0

/-- The context that CTX_CREATE describes (R348). -/
def ctxOf (s : State) (m : MgmtPacket) : Ctx :=
  { Ctx.vacant with
    live := true, root := m.w1.toNat, affinity := BitVec.ofNat 4 (fieldD m.w2 8 4), lgbench := fieldD m.w2 16 8, local_ := m.w2.getLsbD 24,
    dirtyOn := m.w2.getLsbD 25, share := fieldD m.w2 32 8, expbase := m.w3, explen := m.w4.toNat, savebase := m.w5.toNat,
    savelen := m.w6.toNat, hwin := m.w7, bench := reserveBase s (fieldD m.w2 0 8) }

/-- A context's bench is empty when the context comes to be (R248, R249). -/
def clearBench (c : Nat) (s : State) : State :=
  let lo := (getCtx s c).bench
  let n := benchSize s c / 8 * 9
  { s with mem := s.mem.filter (fun x => decide (x.1 < lo) || decide (lo + n ≤ x.1)),
           poison := s.poison.filter (fun x => decide (x.1 < lo / 64) || decide ((lo + n + 63) / 64 ≤ x.1)) }

/-- CTX_CREATE (R347, R348). -/
def execCtxCreate (m : MgmtPacket) (s : State) : Result :=
  mgmt 0x80 m (fun s =>
    if !ctxLegal s m then mgmtEnd m .badCommand s
    else if (getCtx s (fieldD m.w2 0 8)).live then mgmtEnd m .busy s
    else if memoryInUse s (reserveBase s (fieldD m.w2 0 8)) (2 ^ 27) then mgmtEnd m .noResource s
    else mgmtEnd m .ok (clearBench (fieldD m.w2 0 8) (setCtx (fieldD m.w2 0 8) (ctxOf s m) s))) s

/-- The remote operations that other packages have here for a context fail as PEER_LOST at their sources (R349). -/
def failArrived (c : Nat) (s : State) : State :=
  let ops := (s.served.filter (fun x => x.rcd.ctx == c)).map (·.rcd) ++ (s.prels.filter (fun x => x.rcd.ctx == c)).map (·.rcd) ++
    s.waits.filterMap (fun w => match w.who with | .remote r => if r.ctx = c then some r else none | _ => none)
  let gone := s.waits.filter (fun w => match w.who with | .remote r => r.ctx == c | _ => false)
  ops.foldl (fun s r => replyTo r 0 (some .peerLost) s) (gone.foldl (fun s w => dropWait w s)
    { s with served := s.served.filter (fun x => x.rcd.ctx != c), prels := s.prels.filter (fun x => x.rcd.ctx != c) })

/-- The copy whose parcel a peer's stream is held at fails with a cause; the flits behind it are applied (R349, R357). -/
def failPeer (cause : Cause) (q : Nat) (s : State) : State :=
  let p := getPeer s q
  let s1 := match p.rxheld.find? (fun f => f.1 == p.rxnext) with
    | some (_, .parcel f) => if f.pull.isSome then s else failAt f.src f.entry cause s
    | _ => s
  applyNext q p.rxheld.length (modPeer q (fun x =>
    { x with fault := none, owedAcks := oweAck x.owedAcks p.rxnext, rxheld := x.rxheld.filter (fun f => f.1 != p.rxnext),
             rxnext := (p.rxnext + 1) % 16384 }) s1)

/-- The copies of a context whose parcels are held at faults here fail as PEER_LOST at their sources, and the streams go on (R349). -/
def failStreams (c : Nat) (s : State) : State :=
  ((s.peers.filter (fun e => match e.2.fault with | some (d, _) => d == c | none => false)).map (·.1)).foldl (fun s q => failPeer .peerLost q s) s

/-- A migration or page-out that ends with its context finds it no more (R347, R349; log entry 65). -/
def endMoves (c : Nat) (s : State) : State :=
  match (getCtx s c).mig with
  | some m => fillStatus m.status .notFound s
  | none => s

/-- Takes a context down (R349): its gangs abort, and its queues, copies, waits and reservations go; what withdraws its waits at other
packages still goes there (R250). -/
def dropCtx (c : Nat) (s : State) : State :=
  let s1 := ((s.gangs.filter (fun e => e.2.ctx == c && e.2.parent.isNone)).map (·.1)).foldl (fun s g =>
    if gangGone s g then s else abortTree forkDepth g (setGang g { getGang s g with status := .aborting } s)) s
  let s2 := failArrived c s1
  let gone := (s2.engines.filter (fun x => x.ctx == c)).map (·.id)
  let s3 := (s2.waits.filter (fun w => w.ctx == c)).foldl (fun s w => dropWait w s) (gone.foldl (fun s e => dropEngine e s) s2)
  failStreams c <| setCtx c Ctx.vacant <| endMoves c { s3 with
    queues := s3.queues.filter (fun e => e.1 / 64 != c),
    barrow := s3.barrow.filter (fun b => b.rcd.ctx != c || (match b.rcd.kind with | .withdraw _ => true | _ => false)),
    split := s3.split.filter (fun x => x.ctx != c),
    fills := s3.fills.filter (fun f => f.ctx != some c),
    hostHeld := s3.hostHeld.filter (fun h => h.1 != c),
    episodes := s3.episodes.filter (fun e => e.ctx % 32 != c),
    tokens := s3.tokens.filter (fun t => t.2.ctx % 32 != c),
    arrivals := s3.arrivals.filter (fun a => a.1 / 256 != c),
    rounds := s3.rounds.filter (fun r => r.1 % 32 != c) }

/-- CTX_DESTROY (R347, R349). -/
def execCtxDestroy (m : MgmtPacket) (s : State) : Result :=
  mgmtCtx 0x81 (mgmtClean m 0 && fieldD m.w1 8 56 == 0) m (fun s => mgmtEnd m .ok (dropCtx (mgmtCtxOf m) s)) s

/-- Every context goes as CTX_DESTROY takes it down (R349). -/
def dropContexts (s : State) : State := (s.ctxs.map (·.1)).foldl (fun s c => if (getCtx s c).live then dropCtx c s else s) s

/-- FUNCTION_LEVEL_RESET (R349, R368): of a context's virtual function, or of the physical function, with which every virtual function goes (log
entry 103). -/
def execFunctionLevelReset (c : Nat) (s : State) : Result :=
  if c = physCtx then .next (dropContexts s)
  else if (getCtx s c).live then .next (dropCtx c s) else .next s

/-! ### Queues -/

/-- Whether a queue record's bytes keep the table of R322. -/
def queueRecordLegal (bs : List Byte) : Bool :=
  fieldAt bs 0 8 % 4096 == 0 && decide (4 ≤ fieldAt bs 8 1) && decide (fieldAt bs 8 1 ≤ 16) && zeroAt bs 9 1 &&
  decide (fieldAt bs 0x0A 2 < 64) && zeroAt bs 0x0C 4 && bits (fieldAt bs 0x18 8) 3 29 == 0 && zeroAt bs 0x30 16

/-- Makes the first word of every slot empty, by the steward (R322). -/
def emptySlots (k : Nat) (s : State) : State := (List.range (2 ^ (getQueue s k).lgslots)).foldl (fun s i => emptySlot k i s) s

/-- The registration of a queue whose record is legal (R322). -/
def registerQueue (k : Nat) (rcd : DWord) (bs : List Byte) (s : State) : State :=
  let q : Queue := { Queue.vacant with live := true, rcd := rcd, base := dw (fieldAt bs 0 8), lgslots := fieldAt bs 8 1,
                                       vector := fieldAt bs 0x0A 2 }
  writeRecord k 0x20 8 0 (writeRecord k 0x10 8 0 (emptySlots k (setQueue k q s)))

/-- Whether every queue of a context is in use (R347). -/
def queuesFull (s : State) (c : Nat) : Bool := (List.range 64).all (fun n => (getQueue s (queueKey c n)).live)

/-- QUEUE_REG (R322, R347): a context has 64 queues. -/
def execQueueReg (m : MgmtPacket) (s : State) : Result :=
  mgmtCtx 0x82 (mgmtClean m 1 && fieldD m.w1 16 48 == 0) m (fun s =>
    let k := queueKey (mgmtCtxOf m) (mgmtByte9 m)
    if queuesFull s (mgmtCtxOf m) || (decide (mgmtByte9 m < 64) && (getQueue s k).live) then mgmtEnd m .busy s
    else if 64 ≤ mgmtByte9 m then mgmtEnd m .badCommand s
    else if m.w2.toNat % 64 ≠ 0 then mgmtEnd m .badCommand s
    else match frontBytes s (mgmtCtxOf m) m.w2 64 with
      | .ok bs => if queueRecordLegal bs then mgmtEnd m .ok (registerQueue k m.w2 bs s) else mgmtEnd m .badCommand s
      | _ => mgmtEnd m .badCommand s) s

/-- Unregisters a queue: its packet that has not started goes with it, and a launch of it that awaits reservation (R347). -/
def unregisterQueue (k : Nat) (s : State) : State :=
  { s with queues := s.queues.filter (fun e => e.1 != k),
           gangs := s.gangs.filter (fun e => !((match e.2.queue with | some (j, _) => j == k | none => false) &&
             (e.2.status == .dep || e.2.status == .reserving || e.2.status == .waiting))) }

/-- QUEUE_UNREG (R347). -/
def execQueueUnreg (m : MgmtPacket) (s : State) : Result :=
  mgmtCtx 0x83 (mgmtClean m 0 && fieldD m.w1 16 48 == 0) m (fun s =>
    let k := queueKey (mgmtCtxOf m) (mgmtByte9 m)
    if decide (64 ≤ (mgmtByte9 m)) || !(getQueue s k).live then mgmtEnd m .notFound s
    else mgmtEnd m .ok (unregisterQueue k s)) s

/-! ### The management queue -/

/-- The key of the management queue, whose addresses are physical (R347; log entry 25). -/
def mgmtQueue : Nat := queueKey physCtx 0

/-- The steward registers the management queue at its record (R322, R347). -/
def registerMgmt (rcd : DWord) (s : State) : State :=
  match (if rcd.toNat % 64 = 0 then frontBytes s physCtx rcd 64 else .err 1) with
  | .ok bs => if queueRecordLegal bs then registerQueue mgmtQueue rcd bs s else s
  | _ => s

/-! ### Handles -/

/-- HANDLE_NEW (R343, R347). -/
def execHandleNew (m : MgmtPacket) (s : State) : Result :=
  mgmtCtx 0x84 (mgmtClean m 3 && fieldD m.w1 8 24 == 0 && m.w2.toNat % 128 == 0 && m.w3.toNat % 128 == 0 && decide (m.w4.toNat < 3)) m (fun s =>
    let c := getCtx s (mgmtCtxOf m)
    if c.handles.any (fun h => h.id == (mgmtId m)) then mgmtEnd m .busy s
    else if 65536 ≤ c.handles.length then mgmtEnd m .noResource s
    else mgmtEnd m .ok (setCtx (mgmtCtxOf m) { c with handles := c.handles ++
      [{ id := (mgmtId m), base := m.w2, len := m.w3.toNat, mtype := m.w4.toNat, writers := [], readers := [] }] } s)) s

/-- HANDLE_FREE (R347). -/
def execHandleFree (m : MgmtPacket) (s : State) : Result :=
  mgmtCtx 0x85 (mgmtClean m 0 && fieldD m.w1 8 24 == 0) m (fun s =>
    let c := getCtx s (mgmtCtxOf m)
    if c.handles.any (fun h => h.id == (mgmtId m)) then
      mgmtEnd m .ok (setCtx (mgmtCtxOf m) { c with handles := c.handles.filter (fun h => h.id != (mgmtId m)) } s)
    else mgmtEnd m .notFound s) s

/-! ### Carve-outs -/

/-- The largest carve-out code that the teams of a core need, resident or reserved (R243). -/
def residentNeed (s : State) (part core : Nat) : Nat :=
  ((s.teams.filter (fun e => teamOnCore e.2 part core)).map (fun e => carveNeed e.2.hdr) ++
    (reservedPlaces s).filterMap (fun x => (x.1.side x.2.1 part core).map (fun _ => carveNeed x.2.1))).foldl max 0

/-- The teams that wait for room on a partition, each with its groups (R243): of launches, of saved work, of spawn bins. -/
def waitingTeams (s : State) (part : Nat) : List (KHeader × List (Nat × Nat)) :=
  (s.gangs.filter (fun e => (e.2.status == .reserving || e.2.status == .waiting || e.2.status == .committed) &&
    decide (e.2.next.getD part 0 < teamsBound e.2 part))).map (fun e => (e.2.hdr, startGroups e.2.hdr)) ++
  (s.teams.filter (fun e => e.2.status == .saved && e.2.part == part)).filterMap (fun e =>
    (restoreHeader s e.2).map (fun h => (h, savedGroups e.2))) ++
  (s.bins.filter (fun e => e.2.part == part && !e.2.formed.isEmpty)).map (fun e => (e.2.hdr, [(0, e.2.hdr.lgw)]))

/-- The state with the carve-outs of a core, and for a pair of its partner, at least of a code. -/
def grownPair (part core c : Nat) (pair : Bool) (s : State) : State :=
  (if pair then [core / 2 * 2, core / 2 * 2 + 1] else [core]).foldl (fun s k =>
    setCore part k { getCore s part k with carve := max (getCore s part k).carve c } s) s

/-- Whether the growth of a core's carve-out to a code admits a waiting team that does not fit there now (R243). -/
def growthAdmits (s : State) (part core c : Nat) : Bool :=
  (waitingTeams s part).any (fun x =>
    let k := if x.1.pair then core / 2 * 2 else core
    (fitQuarter s part k x.1 x.2).isNone && (fitQuarter (grownPair part core c x.1.pair s) part k x.1 x.2).isSome)

/-- Whether a core's carve-out may become a code (R243, R244): it grows to admit a waiting team, and shrinks to the largest code that the
core's teams need, once no allocation lies in the ways that are given up. -/
def mayCarve (s : State) (part core c : Nat) : Bool :=
  let k := (getCore s part core).carve
  decide (c ≤ 5) && decide (core < enabledCores s part) &&
  (if k < c then growthAdmits s part core c
    else decide (c < k) && residentNeed s part core == c && (scrAreas s part core).all (fun a => decide (a.1 + a.2 ≤ carveBytes c)))

/-- CARVE_OUT_CHANGE (R243, R244, R334). -/
def execCarveOutChange (part core c : Nat) (s : State) : Result :=
  if mayCarve s part core c then .next (carveChanged part (setCore part core
    { getCore s part core with carve := c, l1 := carveL1 c (getCore s part core).l1 } s)) else .next s

end Sys2Proof.Machine
end

