-- ==== Sys2Proof/Machine/HostPlace.lean ====
section
/-! DEFINITION. Where the accesses of the host through BAR2 lead (R369, R370). -/

namespace Sys2Proof.Machine

/-- Where a host access leads (R369): a place with its context and address, a fault, or nowhere. -/
inductive HostPlace where
  | at (ctx : Option Nat) (va : Nat) (loc : Loc)
  | absent (ctx va : Nat) (paged : Bool)
  | none
  deriving DecidableEq, Repr

/-- The key of a function's BAR2 among the sizes that the host has given. -/
def bar2Key : HostFn → Nat
  | .physical => physCtx
  | .virtual c => c

/-- The bytes of a half of a function's BAR2 (R369): until the host resizes it, 1 TiB for the physical function and 64 GiB for a virtual one. -/
def barHalf (s : State) (fn : HostFn) : Nat :=
  let lg := Sparse.get 0 s.bars (bar2Key fn)
  2 ^ ((if lg = 0 then (match fn with | .physical => 40 | .virtual _ => 36) else lg) - 1)

/-- The place of n bytes at an offset of one half of a function's BAR2 (R369); nothing lies beyond the half. -/
def hostPlace (fn : HostFn) (off n : Nat) (k : AccKind) (s : State) : HostPlace × State :=
  if barHalf s fn < off + n then (.none, s) else
  match fn with
  | .physical =>
    let pa := s.apbase.toNat + off
    if pa + n ≤ deviceBytes s && !s.power.off then (.at none pa (.dev pa), homeServes (.dev pa) n s) else (.none, s)
  | .virtual c =>
    let va := (getCtx s c).hwin.toNat + off
    if !(getCtx s c).live || decide (Config.window < va + n) then (.none, s)
    else match translate c 0 dieCore va k s with
      | (.ok pa m, s1) => (.at (some c) va (placeOf pa m), homeServes (placeOf pa m) n s1)
      | (.absent p, s1) => (.absent c va p, s1)
      | (.page, s1) => (.none, s1)
      | (.protect, s1) => (.none, s1)

/-- What a host access of several pieces meets: their places, a fault, or nowhere. -/
inductive HostPlaces where
  | all (l : List (Nat × Nat × Option Nat × Nat × Loc))
  | absent (ctx va : Nat) (paged : Bool)
  | none
  deriving DecidableEq, Repr

/-- The places of the pieces of a host access, each an offset and a length. -/
def hostPlaces (fn : HostFn) (k : AccKind) : List (Nat × Nat) → State → HostPlaces × State
  | [], s => (.all [], s)
  | (o, n) :: l, s =>
    match hostPlace fn o n k s with
    | (.none, s1) => (.none, s1)
    | (.absent c va p, s1) => (.absent c va p, s1)
    | (.at c va loc, s1) => match hostPlaces fn k l s1 with
      | (.all ps, s2) => (.all ((o, n, c, va, loc) :: ps), s2)
      | (r, s2) => (r, s2)

/-- The whole aligned words of a write, in increasing order (R370). -/
def fillWords (off n : Nat) : List Nat :=
  let first := (off + 7) / 8
  (List.range ((off + n) / 8 - first)).map (fun k => 8 * (first + k))

/-- Where the words of a write through a fill alias lead. -/
def fillPlaces (fn : HostFn) (off : Nat) (bytes : List Byte) (s : State) : HostPlaces × State :=
  hostPlaces fn .feWrite ((fillWords off bytes.length).map (fun o => (o, 8))) s

end Sys2Proof.Machine
end

