-- ==== Sys2Proof/Machine/Paged.lean ====
section
/-! DEFINITION. Translation under change: INVAL, the answers to faults, migration, page-out and page-in (R355 to R362). -/

namespace Sys2Proof.Machine

/-! ### INVAL -/

/-- Whether two byte ranges overlap; a length of 0 means the whole space (R347). -/
def inRange (base len a n : Nat) : Bool := len == 0 || (decide (a < base + len) && decide (base < a + n))

/-- Where a place of an access that has not been performed leads now (R355, R360). -/
def relocate (s : State) (c : Nat) (va : DWord) (loc : Loc) : Loc :=
  match loc with
  | .dev _ | .host _ => match addrForm s va with
    | .plain v => match walk s c v with
      | .leaf l => placeOf (l.pa + (v - l.va)) l.mtype
      | _ => loc
    | _ => loc
  | _ => loc

/-- A host fill that is held at a full word goes on waiting at the word's new place; one whose page is absent now is held at the fault, and fills anew
once that is answered (R355, R356, R360). -/
def relocateFill (c : Nat) (s : State) (f : HostFill) : State :=
  if f.ctx != some c then { s with fills := s.fills ++ [f] }
  else match relocate s c f.va (.dev f.pa), walk s c f.va.toNat with
    | .dev pa, .leaf _ => { s with fills := s.fills ++ [{ f with pa := pa }] }
    | _, w => reportFault c f.va.toNat .feWrite 3 0 (match w with | .absent g => g | _ => false) { s with hostHeld := s.hostHeld ++
        [(c, f.va.toNat, .hostFillWrite (.virtual c) (f.va - (getCtx s c).hwin).toNat (bytesLE 8 f.val.toNat))] }

/-- The host fills that are held at full words use the new translation (R355, R360). -/
def relocateFills (c : Nat) (s : State) : State := s.fills.foldl (relocateFill c) { s with fills := [] }

/-- Accesses that wait, and outstanding ones that have not been performed, use the new translation (R355, R360). -/
def relocateAll (c : Nat) (s0 : State) : State :=
  let s := relocateFills c s0
  let s1 := { s with waits := s.waits.map (fun w => if w.ctx = c then { w with loc := relocate s c w.va w.loc } else w) }
  mapGroups (fun g => g.ctx == c) (fun g => { g with
    outs := g.outs.map (fun o => { o with
      lanes := o.lanes.map (fun l => if l.done || l.held then l else { l with loc := relocate s c l.va l.loc }) }) }) s1

/-- Accesses that wait at a full/empty word use the new translation (R248, R355, R360). -/
def relocateWaits (c : Nat) (s0 : State) : State :=
  let s := relocateFills c s0
  let s1 := { s with waits := s.waits.map (fun w => if w.ctx = c then { w with loc := relocate s c w.va w.loc } else w) }
  mapGroups (fun g => g.ctx == c) (fun g => { g with
    outs := g.outs.map (fun o => { o with
      lanes := o.lanes.map (fun l => if laneWaits s g.id o.id l.lane then { l with loc := relocate s c l.va l.loc } else l) }) }) s1

/-- Whether a lane has been translated, and neither been performed nor faulted (R355); one that waits at a full/empty word attempts it
again under its virtual address. -/
def laneUnderWay (s : State) (gid id : Nat) (l : LaneAcc) : Bool :=
  !l.done && !l.held && !laneWaits s gid id l.lane && (match l.loc with | .dev _ => true | .host _ => true | .scr _ _ => false | .pod _ _ => false)

/-- Whether an operation is under way through an entry of a range or a translation register (R355, step 3). -/
def opUnderWay (s : State) (base len gid : Nat) (o : MemOp) : Bool :=
  o.lanes.any (fun l => laneUnderWay s gid o.id l &&
    (o.via || (match addrForm s l.va with
      | .plain v => inRange base len v o.z
      | .badForm => false
      | .noPackage => false
      | .pod _ _ => false
      | .window _ => false)))

/-- The operations of a context that are under way through what an INVAL drops, each with its group (R355). -/
def opsUnderWay (s : State) (c base len : Nat) : List (Nat × Nat) :=
  ((groups s).filter (fun g => g.ctx == c)).flatMap (fun g =>
    (g.outs.filter (opUnderWay s base len g.id)).map (fun o => (g.id, o.id)))

/-- Whether an INVAL still waits for an operation that was under way when it began (R355, step 3). -/
def invalWaits (s : State) (x : Inval) : Bool :=
  x.ops.any (fun y => match (findGroup y.1 s).bind (findOp y.2) with
    | some o => opUnderWay s x.base x.len y.1 o
    | none => false)

/-- The INVALs that wait for nothing any more fill their status words (R355, step 4). -/
def endInvals (s : State) : State :=
  let done := s.invals.filter (fun x => !invalWaits s x)
  done.foldl (fun s x => fillStatus x.status .ok s) { s with invals := s.invals.filter (invalWaits s) }

/-- A group's translation registers, every one of them stale (R38, R355). -/
def staleAll (g : Group) : Group :=
  { g with tregs := (List.range 8).foldl (fun l k => Sparse.set TReg.start l k { Sparse.get TReg.start l k with stale := true }) g.tregs }

/-- Drops the TLB entries of a context that overlap a range, and makes every translation register stale (R355, steps 1 and 2). -/
def dropTranslations (c base len : Nat) (s : State) : State :=
  let x := getCtx s c
  mapGroups (fun g => g.ctx == c) staleAll
    (setCtx c { x with tlb := x.tlb.filter (fun e => !inRange base len e.va e.size) } s)

/-- The INVAL of a freeze (R359): the accesses that it held use the new translation. -/
def invalidate (c base len : Nat) (s : State) : State := relocateAll c (dropTranslations c base len s)

/-- INVAL (R355): the status waits for the operations under way. -/
def execInval (m : MgmtPacket) (s : State) : Result :=
  mgmtCtx 0x86 (mgmtClean m 2 && fieldD m.w1 8 56 == 0 && m.w2.toNat % 65536 == 0 && m.w3.toNat % 65536 == 0) m (fun s =>
    let s1 := relocateWaits (mgmtCtxOf m) (dropTranslations (mgmtCtxOf m) m.w2.toNat m.w3.toNat s)
    let ops := opsUnderWay s1 (mgmtCtxOf m) m.w2.toNat m.w3.toNat
    if ops.isEmpty then mgmtEnd m .ok s1
    else .next { s1 with invals := s1.invals ++
      [{ ctx := mgmtCtxOf m, base := m.w2.toNat, len := m.w3.toNat, status := mgmtStatusAt m, ops := ops }] }) s

/-! ### Answers to faults -/

/-- Whether an address lies in a 64 KiB unit. -/
def inUnit (unit va : Nat) : Bool := va / 65536 == unit / 65536

/-- A strand held at a fault in a unit executes its instruction again (R154, R357). -/
def retryStrand (unit : Nat) (t : Strand) : Strand :=
  match t.hold with
  | .fault _ va => if inUnit unit va.toNat then { t with hold := .none } else t
  | _ => t

/-- The lanes of a context that are held at faults in a unit: each with its group, its operation and its address (R154). -/
def lanesIn (s : State) (c unit : Nat) : List (Nat × Nat × Nat × DWord) :=
  ((groups s).filter (fun g => g.ctx == c)).flatMap (fun g => g.outs.flatMap (fun o =>
    (o.lanes.filter (fun l => l.held && inUnit unit l.va.toNat)).map (fun l => (g.id, o.id, l.lane, l.va))))

/-- A lane that is held at a fault, with its group and its operation. -/
def heldLane (gid id lane : Nat) (s : State) : Option (Group × MemOp) :=
  (findGroup gid s).bind (fun g => (findOp id g).bind (fun o => if o.lanes.any (fun l => l.lane == lane && l.held) then some (g, o) else none))

/-- A held lane tries its page again (R154, R357): it gets its place, faults again, or fails. -/
def retryLane (x : Nat × Nat × Nat × DWord) (s : State) : State :=
  let (gid, id, lane, va) := x
  match heldLane gid id lane s with
  | none => s
  | some (g, o) => match placeVa g o.kind o.ty va s with
    | (.at_ loc, s1) => modGroup gid (fun g => progress (placeHeld id lane loc g)) s1
    | (.absent p, s1) => reportFault g.ctx va.toNat o.kind.acc 0 0 p s1
    | (.trap c, s1) => failLane gid id lane c va s1

/-- A held lane whose fault has failed traps PAGE (R154, R357). -/
def denyLane (x : Nat × Nat × Nat × DWord) (s : State) : State :=
  match heldLane x.1 x.2.1 x.2.2.1 s with
  | some _ => failLane x.1 x.2.1 x.2.2.1 .page x.2.2.2 s
  | none => s

/-- Whether a served operation is held at a unit of a context. -/
def servedIn (c unit : Nat) (x : Served) : Bool :=
  x.rcd.ctx == c && (match x.held with | some va => inUnit unit va | none => false)

/-- What waits here is served again, or goes on waiting behind what stands before it, in order (R274, R296). -/
def serveAgain (l : List Served) (s : State) : State :=
  l.foldl (fun s x =>
    if standsBehind s x.rcd s.served || (x.held.isNone && x.parcel.isNone && mayReply x.rcd.kind) then
      { s with served := s.served ++ [{ x with held := none }] }
    else serveWaiting x s) s
where
  /-- An operation whose service takes its own time (R296). -/
  mayReply (k : RemKind) : Bool := !ackWaits k

/-- An operation that has failed at a fault (R300, R357): for a parcel its copy fails. -/
def denyServed (x : Served) (s : State) : State :=
  match x.parcel with
  | some p => failAt p.src p.entry .remoteDenied s
  | none => replyTo x.rcd 0 (some .remoteDenied) s

/-- An engine operation of a context held at a unit, answered by f. -/
def answerEngine (c unit : Nat) (f : Nat → EngOp → EngOp) (x : EngOp) : EngOp :=
  match x.held with
  | some va => if x.ctx = c && inUnit unit va then f va { x with held := none } else x
  | none => x

/-- A packet held at a unit, answered by f. -/
def answerPacket (unit : Nat) (f : Packet → Packet) (p : Packet) : Packet :=
  match p.held with
  | some va => if inUnit unit va.toNat then f { p with held := none } else p
  | none => p

/-- The packets of a context's queues, answered by f. -/
def answerQueue (c : Nat) (f : Packet → Packet) (e : Nat × Queue) : Nat × Queue :=
  if e.1 / 64 = c then (e.1, { e.2 with cur := e.2.cur.map f }) else e

/-- The peers whose next flit is held at a unit of a context (R356). -/
def heldPeers (s : State) (c unit : Nat) : List Nat :=
  (s.peers.filter (fun e => match e.2.fault with | some (d, va) => d == c && inUnit unit va | none => false)).map (·.1)

/-- The queues of a context, by key. -/
def queuesOf (s : State) (c : Nat) : List Nat := (s.queues.filter (fun e => e.1 / 64 == c)).map (·.1)

/-- What the front end and its waiters owe to a context's pages is tried again: its debts, the packets of ENQs, the threads of SPAWNs
(R178, R190, R192, R322). -/
def retryFront (c : Nat) (s : State) : State :=
  (List.range Config.partitions).foldl (fun s p => enterHeld p s) ((queuesOf s c).foldl (fun s k => serveEnqs k (payQueue k s)) s)

/-- The flit that a peer's stream is held at is applied again (R356, R357). -/
def retryPeer (q : Nat) (s : State) : State :=
  let p := getPeer s q
  applyNext q p.rxheld.length (setPeer q { p with fault := none, owedAcks := oweAck p.owedAcks p.rxnext } s)

/-- Whether a host access is held at a unit of a context. -/
def hostHeldAt (c unit : Nat) (h : Nat × Nat × Instr) : Bool := h.1 == c && inUnit unit h.2.1

/-- Retries every access that is held at a unit of a context (R357, R362). -/
def retryUnit (c unit : Nat) (s : State) : State :=
  let s1 : State := mapGroups (fun g => g.ctx == c) (fun g => progress (mapStrands (retryStrand unit) g)) s
  let s2 : State := { s1 with
    engines := s1.engines.map (answerEngine c unit (fun _ x => x)),
    queues := s1.queues.map (answerQueue c (answerPacket unit id)),
    hostHeld := s1.hostHeld.filter (fun h => !hostHeldAt c unit h) }
  let s3 : State := (s1.hostHeld.filter (hostHeldAt c unit)).foldr (fun h s => due h.2.2 s) s2
  let s4 := if s3.served.any (servedIn c unit) then serveAgain s3.served { s3 with served := [] } else s3
  let s5 := retryFront c ((lanesIn s4 c unit).foldl (fun s x => retryLane x s) s4)
  (heldPeers s5 c unit).foldl (fun s q => retryPeer q s) s5

/-- The instruction at a held strand's PC. -/
def heldInstr (g : Group) (t : Strand) (s : State) : Option Instr := nextInstr t g s

/-- The context error of a SPAWN whose header cannot be read (R190). -/
def failSpawn (a : RegCode) (s : State) : State := spawnError .page (uPair s ((rdOp 1 a).pair true)) s

/-- The failure of what a strand is held at (R154, R190, R191, R192, R357). -/
def failStrand (gid : Nat) (t : Strand) (s : State) : State :=
  match t.hold with
  | .fault _ va =>
    let s1 := modCur (fun g => { g with strand := { g.strand with hold := .none } }) (focusLane gid ((lowestLane t.mask).getD 0) s)
    match heldInstr s1.cur s1.cur.strand s1 with
    | some (.fork a) =>
      let r := uPair s1 ((rdOp 1 a).pair true)
      forkFails s1.cur.team (recordDone s1 s1.cur.ctx r) 0x08 (modCur (groupHold (.forkTeam r)) s1)
    | some (.spawn a _) => failSpawn a s1
    | _ => takeTrap (trapOf .page va) s1
  | _ => s

/-- The strands of a context that are held at a unit, each with its group. -/
def heldStrands (s : State) (c unit : Nat) : List (Nat × Strand) :=
  ((groups s).filter (fun g => g.ctx == c)).flatMap (fun g =>
    ((allStrands g).filter (fun t => match t.hold with | .fault _ va => inUnit unit va.toNat | _ => false)).map (fun t => (g.id, t)))

/-- What a held host access gets when its fault fails (R357, R369). -/
def failHost (i : Instr) (s : State) : State :=
  match i with
  | .hostRead _ _ off _ => emit (.unsupported off) s
  | .hostAtomicop _ _ _ _ off _ _ => emit (.unsupported off) s
  | .hostPlainWrite _ off _ => emit (.aerDrop off) s
  | .hostFillWrite _ off _ => emit (.aerDrop off) s
  | _ => s

/-- The tile operations of a context at the head of their streams whose count word lies in a unit and has not been reached (R203). -/
def heldCounts (s : State) (c unit : Nat) : List (Nat × Nat × TileOp) :=
  (s.teams.filter (fun e => e.2.ctx == c)).flatMap (fun e => e.2.streams.filterMap (fun x => match x.2.ops with
    | o :: _ => if !o.counted && !countWaits s e.1 x.1 && inUnit unit o.base.toNat then some (e.1, x.1, o) else none
    | [] => none))

/-- Whether a PREL that has its count waits for the page of its word in a unit of a context (R194). -/
def heldPrel (s : State) (c unit : Nat) (h : HeldPrel) : Bool :=
  h.rcd.ctx == c && decide (h.count.toNat ≤ (arrived s h.rcd).toNat) &&
  (match exportVa s c h.rcd.off 8 with | some va => inUnit unit va | none => false)

/-- The counts and the PRELs that are held at a unit of a context fail (R180, R203, R300, R357). -/
def failRest (c unit : Nat) (s : State) : State :=
  let s1 := (heldCounts s c unit).foldl (fun s x => failTile x.1 x.2.1 x.2.2 .page x.2.2.base s) s
  let dead := s1.prels.filter (heldPrel s1 c unit)
  dead.foldl (fun s h => replyTo h.rcd 0 (some .remoteDenied) s) { s1 with prels := s1.prels.filter (fun h => !dead.contains h) }

/-- The strands of a context that wait with threads for a bin whose header lies in a unit, each with its group (R190). -/
def heldSpawns (s : State) (c unit : Nat) : List (Nat × Nat × DWord) :=
  ((groups s).filter (fun g => g.ctx == c)).flatMap (fun g =>
    ((binWaiters g).filter (fun w => inUnit unit w.2.1.toNat)).map (fun w => (g.id, w.1, w.2.1)))

/-- The strands of a context that wait in ENQ for a slot whose page is a unit: group, lane, queue and index (R192). -/
def heldEnqs (s : State) (c unit : Nat) : List (Nat × Nat × Nat × Nat) :=
  ((groups s).filter (fun g => g.ctx == c)).flatMap (fun g => (allStrands g).filterMap (fun t => match t.hold with
    | .enq q i _ _ =>
      let x := getQueue s (queueKey c q)
      if slotFree x i && inUnit unit (slotAddr x i).toNat then some (g.id, (lowestLane t.mask).getD 0, q, i) else none
    | _ => none))

/-- An ENQ whose slot's page has been denied traps PAGE; the queue skips its index (R192, R324, R357, log entry 87). -/
def denyEnq (c : Nat) (x : Nat × Nat × Nat × Nat) (s : State) : State :=
  let (gid, lane, q, i) := x
  let k := queueKey c q
  let va := slotAddr (getQueue s k) i
  takeTrap (trapOf .page va) (modCur (fun g => { g with strand := { g.strand with hold := .none } })
    (focusLane gid lane (setLast k i (skipIndex k i s))))

/-- The debts of the front end to a page that has been denied lapse (R178, R357). -/
def dropDebts (unit : Nat) (q : Queue) : Queue :=
  { (if inUnit unit q.rcd.toNat then { q with owed := [], flags := 0 } else q) with
    slots := q.slots.filter (fun i => !inUnit unit (slotAddr q i).toNat) }

/-- What waits for a unit of a context at the front end fails (R190, R192, R322, R357). -/
def failFront (c unit : Nat) (s : State) : State :=
  let s1 := (heldSpawns s c unit).foldl (fun s x => spawnError .page x.2.2 (focusLane x.1 x.2.1 s)) s
  let s2 := (heldEnqs s1 c unit).foldl (fun s x => denyEnq c x s) s1
  { s2 with queues := s2.queues.map (fun e => if e.1 / 64 = c then (e.1, dropDebts unit e.2) else e) }

/-- Whether a host fill that is held at a unit waits for an earlier write there, and not for a page of its own in the unit (R280). -/
def fillBehind (s : State) (c unit : Nat) (h : Nat × Nat × Instr) : Bool :=
  match h.2.2 with
  | .hostFillWrite fn off bytes => match (fillPlaces fn off bytes s).1 with
    | .absent d va _ => d != c || !inUnit unit va
    | _ => true
  | _ => false

/-- Fails every access that is held at a unit of a context (R357). -/
def failUnit (c unit : Nat) (s : State) : State :=
  let s0 := failFront c unit ((lanesIn s c unit).foldl (fun s x => denyLane x s) s)
  let s1 : State := (heldStrands s0 c unit).foldl (fun s x => failStrand x.1 x.2 s) s0
  let s2 : State := { s1 with
    engines := s1.engines.map (answerEngine c unit (fun va x => { x with fail := some (.page, dw va) })),
    queues := s1.queues.map (answerQueue c (answerPacket unit (fun p => { p with denied := true }))),
    hostHeld := s1.hostHeld.filter (fun h => !hostHeldAt c unit h) }
  let mine := s1.hostHeld.filter (hostHeldAt c unit)
  let s3 : State := (mine.filter (fun h => fillBehind s0 c unit h)).foldr (fun h s => due h.2.2 s)
    ((mine.filter (fun h => !fillBehind s0 c unit h)).foldl (fun s h => failHost h.2.2 s) s2)
  let dead := s3.served.filter (servedIn c unit)
  let s4 := if dead.isEmpty then s3
    else serveAgain (s3.served.filter (fun x => !servedIn c unit x)) (dead.foldl (fun s x => denyServed x s) { s3 with served := [] })
  (heldPeers s4 c unit).foldl (fun s q => failPeer .remoteDenied q s) (failRest c unit s4)

/-- FAULT_REPLY (R356, R357). -/
def execFaultReply (m : MgmtPacket) (s : State) : Result :=
  mgmtCtx 0x89 (mgmtClean m 1 && fieldD m.w1 8 24 == 0 && decide (m.w2.toNat ≤ 1)) m (fun s =>
    let c := getCtx s (mgmtCtxOf m)
    match c.faults.find? (fun f => f.id == (mgmtId m)) with
    | none => mgmtEnd m .notFound s
    | some f =>
      let s1 := recordNext (mgmtCtxOf m) (setCtx (mgmtCtxOf m) { c with faults := c.faults.filter (fun x => x.id != (mgmtId m)) } s)
      mgmtEnd m .ok (if m.w2 = 0 then retryUnit (mgmtCtxOf m) f.va.toNat s1 else failUnit (mgmtCtxOf m) f.va.toNat s1)) s

/-! ### Splitting pages -/

/-- The entries of a table that maps a page's frames as leaves of the level below (R359). -/
def splitEntries (e step n : Nat) : List Byte := (List.range n).flatMap (fun i => bytesLE 8 (e + i * step))

/-- Where the steward lays the table that a leaf at a level is split into, in what it reserves for the context (R359, log entry 26). -/
def splitTable (s : State) (c level : Nat) : Nat :=
  let size := 8 * 2 ^ levelBits level
  (reserveBase s c + 2 ^ 26 + 2 ^ 25 + (getCtx s c).tables + size - 1) / size * size

/-- Splits a leaf into a table of the level below; its own entry becomes the table's (R352, R359). -/
def splitLeaf (c : Nat) (x : Entry) (s : State) : State :=
  match x.level with
  | 0 => s
  | level + 1 =>
    let table := splitTable s c level
    let perms := bits x.e 55 5 * 2 ^ 55
    let s1 := writeList 0 (.dev table) (splitEntries x.e (2 ^ levelShift level) (2 ^ levelBits level)) s
    writeBytes 0 (.dev x.at_) 8 (perms + table + 1)
      (setCtx c { getCtx s c with tables := table + 8 * 2 ^ levelBits level - (reserveBase s c + 2 ^ 26 + 2 ^ 25) } s1)

/-- Splits a page into 64 KiB leaves, every table of it (R359); n bounds the levels. -/
def splitWhole (c : Nat) : Nat → Entry → State → State
  | 0, _, s => s
  | n + 1, x, s => match x.level with
    | 0 => s
    | level + 1 =>
      let table := splitTable s c level
      (List.range (2 ^ levelBits level)).foldl (fun s i => splitWhole c n
        { va := x.va + i * 2 ^ levelShift level, at_ := table + 8 * i, e := x.e + i * 2 ^ levelShift level, level := level } s) (splitLeaf c x s)

/-- The leaf that a unit's address meets, as an entry. -/
def leafEntry (s : State) (c va : Nat) : Option Entry :=
  match walk s c va with
  | .leaf l => some { va := l.va, at_ := l.entry, e := readBytes s 0 (.dev l.entry) 8,
                      level := if l.size = 2 ^ 16 then 0 else if l.size = 2 ^ 21 then 1 else 2 }
  | _ => none

/-- Splits the page of a unit, where it is larger, into 64 KiB leaves, with an INVAL (R359). -/
def splitUnit (c va : Nat) (s : State) : State :=
  match leafEntry s c va with
  | some x => if x.level = 0 then s else invalidate c x.va (2 ^ levelShift x.level) (splitWhole c 2 x s)
  | none => s

/-! ### Moving a unit -/

/-- The side array of a unit (R361): the full/empty bit of word i is bit i mod 8 of byte i / 8. -/
def sideArray (s : State) (frame : Nat) : List Byte :=
  (List.range 1024).map (fun b => BitVec.ofNat 8 ((List.range 8).foldl (fun n j =>
    n + boolNat (readFe s 0 (.dev (frame + 8 * (8 * b + j)))) * 2 ^ j) 0))

/-- The poison of the 64-byte units of a frame. -/
def framePoison (s : State) (frame : Nat) : List Bool := (List.range 1024).map (fun k => Sparse.get false s.poison (frame / 64 + k))

/-- Writes a unit's data, side array and poison into a frame (R362, R412). -/
def loadFrame (frame : Nat) (data side : List Byte) (bad : List Bool) (s : State) : State :=
  let s1 := writeList 0 (.dev frame) data s
  { s1 with
    fe := (List.range 8192).foldl (fun l k => Sparse.set true l (frame / 8 + k) ((side.getD (k / 8) 0).getLsbD (k % 8))) s1.fe,
    poison := (List.range 1024).foldl (fun l k => Sparse.set false l (frame / 64 + k) (bad.getD k false)) s1.poison }

/-- The bytes of a line of a frame. -/
def lineBytes (s : State) (frame k : Nat) : List Byte := (List.range 128).map (fun i => readByte s 0 (.dev (frame + 128 * k)) i)

/-- The full/empty bits of a line of a frame as two bytes of a side array (R361). -/
def lineSide (s : State) (frame k : Nat) : List Byte :=
  (List.range 2).map (fun b => BitVec.ofNat 8 ((List.range 8).foldl (fun n j =>
    n + boolNat (readFe s 0 (.dev (frame + 128 * k + 64 * b + 8 * j))) * 2 ^ j) 0))

/-- Copies a line of a unit with its full/empty bits to the new frame or the backing slot (R359, R361). -/
def copyLine (m : Migration) (k : Nat) (s : State) : State :=
  let data := lineBytes s m.old k
  if m.toHost then writeList 0 (.host (m.frame + 65536 + 2 * k)) (lineSide s m.old k) (writeList 0 (.host (m.frame + 128 * k)) data s)
  else
    let s1 := writeList 0 (.dev (m.frame + 128 * k)) data s
    { s1 with
      fe := (List.range 16).foldl (fun l j => Sparse.set true l (m.frame / 8 + 16 * k + j) (readFe s 0 (.dev (m.old + 128 * k + 8 * j)))) s1.fe,
      poison := (List.range 2).foldl (fun l j =>
        Sparse.set false l (m.frame / 64 + 2 * k + j) (Sparse.get false s.poison (m.old / 64 + 2 * k + j))) s1.poison }

/-- Copies lines of a unit. -/
def copyLines (m : Migration) (l : List Nat) (s : State) : State := l.foldl (fun s k => copyLine m k s) s

/-- A later copy round (R359): the lines that have been written since the previous one began. -/
def moveRound (c : Nat) (m : Migration) (s : State) : State :=
  let s1 := copyLines m m.marked s
  setCtx c { getCtx s1 c with mig := some { m with round := m.round + 1, last := m.marked.length, marked := [] } } s1

/-- What a line of device memory holds: its listed bytes, bits and poison. -/
def lineState (s : State) (pa : Nat) : List Host.Cell × Sparse Bool × Sparse Bool :=
  (s.mem.filter (fun x => decide (pa ≤ x.1) && decide (x.1 < pa + 128)), s.fe.filter (fun x => decide (pa / 8 ≤ x.1) && decide (x.1 < pa / 8 + 16)),
   s.poison.filter (fun x => decide (pa / 64 ≤ x.1) && decide (x.1 < pa / 64 + 2)))

/-- The lines of a frame that differ between two states. -/
def writtenLines (before s : State) (frame : Nat) : List Nat :=
  if before.mem = s.mem ∧ before.fe = s.fe ∧ before.poison = s.poison then []
  else (List.range 512).filter (fun k => lineState before (frame + 128 * k) != lineState s (frame + 128 * k))

/-- The rewrite maps after a step (R359): every write of a unit on its way, a change of a full/empty bit included, marks its line (log
entry 66). -/
def markMoves (before s : State) : State :=
  if s.ctxs.all (fun e => e.2.mig.isNone) then s
  else { s with ctxs := s.ctxs.map (fun e => (e.1, { e.2 with mig := e.2.mig.map (fun m =>
    { m with marked := m.marked ++ (writtenLines before s m.old).filter (fun k => !m.marked.contains k) }) })) }

/-- Starts a migration or a page-out of a present device unit (R359, R361): its owned lines are recalled, and the first round copies every
line. -/
def startMove (m : MgmtPacket) (toHost : Bool) (s : State) : Result :=
  let va := m.w2.toNat
  match (match addrForm s m.w2 with | .plain v => leafEntry s (mgmtCtxOf m) v | _ => none) with
  | none => mgmtEnd m .notFound s
  | some x =>
    if !x.device then mgmtEnd m .notFound s
    else if !toHost && !frameLegal s m.w3.toNat then mgmtEnd m .noResource s
    else
      let s1 := splitUnit (mgmtCtxOf m) va s
      match leafEntry s1 (mgmtCtxOf m) va with
      | none => mgmtEnd m .notFound s1
      | some y =>
        let mv : Migration := { va := m.w2, old := y.frame, frame := m.w3.toNat, toHost := toHost, status := mgmtStatusAt m,
                                round := 1, last := 512, marked := [] }
        let s2 := copyLines mv (List.range 512) (homeServes (.dev y.frame) 65536 s1)
        .next (setCtx (mgmtCtxOf m) { getCtx s2 (mgmtCtxOf m) with mig := some mv } s2)

/-- MIGRATE (R359): round 1 copies; accesses go on at the old frame. -/
def execMigrate (m : MgmtPacket) (s : State) : Result :=
  mgmtCtx 0x87 (mgmtClean m 2 && fieldD m.w1 8 56 == 0 && m.w2.toNat % 65536 == 0 && m.w3.toNat % 65536 == 0) m (startMove m false) s

/-- PAGEOUT (R361). -/
def execPageout (m : MgmtPacket) (s : State) : Result :=
  mgmtCtx 0x88 (mgmtClean m 2 && fieldD m.w1 8 56 == 0 && m.w2.toNat % 65536 == 0 && m.w3.toNat % 4096 == 0) m (startMove m true) s

/-- Whether a range-lock entry of a context overlaps a unit (R359, step 3). -/
def unitLocked (s : State) (c va : Nat) : Bool := s.locks.any (fun l => l.ctx == c && rangesMeet l.lo l.len va 65536)

/-- The leaf of a moved unit (R359, R361). -/
def movedLeaf (m : Migration) (e : Nat) : Nat :=
  if m.toHost then m.frame / 4096 * 4096 + 2 else e - bits e 8 44 * 256 + m.frame

/-- The marked lines and the leaf of a unit move (R359 step 4, R361). -/
def finishMove (c : Nat) (m : Migration) (x : Entry) (s : State) : State :=
  let s0 := copyLines m m.marked s
  let y := getCtx s0 c
  let s1 := if m.toHost then
      setCtx c { y with pages := y.pages.filter (fun p => p.va != m.va) ++
          [{ va := m.va, leaf := dw (x.e - x.frame), poison := framePoison s m.old }] } s0
    else s0
  let s2 := invalidate c m.va.toNat 65536 (writeBytes 0 (.dev x.at_) 8 (movedLeaf m x.e) s1)
  fillStatus m.status .ok (setCtx c { getCtx s2 c with mig := none } s2)

/-- MIGRATE_FREEZE (R359 to R361), the steward's next act on a unit: a copy round while one follows, then, once no range lock overlaps the
unit and no access to a unit that leaves device memory is under way, the freeze. -/
def execMigrateFreeze (c : Nat) (s : State) : Result :=
  match (getCtx s c).mig with
  | none => .next s
  | some m => match leafEntry s c m.va.toNat with
    | none => .next (fillStatus m.status .notFound (setCtx c { getCtx s c with mig := none } s))
    | some x =>
      if m.more then .next (moveRound c m s)
      else
      let busy := m.toHost && (groups s).any (fun g => g.ctx == c && g.outs.any (fun o => o.lanes.any (fun l =>
        !l.done && !l.held && !laneWaits s g.id o.id l.lane && (match l.loc with | .dev p => rangesMeet p o.z x.frame 65536 | _ => false))))
      if unitLocked s c m.va.toNat || busy then .next s else .next (finishMove c m x s)

/-- PAGE_IN (R362): the unit comes back into a device frame, and its held accesses are retried; where no frame is free the fault that waits for it is
reported, with its kind and source. -/
def execPageIn (c va : Nat) (frame : Option Nat) (s : State) : Result :=
  let unit := va / 65536 * 65536
  match walk s c unit, (getCtx s c).pages.find? (fun p => p.va == dw unit), frame with
  | .absent true, some p, some f =>
    if !frameLegal s f then .next s
    else
      match (ctxEntries s c).find? (fun x => x.va == unit && !x.e.testBit 0) with
      | none => .next s
      | some x =>
        let slot := x.e / 4096 * 4096
        let s1 := loadFrame f ((List.range 65536).map (fun i => readByte s 0 (.host slot) i))
          ((List.range 1024).map (fun i => readByte s 0 (.host (slot + 65536)) i)) p.poison s
        let y := getCtx s1 c
        let s2 := writeBytes 0 (.dev x.at_) 8 (p.leaf.toNat + f) (setCtx c { y with
          pages := y.pages.filter (fun q => q.va != p.va), waiting := y.waiting.filter (fun w => w.2.va != dw unit) } s1)
        .next (retryUnit c unit (invalidate c unit 65536 s2))
  | .absent true, some _, none =>
    if (freeFrame s).isSome then .next s
    else match (getCtx s c).waiting.find? (fun w => w.1 && w.2.va == dw unit) with
    | some w => .next (recordFault c w.2 s)
    | none => .next s
  | _, _, _ => .next s

end Sys2Proof.Machine
end

