-- ==== Sys2Proof/Machine/Recovery.lean ====
section
/-! DEFINITION. Pod health, scrubbing, row repair and checkpoints (R395, R408, R410 to R412, R414). -/

namespace Sys2Proof.Machine

/-! ### Pod health -/

/-- Whether a package number names a peer whose entry of the pod health table can change (R408). -/
def isPeer (s : State) (p : Nat) : Bool := decide (p < podSize s) && p != pkgId s

/-- Every unacknowledged operation to a lost package fails with PEER_LOST (R300, R408). -/
def failEntriesTo (p : Nat) (s : State) : State :=
  (s.barrow.filter (fun b => b.dst == p)).foldl (fun s b => deliverReply { tag := b.id, lane := b.rcd.lane, data := 0, fail := some 0x14 } s) s

/-- Parcels that a lost broker held are sent directly (R295). -/
def resendFrom (p : Nat) (s : State) : State :=
  { s with barrow := s.barrow.map (fun b =>
      { b with refused := (b.relayed.filter (fun r => r.2.1 == p)).map (·.1) ++ b.refused, relayed := b.relayed.filter (fun r => r.2.1 != p) }) }

/-- What this package holds as a broker for a package goes (R294, R295). -/
def dropBrokered (p : Nat) (s : State) : State :=
  { s with relay := s.relay.filter (fun f => f.dst != p), brokered := s.brokered.filter (fun k => k.dst != p) }

/-- The entry of a package to lost (R196, R295, R300, R408). -/
def markLost (p : Nat) (s : State) : State :=
  let s1 := resendFrom p (failEntriesTo p (dropBrokered p (setPeer p Peer.start (setHealth p 2 s))))
  (s1.episodes.filter (fun e => e.members.contains p)).foldl (fun s e => failEpisode e .peerLost s) s1

/-- Operations to packages that are lost already fail at once (R300). -/
def failLost (s : State) : State :=
  ((s.barrow.filter (fun b => Sparse.get 0 s.health b.dst == 2)).map (·.dst)).eraseDups.foldl (fun s p => failEntriesTo p s) s

/-- The same, where there is an operation to a lost package. -/
def failLostAny (s : State) : State := if s.barrow.any (fun b => Sparse.get 0 s.health b.dst == 2) then failLost s else s

/-- PEER_RECOVERING (R408): four joined slots without an accepted header. -/
def execPeerRecovering (p : Nat) (s : State) : Result :=
  if isPeer s p && Sparse.get 0 s.health p == 0 && decide (4 ≤ (getPeer s p).quiet) then
    .next (setHealth p 1 (modPeer p (fun x => { x with byFabric := false, seen := 0 }) s))
  else .next s

/-- Nanoseconds that a package may stay recovering (R407, R408). -/
def recovLimit (s : State) : Nat := (s.recovb.setWidth 24).toNat * 1000000

/-- PEER_LOST (R408): the recovery bound passes. -/
def execPeerLost (p : Nat) (s : State) : Result :=
  if isPeer s p && Sparse.get 0 s.health p == 1 && decide (recovLimit s ≤ (s.time - Sparse.get 0 s.recovAt p).toNat) then .next (markLost p s)
  else .next s

/-- POD_HEALTH_WRITE (R408, log entry 31): the fabric manager's write of an entry. -/
def execPodHealthWrite (p : Nat) (st : BitVec 2) (s : State) : Result :=
  let old := Sparse.get 0 s.health p
  if !isPeer s p then .next s
  else if st = 0 then .next (setHealth p 0 (modPeer p (fun x => { x with byFabric := false, quiet := 0 }) s))
  else if st = 1 && old != 2 then .next (setHealth p 1 (modPeer p (fun x => { x with byFabric := true }) s))
  else if st = 2 && old != 2 then .next (markLost p s)
  else .next s

/-! ### Memory -/

/-- Records a corrected error of a unit, at most once an hour (R394, R409): of a register, 0, of SRAM, 1, of L2, 2, or of HBM, 3. -/
def noteCorrected (unit : Nat) (pa : DWord) (s : State) : State :=
  let same := fun (e : Nat × DWord × DWord) => e.1 == unit && e.2.1 == pa
  if s.eccAt.any (fun e => same e && decide ((s.time - e.2.2).toNat < 3600000000000)) then s
  else dayPackage 0x06 0 0 pa (dw unit) { s with eccAt := s.eccAt.filter (fun e => !same e) ++ [(unit, pa, s.time)] }

/-- HBM_SCRUB (R394, R395, R409): the bursts that the scrub corrects and the poison that it finds are recorded; it creates none. -/
def execHbmScrub (s : State) : Result :=
  .next ((s.poison.filter (fun e => e.2)).foldl (fun s e => dayPackage 0x07 0 0 (dw (64 * e.1)) 0 s)
    ((Config.corrected s.steps).foldl (fun s pa => noteCorrected 3 pa s) { s with scrubAt := s.time }))

/-- The ns until the next scrub of every burst is due (R395). -/
def scrubIn (s : State) : Nat := 86400000000000 - (s.time - s.scrubAt).toNat

/-- HBM_ROW_REPAIR (R414): the units over a row go to other frames, the spare row takes its place, and they come back; their bytes, bits
and poison are what they were, and translations of them are taken anew (R355, R359). -/
def execHbmRowRepair (units : List Nat) (s : State) : Result :=
  if 256 ≤ s.repairs.length then .next (storeFull s)
  else
    let above := fun (c : Nat) => (ctxEntries s c).filter (fun x => x.device && units.any (fun u => rangesMeet u 65536 x.frame (2 ^ levelShift x.level)))
    .next (addRepair (.row units) (dw (units.headD 0))
      (s.ctxs.foldl (fun s e => (above e.1).foldl (fun s x => invalidate e.1 x.va (2 ^ levelShift x.level) s) s) s))

/-! ### Checkpoints: the units -/

/-- The 64 KiB units of an entry (R410, R411). -/
def entryUnits (x : Entry) : List (Nat × Nat) :=
  (List.range (2 ^ levelShift x.level / 65536)).map (fun i => (x.va + 65536 * i, x.frame + 65536 * i))

/-- The steward's record of a paged unit. -/
def pageRec (s : State) (c va : Nat) : Option PageRec := (getCtx s c).pages.find? (fun p => p.va == dw va)

/-- Whether an entry is a unit that is paged out. -/
def pagedEntry (x : Entry) : Bool := !x.e.testBit 0 && x.e.testBit 1

/-- Whether an entry's leaf has D = 1 (R352, R411). -/
def entryDirty (s : State) (c : Nat) (x : Entry) : Bool :=
  if pagedEntry x then (match pageRec s c x.va with | some p => p.leaf.getLsbD 2 | none => false) else x.e.testBit 2

/-- The entries that a round copies (R411). -/
def roundEntries (s : State) (c : Nat) (all : Bool) : List Entry :=
  (ctxEntries s c).filter (fun x => (x.device || pagedEntry x) && (all || entryDirty s c x))

/-- Clears D in an entry's leaf, with an INVAL (R411). -/
def clearDirty (c : Nat) (x : Entry) (s : State) : State :=
  if pagedEntry x then
    let y := getCtx s c
    setCtx c { y with pages := y.pages.map (fun p => if p.va = dw x.va then { p with leaf := p.leaf &&& ~~~4 } else p) } s
  else invalidate c x.va (2 ^ levelShift x.level) (writeBytes 0 (.dev x.at_) 1 (x.e % 256 - (if x.e.testBit 2 then 4 else 0)) s)

/-- The 64-byte header of a tier record (R412): its magic, and the fields that the spec names without laying them out (log entry 33). -/
def tierHead (c : Nat) (epoch : DWord) (va round : Nat) (flag : Bool) : List Byte :=
  bytesLE 4 0x3951434B ++ (List.range 60).map (fun i => Config.tierByte c epoch.toNat va round flag i)

/-- A record waits for an anchor port (R391, R412), the four ports in turn by the record's unit: its header, its bytes, and the poison marks of
each 64 of them (log entry 33). -/
def toTier (c : Nat) (epoch : DWord) (va round : Nat) (paged : Bool) (data : List Byte) (bad : List Bool) (s : State) : State :=
  modPort (32 + va / 65536 % 4) (fun x =>
    { x with tier := x.tier ++ [(tierHead c epoch va round (paged || bad.any id) ++ data, false :: bad)] }) s

/-- The bytes of a paged unit's backing slot, and its side array behind them (R361). -/
def slotBytes (s : State) (slot : Nat) : List Byte := (List.range 66560).map (fun i => readByte s 0 (.host slot) i)

/-- The bytes of a unit's frame, and its side array behind them (R361, R412). -/
def frameBytes (s : State) (frame : Nat) : List Byte := (List.range 65536).map (fun i => readByte s 0 (.dev frame) i) ++ sideArray s frame

/-- The unit records of an entry go to the tier (R412). -/
def sendEntry (c : Nat) (epoch : DWord) (round : Nat) (x : Entry) (s : State) : State :=
  if pagedEntry x then toTier c epoch x.va round true (slotBytes s (x.e / 4096 * 4096)) ((pageRec s c x.va).elim [] (·.poison)) s
  else (entryUnits x).foldl (fun s u => toTier c epoch u.1 round false (frameBytes s u.2) (framePoison s u.2) s) s

/-- One copy round (R411): every present or paged unit, or those with D = 1. -/
def copyRound (c : Nat) (epoch : DWord) (round : Nat) (all : Bool) (s : State) : State :=
  (roundEntries s c all).foldl (fun s x => sendEntry c epoch round x (clearDirty c x s)) s

/-! ### Checkpoints: the steps -/

/-- A day book record of a checkpoint (R409). -/
def dayCheckpoint (c : Nat) (epoch : DWord) (st : MgmtStatus) (s : State) : State :=
  dayRecord { time := s.time, kind := 0x0A, ctx := c, part := 0xFF, core := 0xFF, slot := 0xFF, code := st.code, id := 0, val := epoch,
              aux := dw st.code } s

/-- The end of a checkpoint with a status. -/
def endCkpt (c : Nat) (k : Ckpt) (st : MgmtStatus) (s : State) : State :=
  fillStatus k.status st (dayCheckpoint c k.epoch st (setCtx c { getCtx s c with ckpt := none } s))

/-- Starts the rounds of a checkpoint (R411, step 1). -/
def startRounds (c : Nat) (k : Ckpt) (s : State) : State :=
  let s1 := copyRound c k.epoch 1 k.full s
  setCtx c { getCtx s1 c with ckpt := some { k with phase := .rounds, round := 1 } } s1

/-- Whether the fields of a CKPT are legal (R347, R410). -/
def ckptLegal (m : MgmtPacket) : Bool := mgmtClean m 2 && fieldD m.w1 16 48 == 0 && decide (mgmtByte9 m ≤ 2)

/-- A CKPT of mode 0 or 1 (R410, R411). -/
def startCkpt (full : Bool) (m : MgmtPacket) (s : State) : Result :=
  let c := getCtx s (mgmtCtxOf m)
  if !c.dirtyOn || c.ckpt.isSome then mgmtEnd m .busy s
  else
    let k : Ckpt := { phase := .armed, full := full, epoch := m.w2, start := m.w3, status := mgmtStatusAt m, round := 0, marked := 0 }
    if m.w3.toNat ≤ s.time.toNat then .next (startRounds (mgmtCtxOf m) k s)
    else .next (setCtx (mgmtCtxOf m) { c with ckpt := some k } s)

/-- CKPT_FULL (R410, R411). -/
def execCkptFull (m : MgmtPacket) (s : State) : Result :=
  if mgmtByte9 m = 1 || mgmtByte9 m = 2 then .next s else mgmtCtx 0x8A (ckptLegal m) m (startCkpt true m) s

/-- CKPT_INCREMENTAL (R410, R411). -/
def execCkptIncremental (m : MgmtPacket) (s : State) : Result :=
  if mgmtByte9 m ≠ 1 then .next s else mgmtCtx 0x8A (ckptLegal m) m (startCkpt false m) s

/-- The resident teams of a context. -/
def residentTeams (s : State) (c : Nat) : List (Nat × Team) := s.teams.filter (fun e => e.2.ctx == c && e.2.status == .running)

/-- Marks every resident team of a context, where the save pool holds its areas (R363, R411). -/
def markTeams (c : Nat) (s : State) : State := (residentTeams s c).foldl (fun s e => (markTeam e.1 s).getD s) s

/-- Whether a further round comes before the quiesce (R411, log entry 32): at most 4, the second wherever a unit is dirty, the others
while the dirty units take more than 0.40 s at 1.408 TB/s. -/
def moreRounds (s : State) (c round : Nat) : Bool :=
  let n := ((roundEntries s c false).map (fun x => (entryUnits x).length)).foldl (· + ·) 0
  decide (round < 4) && decide (0 < n) && (round == 1 || decide (563200000000 < n * 66624))

/-- CKPT_QUIESCE (R411, steps 1 and 2): the next round, or the end of the rounds: launches wait and every team is marked; a team that has started
since, or whose save areas the pool could not hold, is marked as soon as it can be. -/
def execCkptQuiesce (c : Nat) (s : State) : Result :=
  match (getCtx s c).ckpt with
  | none => .next s
  | some k =>
    if k.phase == .quiesce then .next (markTeams c s)
    else if k.phase != .rounds then .next s
    else if moreRounds s c k.round then
      let s1 := copyRound c k.epoch (k.round + 1) false s
      .next (setCtx c { getCtx s1 c with ckpt := some { k with round := k.round + 1 } } s1)
    else .next (markTeams c (setCtx c { getCtx s c with ckpt := some { k with phase := .quiesce, marked := s.time } } s))

/-- Whether a team has missed a limit of the quiesce (R411, step 2). -/
def missedLimit (s : State) (marked : DWord) (e : Nat × Team) : Bool :=
  match e.2.saveAt with
  | some t0 => decide (100000 ≤ (s.time - t0).toNat)
  | none => decide (1000000000 ≤ (s.time - marked).toNat)

/-- Drops the pending marks of a team, with the save areas that its unparked groups hold, and restores its parked groups (R364, R411). -/
def unmarkTeam (tid : Nat) (s : State) : State := cancelSave tid s

/-- A team that this quiesce has saved is restored in place, where its cores are still clocked and have room; else it is restored as any saved team
(R365, R411). -/
def restoreInPlace (marked : DWord) (s : State) (e : Nat × Team) : State :=
  let t := e.2
  match t.saveAt with
  | some at_ =>
    if t.status == .saved && decide (marked.toNat ≤ at_.toNat) && (idleCores s t.part t.core t.hdr).isEmpty &&
        fits s t.part t.core t.quarter t.hdr (savedGroups t) then restoreTeam e.1 t.core t.quarter t.hdr s
    else s
  | none => s

/-- CKPT_QUIESCE_TIMEOUT (R411, step 2): a limit is missed; the marks are dropped, teams that have been saved are restored in place, the checkpoint
ends with BUSY, and the context resumes. -/
def execCkptQuiesceTimeout (c : Nat) (s : State) : Result :=
  match (getCtx s c).ckpt with
  | none => .next s
  | some k =>
    if k.phase != .quiesce || !(residentTeams s c).any (missedLimit s k.marked) then .next s
    else
      let s1 := (s.teams.filter (fun e => e.2.ctx == c)).foldl (restoreInPlace k.marked) ((residentTeams s c).foldl (fun s e => unmarkTeam e.1 s) s)
      .next (endCkpt c k .busy s1)

/-- Whether a context is drained (R411, step 3): no resident team, no remote operation unacknowledged, no engine operation. -/
def drained (s : State) (c : Nat) : Bool :=
  (residentTeams s c).isEmpty && !s.barrow.any (fun b => b.rcd.ctx == c) && !s.engines.any (fun x => x.ctx == c)

/-- The 64 KiB units that a context maps in device memory, each with what its leaf holds beside the frame (R352). -/
def unitLeaves (s : State) (c : Nat) : List (Nat × Nat) :=
  ((ctxEntries s c).filter Entry.device).flatMap (fun x =>
    (entryUnits x).map (fun u => (u.1, x.e - bits x.e 8 44 * 256 - (if x.level ≠ 0 then 2 else 0))))

/-- The save areas and save records go to the tier (R411, R412). -/
def sendSaves (c : Nat) (epoch : DWord) (s : State) : State :=
  let y := getCtx s c
  let bytesAt := fun (a : Nat) => (y.areas.find? (fun e => e.1 == a)).elim [] (fun e => (List.range e.2).map (fun i => readByte s 0 (.dev e.1) i))
  let teams := s.teams.filter (fun e => e.2.ctx == c && e.2.status == .saved)
  let kept : Kept := { ctx := c, epoch := epoch, teams := teams, gangs := s.gangs.filter (fun e => e.2.ctx == c), areas := y.areas,
                       bytes := y.areas.map (fun e => (List.range e.2).map (fun i => readByte s 0 (.dev e.1) i)), leaves := unitLeaves s c }
  teams.foldl (fun s e => e.2.saves.foldl (fun s r => toTier c epoch r.area.toNat 0 false (bytesAt r.area.toNat) [] s) s)
    { s with tier := s.tier.filter (fun k => k.ctx != c || k.epoch != epoch) ++ [kept] }

/-- The firmware barrier of a checkpoint as an episode (R298, R411; DESIGN CHOICE, log entry 74): its tokens name context 32 + c, and the
epoch. -/
def meetEpisode (s : State) (c : Nat) (k : Ckpt) : Episode :=
  { ctx := 32 + c, bar := 0, ep := k.epoch.toNat % 2 ^ 19, members := (List.range (podSize s)).filter (reachable s), hash := 0, cover := [],
    sentTo := [], got := (s.tokens.filter (fun t => t.2.ctx == 32 + c && t.2.ep == k.epoch.toNat % 2 ^ 19)).map (·.1) }

/-- The arrival of this package's steward at the firmware barrier (R411, step 3). -/
def arriveMeet (c : Nat) (k : Ckpt) (s : State) : State :=
  let e := meetEpisode s c k
  completeEpisodes { setCtx c { getCtx s c with ckpt := some { k with phase := .meet } } s with
    episodes := s.episodes ++ [e], tokens := s.tokens.filter (fun t => !tokenOf e t.2) }

/-- Whether the stewards of the pod have met (R411, step 3). -/
def haveMet (s : State) (c : Nat) : Bool := !s.episodes.any (fun e => e.ctx == 32 + c && !episodeDone s e)

/-- The final copy, the save areas, and the resumption of the teams (R411, steps 4 and 5). -/
def lastCopy (c : Nat) (k : Ckpt) (s : State) : State :=
  endCkpt c k .ok (sendSaves c k.epoch (copyRound c k.epoch (k.round + 1) false s))

/-- CKPT_DRAIN_COMPLETE (R411, steps 3 to 5): once the context is drained its steward meets those of the pod; once they have met, the rest
follows. -/
def execCkptDrainComplete (c : Nat) (s : State) : Result :=
  match (getCtx s c).ckpt with
  | none => .next s
  | some k =>
    if (k.phase != .quiesce && k.phase != .meet) || !drained s c then .next s
    else
      let s1 := if k.phase == .quiesce then arriveMeet c k s else s
      .next (if haveMet s1 c then lastCopy c k s1 else s1)

/-! ### Restore -/

/-- The index of an address in a table of a level (R351). -/
def tableIndex (level va : Nat) : Nat := va / 2 ^ levelShift level % 2 ^ levelBits level

/-- Where the leaf of a 64 KiB unit stands below a table; a table that is missing on the way is laid, empty, in what the steward reserves for the
context (R351, R352, R412; log entries 26 and 33). -/
def leafPlace (c va : Nat) : Nat → Nat → State → Nat × State
  | 0, table, s => (table + 8 * tableIndex 0 va, s)
  | level + 1, table, s =>
    let at_ := table + 8 * tableIndex (level + 1) va
    let e := readBytes s 0 (.dev at_) 8
    if e.testBit 0 then leafPlace c va level (bits e 8 44 * 256) s
    else
      let y := getCtx s c
      let size := 8 * 2 ^ levelBits level
      let base := reserveBase s c + 2 ^ 26 + 2 ^ 25
      let new := (base + y.tables + size - 1) / size * size
      leafPlace c va level new (writeBytes 0 (.dev at_) 8 (31 * 2 ^ 55 + new + 1)
        (writeList 0 (.dev new) (List.replicate size 0) (setCtx c { y with tables := new + size - base } s)))

/-- The leaf of a unit of a restore is written anew, to the frame that it has or to a free one (R412). -/
def rewriteLeaf (c va : Nat) (kept : List (Nat × Nat)) (s : State) : Option (Nat × State) :=
  let s1 := splitUnit c va s
  match leafEntry s1 c va, kept.find? (fun e => e.1 == va) with
  | some x, some k => some (x.frame, writeBytes 0 (.dev x.at_) 8 (k.2 + x.frame) s1)
  | some x, none => some (x.frame, s1)
  | none, some k => match freeFrame s1 with
    | some f =>
      let r := leafPlace c va 3 (getCtx s1 c).root s1
      some (f, writeBytes 0 (.dev r.1) 8 (k.2 + f) r.2)
    | none => none
  | none, none => none

/-- A unit that the tier returns goes back to its backing slot where it is paged out; else its leaf is rewritten, its frame written, and what was
translated dropped (R355, R412, log entry 33). -/
def restoreUnit (c : Nat) (kept : List (Nat × Nat)) (u : Nat × List Byte × List Byte × List Bool) (s : State) : State :=
  match (ctxEntries s c).find? (fun x => x.va == u.1 && pagedEntry x) with
  | some x =>
    let y := getCtx s c
    writeList 0 (.host (x.e / 4096 * 4096)) (u.2.1 ++ u.2.2.1)
      (setCtx c { y with pages := y.pages.map (fun p => if p.va = dw x.va then { p with poison := u.2.2.2 } else p) } s)
  | none => match rewriteLeaf c u.1 kept s with
    | some (f, s1) => invalidate c u.1 65536 (loadFrame f u.2.1 u.2.2.1 u.2.2.2 s1)
    | none => s

/-- What the tier holds beside the units of an epoch of a context. -/
def keptOf (s : State) (c : Nat) (epoch : DWord) : Option Kept := s.tier.find? (fun k => k.ctx == c && k.epoch == epoch)

/-- The saved teams that the tier holds come back, with their gangs and their save areas (R365, R412). -/
def restoreKept (c : Nat) (epoch : DWord) (s : State) : State :=
  match keptOf s c epoch with
  | none => s
  | some k =>
    let s1 := setCtx c { getCtx s c with areas := k.areas } s
    let s2 := (k.areas.zip k.bytes).foldl (fun s e => writeList 0 (.dev e.1.1) e.2 s) s1
    let s3 := k.gangs.foldl (fun s e => setGang e.1 e.2 s) s2
    k.teams.foldl (fun s e => setTeam e.1 e.2 s) s3

/-- The restore of an epoch (R412). -/
def restoreEpoch (c : Nat) (epoch : DWord) (units : List (Nat × List Byte × List Byte × List Bool)) (s : State) : State :=
  restoreKept c epoch (units.foldl (fun s u => restoreUnit c ((keptOf s c epoch).elim [] (·.leaves)) u s) s)

/-- CKPT_RESTORE (R410, R412): at its start time, of a context with no resident team. -/
def execCkptRestore (m : MgmtPacket) (units : List (Nat × List Byte × List Byte × List Bool)) (s : State) : Result :=
  if mgmtByte9 m ≠ 2 then .next s
  else if mgmtKind m = 0x8A && s.fw.running && mgmtOpen s then .next { s with mgmtHeld := s.mgmtHeld ++ [.ckptRestore m units] }
  else mgmtCtx 0x8A (ckptLegal m) m (fun s =>
    let c := mgmtCtxOf m
    let y := getCtx s c
    if !y.dirtyOn || y.ckpt.isSome || !(residentTeams s c).isEmpty then mgmtEnd m .busy s
    else if s.time.toNat < m.w3.toNat then
      .next (setCtx c { y with ckpt := some { phase := .armed, full := false, epoch := m.w2, start := m.w3, status := mgmtStatusAt m, round := 0,
                                              marked := 0, units := some units } } s)
    else mgmtEnd m .ok (dayCheckpoint c m.w2 .ok (restoreEpoch c m.w2 units s))) s

/-- CHECKPOINT_START (R410): the start time is reached. -/
def execCheckpointStart (c : Nat) (s : State) : Result :=
  match (getCtx s c).ckpt with
  | none => .next s
  | some k =>
    if k.phase != .armed || decide (s.time.toNat < k.start.toNat) then .next s
    else match k.units with
      | none => .next (startRounds c k s)
      | some units =>
        if (residentTeams s c).isEmpty then .next (endCkpt c k .ok (restoreEpoch c k.epoch units s)) else .next (endCkpt c k .busy s)

end Sys2Proof.Machine
end

