-- ==== Sys2Proof/Machine/Ecc.lean ====
section
/-! DEFINITION. The errors that the protected stores meet by themselves (R394, R395, R409; log entry 99): what is corrected is recorded, a clean line
of an L1 goes, and what cannot be corrected becomes poison. -/

namespace Sys2Proof.Machine

/-- The corrected errors of a step are recorded (R394, R409). -/
def noteErrors (s : State) : State :=
  ((Config.correctedIn s.steps).filter (fun e => decide (e.1 < 4))).foldl (fun s e => noteCorrected e.1 e.2 s) s

/-- The register values of a group that an uncorrectable error poisons (R395): of the lanes and the registers that it has. -/
def hardRegs (n : Nat) (g : Group) : Sparse Mask :=
  (Config.hardValues n g.id).foldl (fun m e =>
    if e.1 < g.hdr.n then Sparse.set 0 m e.1 (Sparse.get 0 m e.1 ||| (e.2 &&& fullMask (width g))) else m) g.rpoison

/-- A group after the errors of a step. -/
def hardGroup (n : Nat) (g : Group) : Group := { g with rpoison := if g.live then hardRegs n g else g.rpoison }

/-- The words of a team's scratchpad that an uncorrectable error poisons (R395), its shelves among them. -/
def hardScratch (n : Nat) (t : Team) (follower : Bool) (c : Scratch) : Scratch :=
  { c with poison := (Config.hardWords n t.id follower).foldl (fun p w => if 8 * w < allocBytes t.hdr then Sparse.set false p w true else p) c.poison }

/-- A team after the errors of a step: its scratchpad, and the words of its tiles (R395). -/
def hardTeam (n : Nat) (t : Team) : Team :=
  { t with
    scrL := hardScratch n t false t.scrL, scrF := hardScratch n t true t.scrF,
    tpoison := (Config.hardTiles n t.id).foldl (fun p w => if w < t.hdr.tiles * 2 ^ 16 then Sparse.set false p (w / 2 * 2) true else p) t.tpoison }

/-- A core after the errors of a step: a clean line of its L1 that cannot be corrected is taken from L2 anew (R394). -/
def hardCore (n k : Nat) (c : Core) : Core := keepLines (fun line x => x.dirty || !Config.lineFails n k line) c

/-- The units of device memory that an uncorrectable error poisons (R395), in HBM, in L2 or in a dirty line. -/
def hardUnits (s : State) : Sparse Bool :=
  (Config.hardBursts s.steps).foldl (fun p u => if 64 * u < deviceBytes s then Sparse.set false p u true else p) s.poison

/-- The errors that the stores meet in a step (R394, R395; log entry 99), each part of the state by itself. -/
def meetErrors (s : State) : State :=
  { s with
    cur := hardGroup s.steps s.cur, others := s.others.map (hardGroup s.steps), teams := s.teams.map (fun e => (e.1, hardTeam s.steps e.2)),
    cores := s.cores.map (fun e => (e.1, hardCore s.steps e.1 e.2)), poison := hardUnits s,
    daybook := (noteErrors s).daybook, dayIdx := (noteErrors s).dayIdx, eccAt := (noteErrors s).eccAt }

end Sys2Proof.Machine
end

