-- ==== Sys2Proof/Machine/HostLink.lean ====
section
/-! DEFINITION. The host link: reads, writes, fills and AtomicOps through BAR2, the registers in BAR0, device registers, and COMMIT (R13,
R14, R280, R324, R336, R369 to R371, R386, R409, R417, R423, R429, R433). -/

namespace Sys2Proof.Machine

/-! ### BAR2 -/

/-- The pieces of a range of offsets within 64 KiB each; fuel bounds their number. -/
def hostPieces : Nat → Nat → Nat → List (Nat × Nat)
  | 0, _, _ => []
  | k + 1, off, n => if n = 0 then [] else
      let m := min n (65536 - off % 65536)
      (off, m) :: hostPieces k (off + m) (n - m)

/-- Holds a host access at an absent page, with its report (R356, R369). -/
def holdHost (i : Instr) (c va : Nat) (k : AccKind) (paged : Bool) (s : State) : State :=
  reportFault c va k 3 0 paged { s with hostHeld := s.hostHeld ++ [(c, va, i)] }

/-- The most bytes of a host request (R368). -/
def hostMax : Nat := 4096

/-- HOST_PLAIN_WRITE (R280, R369): a relaxed write; one that leads nowhere is dropped and logged. -/
def hostWrite (i : Instr) (fn : HostFn) (off : Nat) (bytes : List Byte) (s : State) : Result :=
  match hostPlaces fn .wr (hostPieces (hostMax / 8) off bytes.length) s with
  | (.none, s1) => .next (emit (.aerDrop off) s1)
  | (.absent c va p, s1) => .next (holdHost i c va .wr p s1)
  | (.all l, s1) => .next (l.foldl (fun s x => writeList 0 x.2.2.2.2 ((bytes.drop (x.1 - off)).take x.2.1) s) s1)

/-- One word of a write through a fill alias (R324, R370, R433); at a poisoned word the fill does not take place (R396). -/
def hostFill (c : Option Nat) (va pa : Nat) (v : DWord) (s : State) : State :=
  let hold := { s with fills := s.fills ++ [{ ctx := c, va := dw va, pa := pa, val := v, since := s.time }] }
  if isPoisoned s 0 (.dev pa) 8 then s else
  match c with
  | some c => match feAttempt .stfl c 0 va (.dev pa) v s with
    | some (_, s1) => s1
    | none => hold
  | none => if readFe s 0 (.dev pa) then hold else writeFe 0 (.dev pa) true (writeBytes 0 (.dev pa) 8 v.toNat s)

/-- The words of a write through a fill alias, each at its place; one in host memory has no full/empty bit, and is dropped (R164). -/
def hostFillAll (off : Nat) (bytes : List Byte) : List (Nat × Nat × Option Nat × Nat × Loc) → State → State
  | [], s => s
  | (o, _, c, va, loc) :: l, s =>
    let v := dw (natLE ((bytes.drop (o - off)).take 8))
    hostFillAll off bytes l (match loc with
      | .dev pa => hostFill c va pa v s
      | _ => emit (.aerDrop o) s)

/-- Where the last write or fill that is held at an absent page is held: a later fill comes after it (R280). -/
def heldWrite (s : State) : Option (Nat × Nat) :=
  (s.hostHeld.reverse.find? (fun h => match h.2.2 with | .hostPlainWrite .. | .hostFillWrite .. => true | _ => false)).map (fun h => (h.1, h.2.1))

/-- HOST_FILL_WRITE (R280, R370): a fill of each whole aligned word, after the host's earlier writes; other bytes are discarded and
logged. -/
def hostFillsOf (i : Instr) (fn : HostFn) (off : Nat) (bytes : List Byte) (s : State) : Result :=
  match heldWrite s with
  | some (c, va) => .next { s with hostHeld := s.hostHeld ++ [(c, va, i)] }
  | none =>
  let words := fillWords off bytes.length
  let s0 := if words.length * 8 = bytes.length then s else emit (.aerDrop off) s
  match fillPlaces fn off bytes s0 with
  | (.none, s1) => .next (emit (.aerDrop off) s1)
  | (.absent c va p, s1) => .next (holdHost i c va .feWrite p s1)
  | (.all l, s1) => .next (hostFillAll off bytes l s1)

/-- HOST_ATOMICOP (R370): through the plain alias, one indivisible step that leaves the full/empty bit; through the fill alias it is
unsupported. -/
def hostAtomic (i : Instr) (fn : HostFn) (fill : Bool) (op : HostAtom) (z off : Nat) (val cmp : DWord) (s : State) : Result :=
  if fill || !(z == 4 || z == 8) || off % z != 0 then .next (emit (.unsupported off) s)
  else match hostPlace fn off z .at s with
    | (.none, s1) => .next (emit (.unsupported off) s1)
    | (.absent c va p, s1) => .next (holdHost i c va .at p s1)
    | (.at _ _ loc, s1) =>
      if loc.isHost || isPoisoned s1 0 loc z then .next (emit (.unsupported off) s1)
      else
        let m := readBytes s1 0 loc z
        let v := match op with
          | .fetchAdd => (m + val.toNat) % 2 ^ (8 * z)
          | .swap => val.toNat % 2 ^ (8 * z)
          | .cas => if m = cmp.toNat % 2 ^ (8 * z) then val.toNat % 2 ^ (8 * z) else m
        .next (emit (.hostData off (bytesLE z m)) (writeBytes 0 loc z v s1))

/-! ### BAR0 -/

/-- A list's bytes at a ring of records: record k of a ring of n holds the last one written there. -/
def ringByte {α : Type} (l : List α) (index n size : Nat) (bytes : α → List Byte) (off : Nat) : Byte :=
  let slot := off / size % n
  let back := (index + n - 1 - slot) % n
  if back < l.length && back < index then match l[l.length - 1 - back]? with
    | some r => (bytes r).getD (off % size) 0
    | none => 0
  else 0

/-- A fault record's bytes (R356). -/
def faultBytes (f : FaultRec) : List Byte :=
  bytesLE 8 f.va.toNat ++ bytesLE 4 f.id ++ bytesLE 1 f.kind ++ bytesLE 1 f.src ++ bytesLE 2 f.pkg ++ bytesLE 8 f.time.toNat ++ bytesLE 8 0

/-- A link event record's bytes (R390). -/
def eventBytes (e : LinkEvent) : List Byte :=
  bytesLE 8 e.time.toNat ++ bytesLE 8 (linkEventHead e).toNat ++ bytesLE 8 e.place.toNat ++ bytesLE 2 e.first ++ bytesLE 2 e.lost ++
  bytesLE 2 e.rstr ++ bytesLE 2 e.ports.toNat ++ bytesLE 2 e.power.toNat ++ bytesLE 30 0

/-- A day book record's bytes (R409). -/
def dayBytes (r : DayRecord) : List Byte :=
  bytesLE 8 r.time.toNat ++ bytesLE 1 r.kind ++ bytesLE 1 r.ctx ++ bytesLE 1 r.part ++ bytesLE 1 r.core ++ bytesLE 1 r.slot ++
  bytesLE 1 r.code ++ bytesLE 2 r.id ++ bytesLE 8 r.val.toNat ++ bytesLE 8 r.aux.toNat

/-- An entry of the pod health table as it reads (R408). -/
def healthByte (s : State) (p : Nat) : Byte :=
  if podSize s ≤ p then 3 else if p = pkgId s then 0 else (Sparse.get 0 s.health p).setWidth 8

/-- Word 0x00 of the time-discipline block (R417). -/
def timeWord (s : State) : Word :=
  let t := s.tbase
  wd (boolNat t.join * 2 ^ 17 + boolNat t.inrota * 2 ^ 16 + t.losses.toNat * 2 ^ 8 + t.st.toNat)

/-- HOLDNS: the holdover that remains (R417, R419). -/
def holdNs (s : State) : Nat := if s.tbase.st = 3 then 4000000 - (s.time - s.tbase.holdAt).toNat else 0

/-- The registers of the time-discipline block and the power block, with their offsets in BAR0 (R417, R423). -/
def blockWords (s : State) : List (Nat × Nat × Nat) :=
  let t := s.tbase
  [(0x600000, 4, (timeWord s).toNat), (0x600004, 4, t.refdly.toNat), (0x600008, 4, t.terr.toNat), (0x60000C, 4, holdNs s),
   (0x600010, 8, t.origin.toNat), (0x610000, 4, s.power.plim.toNat), (0x610004, 4, s.power.pnow.toNat),
   (0x610008, 4, s.power.tmax.toNat * 2 ^ 8 + s.power.capped.toNat), (0x40, 8, s.mgmtRec.toNat), (0x48, 8, s.apbase.toNat),
   (0x2FFF00, 8, s.eventIdx), (0x4FFF08, 8, s.dayIdx)] ++
  (List.range 32).map (fun c => (0xFF0000 + 8 * c, 8, (getCtx s c).faultIdx))

/-- The word of the recovery image's window at an offset of BAR0 (R428). -/
def windowWord (off : Nat) : Nat := (off - 0x2000000) / 8

/-- Whether an offset of BAR0 lies in the recovery image's window (R428). -/
def inWindow (off : Nat) : Bool := decide (0x2000000 ≤ off) && decide (off < 0x4000000)

/-- A byte of the physical function's BAR0 (R347, R356, R369, R386, R389, R390, R408, R409, R417, R423, R428); an offset with no register
reads 0. -/
def bar0Byte (s : State) (off : Nat) : Byte :=
  if 0x200000 ≤ off && off < 0x220000 then (linkWord s ((off - 0x200000) / 4 * 4)).extractLsb' (8 * (off % 4)) 8
  else if 0x300000 ≤ off && off < 0x310000 then ringByte s.events s.eventIdx 1024 64 eventBytes (off - 0x300000)
  else if 0x400000 ≤ off && off < 0x400400 then healthByte s (off - 0x400000)
  else if 0x500000 ≤ off && off < 0x520000 then ringByte s.daybook s.dayIdx 4096 32 dayBytes (off - 0x500000)
  else if 0x1000000 ≤ off && off < 0x1400000 then
    let c := getCtx s ((off - 0x1000000) / 0x20000)
    ringByte c.ring c.faultIdx 4096 32 faultBytes ((off - 0x1000000) % 0x20000)
  else if inWindow off then (Sparse.get 0 s.fw.window (windowWord off)).extractLsb' (8 * (off % 8)) 8
  else match (blockWords s).find? (fun r => decide (r.1 ≤ off) && decide (off < r.1 + r.2.1)) with
    | some r => BitVec.ofNat 8 (r.2.2 / 256 ^ (off - r.1))
    | none => 0

/-- HOST_READ (R280, R369, R370): a relaxed read; one that leads nowhere completes as Unsupported Request; so does one of a virtual function that a
package without an accepted image does not enumerate (R428). -/
def hostReadOf (i : Instr) (fn : HostFn) (bar0 : Bool) (off n : Nat) (s : State) : Result :=
  if bar0 then match fn with
    | .physical => .next (emit (.hostData off ((List.range n).map (fun k => bar0Byte s (off + k)))) s)
    | .virtual c => .next (if s.fw.running then emit (.hostData off ((List.range n).map (fun k => Config.vfByte c (off + k) s.steps))) s
        else emit (.unsupported off) s)
  else match hostPlaces fn .rd (hostPieces (hostMax / 8) off n) s with
    | (.none, s1) => .next (emit (.unsupported off) s1)
    | (.absent c va p, s1) => .next (holdHost i c va .rd p s1)
    | (.all l, s1) =>
      .next (emit (.hostData off (l.flatMap (fun x => (List.range x.2.1).map (fun k => readByte s1 0 x.2.2.2.2 k)))) s1)

/-! ### The events -/

/-- HOST_PLAIN_WRITE (R280, R369). -/
def execHostPlainWrite (fn : HostFn) (off : Nat) (bytes : List Byte) (s : State) : Result :=
  hostWrite (.hostPlainWrite fn off bytes) fn off bytes s

/-- HOST_FILL_WRITE (R324, R370, R433). -/
def execHostFillWrite (fn : HostFn) (off : Nat) (bytes : List Byte) (s : State) : Result :=
  hostFillsOf (.hostFillWrite fn off bytes) fn off bytes s

/-- HOST_READ (R369). -/
def execHostRead (fn : HostFn) (bar0 : Bool) (off n : Nat) (s : State) : Result := hostReadOf (.hostRead fn bar0 off n) fn bar0 off n s

/-- HOST_ATOMICOP (R370). -/
def execHostAtomicop (fn : HostFn) (fillAlias : Bool) (op : HostAtom) (z off : Nat) (val cmp : DWord) (s : State) : Result :=
  hostAtomic (.hostAtomicop fn fillAlias op z off val cmp) fn fillAlias op z off val cmp s

/-! ### Device registers -/

/-- A steward's write of a system register (R13, R14, R63, R292, R336, R407); the reserved bits are ignored. -/
def stewardWrite (n : Nat) (v : DWord) (s : State) : State :=
  let ramp := BitVec.ofNat 8 (min 92 (max 1 (fieldD v 0 8)))
  if n = 0x43 then { s with relayq := v.setWidth 16 }
  else if n = 0x8010 then { s with rampUp := ramp }
  else if n = 0x8011 then { s with rampDn := ramp }
  else if n = 0x8020 then { s with recovb := wd (max 1 (fieldD v 24 8) * 2 ^ 24 + max 1 (fieldD v 0 24)) }
  else if 0x8100 ≤ n && n ≤ 0x8107 then { s with fwin := Sparse.set 0 s.fwin (n - 0x8100) (v &&& 0x800FFFFFFFFFF000) }
  else if 0x8108 ≤ n && n ≤ 0x810F then { s with fwin := Sparse.set 0 s.fwin (n - 0x8100) (v &&& 0x000FFFFFFFFFF000) }
  else if 0x8110 ≤ n && n ≤ 0x8117 then { s with fwin := Sparse.set 0 s.fwin (n - 0x8100) (v &&& 0x000FFFFFFFFFFC00) }
  else s

/-! ### Format windows -/

/-- A tensor header record (R61). -/
structure TensorHeader where
  format : Nat
  flags  : Nat
  rows   : Nat
  cols   : Nat
  pitch  : Nat
  data   : DWord
  scales : DWord
  tsize  : Nat
  deriving DecidableEq, Repr

/-- The fields of a record's bytes (R61). -/
def tensorOf (bs : List Byte) : TensorHeader :=
  { format := fieldAt bs 5 1, flags := fieldAt bs 6 2, rows := fieldAt bs 8 4, cols := fieldAt bs 0x0C 4, pitch := fieldAt bs 0x10 8,
    data := dw (fieldAt bs 0x18 8), scales := dw (fieldAt bs 0x20 8), tsize := fieldAt bs 0x38 1 }

/-- The bytes that a row of a format and a number of columns needs (R60, R61). -/
def rowBytes (format cols : Nat) : Nat :=
  if format = 8 then 8 * cols else if format = 0 then 4 * cols else if format ≤ 2 then 2 * cols
  else if format = 7 then 4 * ((cols + 7) / 8) else cols

/-- Whether a tensor header record stands (R62). -/
def tensorLegal (bs : List Byte) : Bool :=
  let t := tensorOf bs
  fieldAt bs 0 4 == 0x39515448 && fieldAt bs 4 1 == 1 && decide (t.format ≤ 8) && decide (t.flags < 4) && zeroAt bs 0x39 7 &&
  (t.tsize == 0 || t.tsize == 8 || t.tsize == 16 || t.tsize == 32) && !(t.flags.testBit 1 && t.tsize == 0) &&
  decide (rowBytes t.format t.cols ≤ t.pitch) && !(t.format == 7 && (t.pitch % 4 != 0 || t.scales == 0))

/-- The physical address of device memory at an address of a context. -/
def devicePa (s : State) (c : Nat) (a : DWord) : Option Nat :=
  match frontPlace s c a .rd with
  | .ok (_, .dev pa) => some pa
  | _ => none

/-- The three registers of a format window (R63). -/
def setWindow (n : Nat) (base limit scale : DWord) (s : State) : State :=
  { s with fwin := Sparse.set 0 (Sparse.set 0 (Sparse.set 0 s.fwin n base) (8 + n) limit) (16 + n) scale }

/-- The format-window service (R61 to R63, log entry 88): a record that stands, of block-scaled data in device memory, gets the window from
its first page to its last; of any other format none is needed, and none is set where the data or the scales do not translate to device memory (DESIGN
CHOICE, log entry 88). A record that does not stand is rejected. -/
def serveWindow (n c : Nat) (rcd : DWord) (s : State) : State :=
  match frontBytes s c rcd 64 with
  | .ok bs =>
    let t := tensorOf bs
    if rcd.toNat % 64 ≠ 0 || !tensorLegal bs then emit (.badTensorHeader c rcd) s
    else if t.format ≠ 7 then s
    else match devicePa s c t.data, devicePa s c t.scales with
      | some d, some k =>
        setWindow n (0x8000000000000000 ||| (dw d &&& 0x000FFFFFFFFFF000))
          (dw (d + (t.rows - 1) * t.pitch + rowBytes 7 t.cols - 1) &&& 0x000FFFFFFFFFF000) (dw k &&& 0x000FFFFFFFFFFC00) s
      | _, _ => s
  | _ => emit (.badTensorHeader c rcd) s

/-- The highest power limit of the ordering code (R424). -/
def plimMax (s : State) : Nat := if s.code = 0 then 4000 else if s.code = 1 then 4200 else 4060

/-- A write of a register in BAR0 (R13, R347, R369, R386, R417, R423); of the management record's address, with which the steward registers the
queue (R347); or of 8 bytes of the window for a recovery image, while no image runs (R428). -/
def bar0Write (steward : Bool) (off : Nat) (v : DWord) (s : State) : State :=
  if off = 0x48 then { s with apbase := v &&& ~~~(0x3FFFFFFF : DWord) }
  else if off = 0x40 && steward then registerMgmt v { s with mgmtRec := v }
  else if inWindow off then
    (if s.fw.running || off % 8 != 0 then s else { s with fw := { s.fw with window := Sparse.set 0 s.fw.window (windowWord off) v } })
  else if off = 0x600004 && steward then { s with tbase := { s.tbase with refdly := v.setWidth 24 } }
  else if off = 0x600010 && steward then (if s.tbase.inrota then s else { s with tbase := { s.tbase with origin := v } })
  else if off = 0x610000 then { s with power := { s.power with plim := BitVec.ofNat 16 (min (plimMax s) (max 2000 (fieldD v 0 16))) } }
  else if 0x200000 ≤ off && off < 0x220000 then linkWrite (off - 0x200000) (v.setWidth 32) s
  else s

/-- REGISTER_WRITE (R13): by the steward, or by another agent, for which a register that only the steward writes is read-only. -/
def execRegisterWrite (steward : Bool) (r : RegTarget) (v : DWord) (s : State) : Result :=
  match r with
  | .sr n => .next (if steward then stewardWrite n.toNat v s else s)
  | .bar0 off => .next (bar0Write steward off v s)
  | .window n c rcd => .next (if steward && s.fw.running && decide (n < 8) then serveWindow n c rcd s else s)
  | .resize fn lg => .next (if 30 ≤ lg && lg ≤ 40 then { s with bars := Sparse.set 0 s.bars (bar2Key fn) lg } else s)

/-! ### Images -/

/-- Bytes of an image's header (R427). -/
def imagePart (i : FwImage) (off n : Nat) : List Byte :=
  let l := (i.header.drop off).take n
  l ++ List.replicate (n - l.length) 0

/-- A little-endian number of an image's header (R427). -/
def imageField (i : FwImage) (off n : Nat) : Nat := natLE (imagePart i off n)

/-- The security version (R427). -/
def imageSecver (i : FwImage) : Nat := imageField i 0x08 4

/-- The flags (R427). -/
def imageFlags (i : FwImage) : Nat := imageField i 0x0C 4

/-! ### COMMIT -/

/-- COMMIT (R347, R429): the rollback counter advances to the running image's secver where its flags bit 0 is set. -/
def execCommit (m : MgmtPacket) (s : State) : Result :=
  mgmt 0x8B m (fun s =>
    if fieldD m.w0 8 8 ≠ 0 || m.w1 != 0 || !mgmtClean m 0 then mgmtEnd m .badCommand s
    else mgmtEnd m .ok (match s.fw.image with
      | some i => if (imageFlags i).testBit 0 then { s with fw := { s.fw with counter := max s.fw.counter (imageSecver i) } } else s
      | none => s)) s

end Sys2Proof.Machine
end

