-- ==== Sys2Proof/Machine/TimeBase.lean ====
section
/-! DEFINITION. The time base: markers, lock, holdover, and joining and leaving the rota (R415 to R420). -/

namespace Sys2Proof.Machine

/-- Changes the time base. -/
def modTime (f : TimeBase → TimeBase) (s : State) : State := { s with tbase := f s.tbase }

/-- A change of the time base's state, with its day book record (R416, R419). -/
def setTimeState (st : BitVec 2) (s : State) : State :=
  if s.tbase.st = st then s
  else
    let s1 := modTime (fun t => { t with st := st, accepted := 0 }) s
    dayPackage 0x09 0 0 (zext (timeWord s1)) 0 s1

/-- The package leaves the rota at the next slot boundary (R416, R417, R419). -/
def leaveNext (s : State) : State :=
  if s.tbase.inrota && s.tbase.leaving.isNone then modTime (fun t => { t with leaving := some (absSlot s) }) s else s

/-- The loss of the reference (R419): LOCKED becomes HOLD. -/
def loseReference (s : State) : State :=
  if s.tbase.st = 2 then setTimeState 3 (modTime (fun t => { t with losses := t.losses + 1, holdAt := s.time, ignored := 0 }) s) else s

/-- REFERENCE_ACQUIRE (R416): reference edges in FREE. -/
def execReferenceAcquire (s : State) : Result := .next (if s.tbase.st = 0 then setTimeState 1 s else s)

/-- REFERENCE_LOSS (R419): four consecutive edges are missing. -/
def execReferenceLoss (s : State) : Result := .next (loseReference (modTime (fun t => { t with accepted := 0, marker := none }) s))

/-- The reference time of a marker's edge at this package (R416, R417). -/
def refTime (s : State) (carried : DWord) : Nat := min (2 ^ 64 - 1) (carried.toNat + s.tbase.refdly.toNat / 100)

/-- The ns to the next point of the calendar: the fixing of headers, or the start of a slot (R285). -/
def nextPoint (s : State) : Nat :=
  let m := (s.time - s.tbase.origin).toNat % 512
  if m < 448 then 448 - m else 512 - m

/-- A marker reaches a package that is locked and in the rota (R416; log entry 3): T equals the reference time but for the error that is still being
slewed away, so that much time has passed; no point of the calendar is passed by. -/
def followTime (carried : DWord) (s : State) : State :=
  let at_ := ((refTime s carried : Int) + s.tbase.err).toNat
  { s with time := dw (max s.time.toNat (min at_ (min (2 ^ 64 - 1) (s.time.toNat + nextPoint s)))) }

/-- The slew of an error in the rota: 1 ns in 100 µs (R416). -/
def slewTime (ns : Nat) (t : TimeBase) : TimeBase :=
  let k : Int := ((t.slew + ns) / 100000 : Nat)
  let e := if 0 ≤ t.err then max 0 (t.err - k) else min 0 (t.err + k)
  { t with err := e, slew := if e = 0 then 0 else (t.slew + ns) % 100000 }

/-- Outside the rota a time counter that is behind steps forward to the reference, and one that is ahead runs at half rate until the two are
equal (R416). -/
def stepTime (carried : DWord) (s : State) : State :=
  if s.tbase.inrota then followTime carried s
  else if s.time.toNat < refTime s carried then { modTime (fun t => { t with ahead := 0 }) s with time := dw (refTime s carried) }
  else modTime (fun t => { t with ahead := s.time.toNat - refTime s carried }) s

/-- Lock is gained (R416, R420): inside the rota the error is slewed away, and one of more than 8 ns makes the package leave the rota; outside it the
time counter steps or runs at half rate, and a package that is to join counts its 10 ms from here. -/
def gainLock (carried : DWord) (s : State) : State :=
  let e : Int := s.time.toNat - refTime s carried
  let s1 := setTimeState 2 s
  if s.tbase.inrota then
    let s2 := modTime (fun t => { t with err := e, slew := 0 }) s1
    if decide (e ≤ 8) && decide (-8 ≤ e) then s2 else leaveNext s2
  else
    let s2 := stepTime carried s1
    modTime (fun t => { t with joinAt := if t.join then s2.time else t.joinAt }) s2

/-- An accepted marker (R416). -/
def acceptMarker (carried : DWord) (err : BitVec 16) (s : State) : State :=
  let small := decide (err.toInt < 20) && decide (-20 < err.toInt)
  let n := if small then s.tbase.accepted + 1 else 0
  let s1 := modTime (fun t => { t with terr := err, ignored := 0, accepted := n, marker := some carried }) s
  if s.tbase.st = 2 then stepTime carried s1
  else if decide (2 ≤ n) && (s.tbase.st == 1 || s.tbase.st == 3) then gainLock carried s1
  else s1

/-- A holdover whose time has run out ends (R419). -/
def expireHold (s : State) : State := if s.tbase.st = 3 && holdNs s = 0 then leaveNext (setTimeState 0 s) else s

/-- REFERENCE_MARKER (R415, R416): a marker is accepted where its duty pattern is whole and it follows the one before; two ignored in
a row are a loss of the reference; a holdover that has run out has ended before it. -/
def execReferenceMarker (carried : DWord) (err : BitVec 16) (good : Bool) (s0 : State) : Result :=
  let s := expireHold s0
  let follows := match s.tbase.marker with | some m => carried == m + 81920 | none => true
  if s.tbase.st = 0 then .next s
  else if good && follows then .next (acceptMarker carried err s)
  else
    let s1 := modTime (fun t => { t with ignored := t.ignored + 1, accepted := 0, marker := if good then some carried else t.marker.map (· + 81920) }) s
    .next (if 2 ≤ s1.tbase.ignored then loseReference s1 else s1)

/-- HOLDOVER_EXPIRY (R419): HOLDNS reaches 0. -/
def execHoldoverExpiry (s : State) : Result := .next (expireHold s)

/-- ROTA_JOIN_WRITE (R417, R420); a package that is leaving leaves first. -/
def execRotaJoinWrite (join : Bool) (s : State) : Result :=
  if join then .next (if s.tbase.join then s else modTime (fun t => { t with join := true, joinAt := s.time }) s)
  else .next (leaveNext (modTime (fun t => { t with join := false }) s))

/-- The start of the cycle in which time stands (R283). -/
def cycleStart (s : State) : Nat :=
  s.tbase.origin.toNat + (s.time - s.tbase.origin).toNat / (512 * slotsPerCycle s) * (512 * slotsPerCycle s)

/-- What is kept for a peer as the package enters the rota: SEQ goes on, but for a peer that is marked lost (R420, log entry 35). -/
def enterPeer (s : State) (e : Nat × Peer) : Nat × Peer :=
  if Sparse.get 0 s.health e.1 == 2 then (e.1, Peer.start) else (e.1, { e.2 with heard := true, quiet := 0, seen := 0 })

/-- The fibre delays to the packages of the pod, as calibration measures them (R379, R420). -/
def calibrate (s : State) : List Nat := (List.range (podSize s)).map (fun q => if q = pkgId s then 0 else Config.fibreDelay (peerPort s q) q)

/-- Reports the pairs of the pod that are not formed (R379). -/
def reportPairs (s : State) : State :=
  ((List.range (podSize s)).filter (fun q => !formed s q)).foldl (fun s q => emit (.notFormed (peerPort s q) q) s) s

/-- ROTA_ENTRY (R379, R416, R420): at the first cycle start at least 10 ms after JOIN, while LOCKED with no error left; the fibre delays have been measured by
then. -/
def execRotaEntry (s : State) : Result :=
  let t := s.tbase
  if t.join && !t.inrota && t.st == 2 && t.ahead == 0 && s.lgpod != 0 && decide (t.origin.toNat ≤ s.time.toNat) &&
      decide (t.joinAt.toNat + 10000000 ≤ cycleStart s) then
    .next (reportPairs { s with
      tbase := { t with inrota := true, leaving := none }, slotAt := 0, peers := s.peers.map (enterPeer s), fibre := calibrate s })
  else .next s

/-- The headers that have been fixed and will not be sent give back what they were to carry (R287). -/
def dropHeaders (s : State) : State := (s.ports.map (·.1)).foldl (fun s p => (takeFixed p (2 ^ 64) s).2) s

/-- What is left of an error is removed by stepping forward or by running at half rate, once the package has left the rota (R416). -/
def settleError (s : State) : State :=
  let e := s.tbase.err
  { s with
    time := if e < 0 then dw (min (2 ^ 64 - 1) (s.time.toNat + (-e).toNat)) else s.time,
    tbase := { s.tbase with err := 0, slew := 0, ahead := e.toNat } }

/-- The ports go dark, and INROTA becomes 0 (R417, R419); of a package that leaves the error is removed (R416). -/
def leaveRota (s0 : State) : State :=
  let s := if s0.tbase.inrota then settleError (dropHeaders (endSlot s0)) else s0
  { s with tbase := { s.tbase with inrota := false, leaving := none, joinAt := s.time }, slotAt := 0,
           ports := s.ports.map (fun e => (e.1, { e.2 with txmap := 0, head := false })) }

/-- ROTA_LEAVE (R416, R417, R419): at the slot boundary after the decision. -/
def execRotaLeave (s : State) : Result :=
  .next (if leaveDue s then leaveRota s else s)

end Sys2Proof.Machine
end

