-- ==== Sys2Proof/Machine/Package.lean ====
section
/-! DEFINITION. The package: clocks, power, resets, boot, the sideband's identity and attestation (R15, R414, R421 to R432). -/

namespace Sys2Proof.Machine

/-! ### Clocks and power -/

/-- The clock of a core pair that nothing has changed: 2.0 GHz. -/
def Clock.start : Clock := { stretch := false, steps := Config.nominalClockSteps, since := 0, lowered := false, quiet := 0 }

/-- The clock of a core pair. -/
def getClock (s : State) (p : Nat) : Clock := Sparse.get Clock.start s.clocks p

/-- Replaces the clock of a core pair. -/
def setClock (p : Nat) (v : Clock) (s : State) : State := { s with clocks := Sparse.set Clock.start s.clocks p v }

/-- The core pairs of the package, 46 of each die (R3). -/
def corePairs : Nat := 4 * 46

/-- The clock limit of a pair's die, in steps of 62.5 MHz (R421, R423). -/
def dieLimit (s : State) (p : Nat) : Nat := s.power.limits.getD (p / 46) Config.nominalClockSteps

/-- The cycle counter by which a pair's dip is measured (R421): that of its lower core. -/
def pairClk (s : State) (p : Nat) : DWord := (getCore s (p / 46) (p % 46 * 2)).clk

/-- DROOP_DETECT (R421): the periods are stretched while the dip lasts; the detector reports its beginning, and then its end (log entry 76). -/
def execDroopDetect (p : Nat) (s : State) : Result :=
  let c := getClock s p
  .next (if corePairs ≤ p then s
    else if c.stretch then setClock p { c with stretch := false, quiet := s.time } s
    else setClock p { c with stretch := true, since := pairClk s p, lowered := false } s)

/-- DROOP_STEP_DOWN (R421): a dip that has lasted 64 cycles lowers the target by a step. -/
def execDroopStepDown (p : Nat) (s : State) : Result :=
  let c := getClock s p
  .next (if p < corePairs && c.stretch && !c.lowered && decide (64 ≤ (pairClk s p - c.since).toNat) then
      setClock p { c with steps := c.steps - 1, lowered := true } s
    else s)

/-- DROOP_STEP_UP (R421): 10 µs without a droop, and none of them counts twice. -/
def execDroopStepUp (p : Nat) (s : State) : Result :=
  let c := getClock s p
  .next (if p < corePairs && !c.stretch && decide (c.steps < dieLimit s p) && decide (c.quiet.toNat + 10000 ≤ s.time.toNat) then
      setClock p { c with steps := c.steps + 1, quiet := s.time } s
    else s)

/-- The clock limit that the power runner gives a die (R423, log entry 12): at most 2.0 GHz; lower than before where the package draws
more than its limit or the die is hotter than 100 °C. -/
def newLimit (s : State) (pnow plim t old : Nat) : Nat :=
  let free := min Config.nominalClockSteps (Config.cappedClock (pnow + s.steps * 65536) plim t)
  if plim < pnow || 100 < t then min (old - 1) free else free

/-- POWER_CONTROL (R423); a junction at 115 °C makes the thermal shutdown due. -/
def execPowerControl (pnow : BitVec 16) (t0 t1 t2 t3 : BitVec 8) (s : State) : Result :=
  let ts := [t0.toNat, t1.toNat, t2.toNat, t3.toNat]
  let limits := (ts.zip s.power.limits).map (fun e => newLimit s pnow.toNat s.power.plim.toNat e.1 e.2)
  let capped := (List.range 4).foldl (fun n d => n + boolNat (decide (limits.getD d 32 < Config.nominalClockSteps)) * 2 ^ d) 0
  let s1 := { s with power := { s.power with pnow := pnow, tmax := BitVec.ofNat 8 (ts.foldl max 0), limits := limits, capped := BitVec.ofNat 4 capped } }
  let s2 := (List.range corePairs).foldl (fun s p => setClock p { getClock s p with steps := min (dieLimit s p) (getClock s p).steps } s) s1
  .next (if ts.any (fun t => decide (115 ≤ t)) && !s.power.off then due .thermalShutdown s2 else s2)

/-- THERMAL_SHUTDOWN (R423): the compute dies and HBM lose power, every context is destroyed, and the package leaves the rota. -/
def execThermalShutdown (s : State) : Result :=
  let s1 := leaveRota (dropContexts s)
  .next { s1 with cur := Group.vacant, others := [], mem := [], fe := [], poison := [], power := { s1.power with off := true },
                  fw := { s1.fw with running := false } }

/-! ### Resets -/

/-- Registers of the numbering after a core of a partition is retired (R413, R414). -/
def renumber (part core p c : Nat) : Nat := if p = part && core < c then c - 1 else c

/-- The cores' states after a core is retired. -/
def dropCore (part core : Nat) (s : State) : State :=
  let cores := s.cores.filterMap (fun e =>
    if e.1 = coreKey part core then none else some (coreKey (e.1 / 128) (renumber part core (e.1 / 128) (e.1 % 128)), e.2))
  addRepair (.core part core) (dw (coreKey part core)) { s with
    cores := cores,
    repairs := s.repairs.map (fun r => match r with
      | .bank p c => if p = part && c = core then .bank p 127 else .bank p (renumber part core p c)
      | .core p c => .core p c
      | .row u => .row u
      | .lane n => .lane n) }

/-- Retires the cores that are scheduled, the highest index first (R406, R414). -/
def retireCores (s : State) : State :=
  (s.cores.filter (fun e => e.2.retire)).reverse.foldl (fun s e => if s.repairs.length < 256 then dropCore (e.1 / 128) (e.1 % 128) s else storeFull s) s

/-- Removes register banks of cores (R414). -/
def reduceBanks (banks : List (Nat × Nat)) (s : State) : State :=
  banks.foldl (fun s b =>
    if 256 ≤ s.repairs.length then storeFull s
    else if b.1 < 4 && b.2 < enabledCores s b.1 then
      let c := getCore s b.1 b.2
      addRepair (.bank b.1 b.2) (dw (2 ^ 32 + coreKey b.1 b.2)) (setCore b.1 b.2 { c with words := c.words - 3072 } s)
    else s) s

/-- A core after a warm reset: its usable words are what the repair store leaves it (R350, R414), and one that is out of service, since a full store
took no entry for it, stays so. -/
def resetCores (s : State) : State :=
  { s with cores := s.cores.foldl (fun l e => Sparse.set Core.start l e.1
      { Core.start with words := e.2.words, service := e.2.service, retire := e.2.retire }) [] }

/-- The power block after a reset: PLIM by ordering code (R423, R424). -/
def resetPower (s : State) : Power := { State.reset.power with plim := BitVec.ofNat 16 (plimMax s) }

/-- What a warm reset leaves of a peer: the flits under way and their numbers, for SEQ restarts only with a peer that is marked lost (R420). -/
def resetPeer (p : Peer) : Peer :=
  { Peer.start with txseq := p.txseq, tail := p.tail, unacked := p.unacked, replay := p.replay, rxnext := p.rxnext, rxheld := p.rxheld,
                    owedAcks := p.lateAcks.foldl (fun l a => oweAck l a.1) p.owedAcks }

/-- WARM_RESET (R15, R426): contexts are destroyed, the package leaves the rota, scheduled repairs are applied; the day book, RETIRE,
LIMIT, the port counters, the repair store and the time-discipline block but for JOIN survive. Of the registers that no Reset column has,
the management record's address survives too and APBASE does not (DESIGN CHOICE, log entry 75). -/
def warmState (banks : List (Nat × Nat)) (s : State) : State :=
  let s1 := resetCores (reduceBanks banks (retireCores (leaveRota (dropContexts s))))
  let r := State.reset
  { s1 with
    agenda := [], cur := Group.vacant, others := [], teams := [], gangs := [], rounds := [], rampUp := r.rampUp, rampDn := r.rampDn,
    ups := [], downs := [], engines := [], locks := [], auctions := [], waits := [], bins := [], ctxs := [], queues := [], fills := [],
    hostHeld := [], invals := [], relayq := r.relayq, fwin := [], barrow := [], relay := [], brokered := [], split := [], fibre := [], l2host := [], served := [], prels := [], arrivals := [],
    episodes := [], tokens := [], health := [], recovAt := [], recovb := r.recovb, peers := s1.peers.map (fun e => (e.1, resetPeer e.2)), events := [], eventIdx := 0, lateEvents := [], mirror := [],
    sources := s1.sources.map (fun e => (e.1, { Source.start with retire := e.2.retire, limit := e.2.limit })),
    ports := s1.ports.map (fun e => (e.1, { e.2 with rxmap := 0, rstr := false, unc := false, uncRun := 0 })),
    tbase := { s1.tbase with join := false }, power := resetPower s1, clocks := [], bars := [], fw := { s1.fw with runners := [], service := s1.time },
    apbase := 0, mgmtHeld := [] }

/-- A warm reset; the steward registers the management queue again (R347). -/
def warm (banks : List (Nat × Nat)) (s : State) : State :=
  let t := warmState banks s
  if t.mgmtRec = 0 then t else registerMgmt t.mgmtRec t

/-- WARM_RESET (R414, R426). -/
def execWarmReset (banks : List (Nat × Nat)) (s : State) : Result := .next (warm banks s)

/-- STEWARD_WATCHDOG_EXPIRY (R426): 100 ms without service are a warm reset. -/
def execStewardWatchdogExpiry (s : State) : Result := .next (warm [] s)

/-- RUNNER_RESTART (R426): a runner starts again, and its unfinished work is issued to it again. -/
def execRunnerRestart (r : Nat) (s : State) : Result :=
  .next (if r < 6 then { s with fw := { s.fw with runners := Sparse.set 0 s.fw.runners r (Sparse.get 0 s.fw.runners r + 1) } } else s)

/-- The payload's bytes (R427). -/
def imageLength (i : FwImage) : Nat := imageField i 0x10 8

/-- The digest (R427). -/
def imageDigest (i : FwImage) : BitVec 384 := BitVec.ofNat 384 (imageField i 0x20 48)

/-- The public key of a scheme (R427): edkey or mlkey. -/
def imageKey (i : FwImage) (k : Nat) : List Byte := if k = 0 then imagePart i 0x50 32 else imagePart i 0x70 1952

/-- The signature of a scheme (R427): edsig or mlsig. -/
def imageSig (i : FwImage) (k : Nat) : List Byte := if k = 0 then imagePart i 0x810 64 else imagePart i 0x850 3309

/-- Whether an image's signature of a scheme verifies over bytes 0x0000 to 0x004F under its key (R427, R428). -/
def imageSigned (i : FwImage) (k : Nat) : Bool := i.checks.verified.contains (k, imageKey i k, imagePart i 0 0x50, imageSig i k)

/-- The SHA-384 of an image's key of a scheme (R428). -/
def imageKeyHash (i : FwImage) (k : Nat) : Option (BitVec 384) := (i.checks.hashes.find? (fun e => e.1 == imageKey i k)).map (·.2)

/-- Whether the ROM accepts an image, by the fuses (R427, R428). -/
def romAccepts (f : Firmware) (i : FwImage) : Bool :=
  imageField i 0 4 == 0x39514657 && decide (imageFlags i < 2) && decide (imageSecver i < 64) && imageField i 0x18 8 == 0 && imageField i 0x153D 195 == 0 &&
  imageKeyHash i 0 == some f.edFuse && imageKeyHash i 1 == some f.mlFuse && decide (f.counter ≤ imageSecver i) && i.checks.payload == imageDigest i &&
  imageSigned i 0 && imageSigned i 1

/-- The ROM's choice: copy A, then copy B (R428). -/
def romChoice (f : Firmware) (a b : FwImage) : Option FwImage := if romAccepts f a then some a else if romAccepts f b then some b else none

/-- The firmware complex as an accepted image boots it: the alias keys are derived, and the secret stays with the ROM (R425, R430, R432). -/
def bootImage (i : FwImage) (f : Firmware) : Firmware :=
  { f with running := true, image := some i, alias0 := Config.aliasKey 0 (imageDigest i), alias1 := Config.aliasKey 1 (imageDigest i), sideband := true }

/-- Usable register words of a core by the repair store (R414). -/
def repairedCores (l : List Repair) : Sparse Core :=
  l.foldl (fun m r => match r with
    | .bank p c => if c = 127 then m else
        let k := Sparse.get Core.start m (coreKey p c)
        Sparse.set Core.start m (coreKey p c) { k with words := k.words - 3072 }
    | .core _ _ => m
    | .row _ => m
    | .lane _ => m) []

/-- A laser source after a cold reset: every field but RETIRE and LIMIT is cleared, and a lane in the repair store is retired (R386, R414). -/
def coldSources (l : List Repair) (sources : Sparse Source) : Sparse Source :=
  let kept := sources.map (fun e => (e.1, { Source.start with retire := e.2.retire, limit := e.2.limit }))
  l.foldl (fun m r => match r with
    | .lane n => Sparse.set Source.start m n { Sparse.get Source.start m n with retire := true }
    | .bank _ _ => m
    | .core _ _ => m
    | .row _ => m) kept

/-- COLD_RESET (R15, R350, R386, R414, R428, R429): everything but the fuses, the repair store, RETIRE and LIMIT starts anew, and the ROM boots copy A or
copy B; without an accepted image no steward runs. -/
def execColdReset (a b : FwImage) (code : BitVec 8) (lgpod pkg : Nat) (s : State) : Result :=
  let f := { State.reset.fw with counter := s.fw.counter, edFuse := s.fw.edFuse, mlFuse := s.fw.mlFuse }
  let pod := if 5 ≤ lgpod && lgpod ≤ 10 && pkg < 2 ^ lgpod then lgpod else 0
  let s1 := { State.reset with
    steps := s.steps, nextId := s.nextId, repairs := s.repairs, cores := repairedCores s.repairs, code := if code.toNat < 3 then code else 1,
    lgpod := pod, pkg := if pod = 0 then 0 else pkg, sources := coldSources s.repairs s.sources,
    fw := (match romChoice f a b with | some i => bootImage i f | none => f), out := s.out }
  .next { s1 with power := resetPower s1 }

/-- The header of the image in the window (R428). -/
def windowHeader (s : State) : List Byte := (List.range 704).flatMap (fun k => bytesLE 8 (Sparse.get 0 s.fw.window k).toNat)

/-- RECOVERY_IMAGE (R428): a package without an accepted image takes the one in the window, by the same rules. -/
def execRecoveryImage (chk : ImageChecks) (s : State) : Result :=
  let i : FwImage := { header := windowHeader s, checks := chk }
  if s.fw.running || s.power.off || !romAccepts s.fw i || decide (32 * 2 ^ 20 < 5632 + imageLength i) then .next s
  else .next { s with fw := bootImage i s.fw }

/-! ### The sideband's identity (R432) -/

/-- An answer of the sideband to a common command, where the target has its address. -/
def ccc (body : List Byte) (s : State) : Result := .next (if quiperUp s && s.i3cAddr.isSome then emit (.i3c body) s else s)

/-- The provisional identifier's bytes, most significant first. -/
def pidBytes : List Byte := (bytesLE 6 Config.i3cPid.toNat).reverse

/-- ENTDAA (R432): the target sends its identity and takes a dynamic address. -/
def execEntdaa (addr : BitVec 7) (s : State) : Result :=
  .next (if quiperUp s && s.i3cAddr.isNone then
    emit (.i3c (pidBytes ++ [Config.i3cBcr, Config.i3cDcr])) { s with i3cAddr := some addr } else s)

/-- GETPID (R432). -/
def execGetpid (s : State) : Result := ccc pidBytes s

/-- GETBCR (R432). -/
def execGetbcr (s : State) : Result := ccc [Config.i3cBcr] s

/-- GETDCR (R432). -/
def execGetdcr (s : State) : Result := ccc [Config.i3cDcr] s

/-- GETSTATUS (R432). -/
def execGetstatus (s : State) : Result := ccc (bytesLE 2 (Config.i3cStatus s.steps).toNat).reverse s

/-! ### Attestation (R430, R431) -/

/-- The image's digest, 0 without an image. -/
def runningDigest (s : State) : BitVec 384 := match s.fw.image with | some i => imageDigest i | none => 0

/-- The two signatures of a signed answer over one transcript hash: Ed25519, and ML-DSA-65 in the OpaqueData, by the alias keys (R431). -/
def signatures (transcript : Nat) (s : State) : List Byte :=
  Config.signature 0 (transcript + 2 ^ 512 * s.fw.alias0.toNat) ++ Config.signature 1 (transcript + 2 ^ 512 * s.fw.alias1.toNat)

/-- An answer of runner 5 to an SPDM request: the bytes that SPDM 1.2 and the keys give (log entry 10), and what the spec gives. -/
def spdm (request : Nat) (content : List Byte) (s : State) : Result :=
  .next (if s.fw.running then emit (.spdm request (Config.spdmBody request s.steps ++ content)) s else s)

/-- GET_VERSION (R431): SPDM 1.2, as the version number entry of that protocol (log entry 10). -/
def execGetVersion (s : State) : Result := spdm 0x84 (bytesLE 2 0x1200) s

/-- GET_CAPABILITIES (R431). -/
def execGetCapabilities (s : State) : Result := spdm 0xE1 [] s

/-- NEGOTIATE_ALGORITHMS (R431): EdDSA Ed25519 and SHA-384, as the selections of that protocol (log entry 10). -/
def execNegotiateAlgorithms (s : State) : Result := spdm 0xE3 (bytesLE 4 0x00000200 ++ bytesLE 4 0x00000002) s

/-- GET_DIGESTS (R431). -/
def execGetDigests (s : State) : Result := spdm 0x81 [] s

/-- The chain of a scheme (R430): the identity key's certificates, and its certificate of the alias key. -/
def chainOf (k : Nat) (s : State) : List Byte :=
  Config.certificates k ++ Config.certify k (Config.identityKey k) (if k = 0 then s.fw.alias0 else s.fw.alias1)

/-- GET_CERTIFICATE (R430, R431): slot 0 holds the Ed25519 chain, with the ML-DSA-65 chain in the OpaqueData; no other slot does. -/
def execGetCertificate (slot : Nat) (s : State) : Result :=
  spdm 0x82 (if slot = 0 then chainOf 0 s ++ chainOf 1 s else []) s

/-- CHALLENGE (R431). -/
def execChallenge (nonce : BitVec 256) (s : State) : Result := spdm 0x83 (signatures (nonce.toNat + 2 ^ 256 * 0x83) s) s

/-- The repair store's entries as numbers, for its hash (R431). -/
def repairCodes (l : List Repair) : List Nat :=
  l.flatMap (fun r => match r with
    | .core p c => [1, p, c]
    | .bank p c => [2, p, c]
    | .row u => 3 :: u.length :: u
    | .lane n => [4, n])

/-- A measurement block (R431). -/
def measurement (k : Nat) (s : State) : List Byte :=
  if k = 1 then bytesLE 48 Config.romHash.toNat
  else if k = 2 then bytesLE 48 (runningDigest s).toNat
  else if k = 3 then bytesLE 4 ((s.fw.image.map imageSecver).getD 0) ++ bytesLE 4 s.fw.counter
  else if k = 4 then bytesLE 48 (Config.fuseHash (s.fw.counter :: repairCodes s.repairs)).toNat
  else []

/-- GET_MEASUREMENTS (R431): one block, or with index 0 all of them; signed on request. -/
def execGetMeasurements (index : Nat) (signed : Bool) (nonce : BitVec 256) (s : State) : Result :=
  let blocks := if index = 0 then [1, 2, 3, 4].flatMap (fun k => measurement k s) else measurement index s
  spdm 0xE0 (blocks ++ (if signed then signatures (nonce.toNat + 2 ^ 256 * (0xE0 + 256 * index)) s else [])) s

end Sys2Proof.Machine
end

