-- ==== Sys2Proof/Machine/Dispatch.lean ====
section
/-! DEFINITION. One arm for each constructor of Instr: one direct call of its meaning. -/

namespace Sys2Proof.Machine

open Sys2Proof

/-- The meaning of every instruction and event. -/
def exec (i : Instr) (s : State) : Host.Outcome State Fault Refusal :=
  match i with
  | .nop => Sys2Proof.Machine.execNop s
  | .br n p o => Sys2Proof.Machine.execBr n p o s
  | .call o => Sys2Proof.Machine.execCall o s
  | .jmpr a => Sys2Proof.Machine.execJmpr a s
  | .callr a => Sys2Proof.Machine.execCallr a s
  | .exit => Sys2Proof.Machine.execExit s
  | .safe i0 => Sys2Proof.Machine.execSafe i0 s
  | .idem i0 => Sys2Proof.Machine.execIdem i0 s
  | .sigck i0 => Sys2Proof.Machine.execSigck i0 s
  | .trap i0 => Sys2Proof.Machine.execTrap i0 s
  | .brk c => Sys2Proof.Machine.execBrk c s
  | .rbegin o => Sys2Proof.Machine.execRbegin o s
  | .rcommit => Sys2Proof.Machine.execRcommit s
  | .cyld o => Sys2Proof.Machine.execCyld o s
  | .waitc l s0 c t => Sys2Proof.Machine.execWaitc l s0 c t s
  | .gdiv d => Sys2Proof.Machine.execGdiv d s
  | .gfuse d c => Sys2Proof.Machine.execGfuse d c s
  | .kmask n p => Sys2Proof.Machine.execKmask n p s
  | .setm s0 v => Sys2Proof.Machine.execSetm s0 v s
  | .getm d => Sys2Proof.Machine.execGetm d s
  | .xset a i0 => Sys2Proof.Machine.execXset a i0 s
  | .txl a t => Sys2Proof.Machine.execTxl a t s
  | .txi t => Sys2Proof.Machine.execTxi t s
  | .bari a b => Sys2Proof.Machine.execBari a b s
  | .bara d a => Sys2Proof.Machine.execBara d a s
  | .barw a b => Sys2Proof.Machine.execBarw a b s
  | .sleep i0 => Sys2Proof.Machine.execSleep i0 s
  | .elect p => Sys2Proof.Machine.execElect p s
  | .spawn a b => Sys2Proof.Machine.execSpawn a b s
  | .fork a => Sys2Proof.Machine.execFork a s
  | .enq a b => Sys2Proof.Machine.execEnq a b s
  | .add d a b => Sys2Proof.Machine.execAdd d a b s
  | .sub d a b => Sys2Proof.Machine.execSub d a b s
  | .mul d a b => Sys2Proof.Machine.execMul d a b s
  | .mulh d a b => Sys2Proof.Machine.execMulh d a b s
  | .mad d a b => Sys2Proof.Machine.execMad d a b s
  | .div d a b => Sys2Proof.Machine.execDiv d a b s
  | .rem d a b => Sys2Proof.Machine.execRem d a b s
  | .min d a b => Sys2Proof.Machine.execMin d a b s
  | .max d a b => Sys2Proof.Machine.execMax d a b s
  | .absd d a b => Sys2Proof.Machine.execAbsd d a b s
  | .and d a b => Sys2Proof.Machine.execAnd d a b s
  | .or d a b => Sys2Proof.Machine.execOr d a b s
  | .xor d a b => Sys2Proof.Machine.execXor d a b s
  | .andn d a b => Sys2Proof.Machine.execAndn d a b s
  | .shl d a b => Sys2Proof.Machine.execShl d a b s
  | .shr d a b => Sys2Proof.Machine.execShr d a b s
  | .rol d a b => Sys2Proof.Machine.execRol d a b s
  | .bfx d a b => Sys2Proof.Machine.execBfx d a b s
  | .bfi d a b => Sys2Proof.Machine.execBfi d a b s
  | .sel d a b => Sys2Proof.Machine.execSel d a b s
  | .cmp c p a b => Sys2Proof.Machine.execCmp c p a b s
  | .plog f p q r => Sys2Proof.Machine.execPlog f p q r s
  | .li d i0 => Sys2Proof.Machine.execLi d i0 s
  | .lih d i0 => Sys2Proof.Machine.execLih d i0 s
  | .addi d a i0 => Sys2Proof.Machine.execAddi d a i0 s
  | .shli d a i0 => Sys2Proof.Machine.execShli d a i0 s
  | .shri d a i0 => Sys2Proof.Machine.execShri d a i0 s
  | .andi d a i0 => Sys2Proof.Machine.execAndi d a i0 s
  | .popc d a => Sys2Proof.Machine.execPopc d a s
  | .clz d a => Sys2Proof.Machine.execClz d a s
  | .brev d a => Sys2Proof.Machine.execBrev d a s
  | .not d a => Sys2Proof.Machine.execNot d a s
  | .neg d a => Sys2Proof.Machine.execNeg d a s
  | .abs d a => Sys2Proof.Machine.execAbs d a s
  | .mov d a => Sys2Proof.Machine.execMov d a s
  | .movpToRegister d p => Sys2Proof.Machine.execMovpToRegister d p s
  | .movpToPredicate p a => Sys2Proof.Machine.execMovpToPredicate p a s
  | .fadd d a b => Sys2Proof.Machine.execFadd d a b s
  | .fsub d a b => Sys2Proof.Machine.execFsub d a b s
  | .fmul d a b => Sys2Proof.Machine.execFmul d a b s
  | .fma d a b => Sys2Proof.Machine.execFma d a b s
  | .fms d a b => Sys2Proof.Machine.execFms d a b s
  | .fmin d a b => Sys2Proof.Machine.execFmin d a b s
  | .fmax d a b => Sys2Proof.Machine.execFmax d a b s
  | .fdiv d a b => Sys2Proof.Machine.execFdiv d a b s
  | .fsqrt d a => Sys2Proof.Machine.execFsqrt d a s
  | .frcp d a => Sys2Proof.Machine.execFrcp d a s
  | .frsq d a => Sys2Proof.Machine.execFrsq d a s
  | .fex2 d a => Sys2Proof.Machine.execFex2 d a s
  | .flg2 d a => Sys2Proof.Machine.execFlg2 d a s
  | .fsin d a => Sys2Proof.Machine.execFsin d a s
  | .fcos d a => Sys2Proof.Machine.execFcos d a s
  | .fabs d a => Sys2Proof.Machine.execFabs d a s
  | .fneg d a => Sys2Proof.Machine.execFneg d a s
  | .frnd d a => Sys2Proof.Machine.execFrnd d a s
  | .fcls d a => Sys2Proof.Machine.execFcls d a s
  | .cvt d a x => Sys2Proof.Machine.execCvt d a x s
  | .dot4 d a b => Sys2Proof.Machine.execDot4 d a b s
  | .fscl d a b => Sys2Proof.Machine.execFscl d a b s
  | .qnt8 d a b => Sys2Proof.Machine.execQnt8 d a b s
  | .dqn8 d a b => Sys2Proof.Machine.execDqn8 d a b s
  | .hadm d a b => Sys2Proof.Machine.execHadm d a b s
  | .shfl d a b => Sys2Proof.Machine.execShfl d a b s
  | .shfx d a b => Sys2Proof.Machine.execShfx d a b s
  | .qxch d a s0 => Sys2Proof.Machine.execQxch d a s0 s
  | .bcst d a b => Sys2Proof.Machine.execBcst d a b s
  | .ballot d p => Sys2Proof.Machine.execBallot d p s
  | .vote k p q => Sys2Proof.Machine.execVote k p q s
  | .gred d a x => Sys2Proof.Machine.execGred d a x s
  | .gscan d a e x => Sys2Proof.Machine.execGscan d a e x s
  | .ktop d a b => Sys2Proof.Machine.execKtop d a b s
  | .matchLanes d a => Sys2Proof.Machine.execMatchLanes d a s
  | .ld1 d a t i0 => Sys2Proof.Machine.execLd1 d a t i0 s
  | .ld2 d a t i0 => Sys2Proof.Machine.execLd2 d a t i0 s
  | .ld4 d a t i0 => Sys2Proof.Machine.execLd4 d a t i0 s
  | .ld8 d a t i0 => Sys2Proof.Machine.execLd8 d a t i0 s
  | .ld16 d a t i0 => Sys2Proof.Machine.execLd16 d a t i0 s
  | .ld64 d a t i0 => Sys2Proof.Machine.execLd64 d a t i0 s
  | .ldaq d a t i0 => Sys2Proof.Machine.execLdaq d a t i0 s
  | .ldwt d a t i0 => Sys2Proof.Machine.execLdwt d a t i0 s
  | .ldcn d a t i0 => Sys2Proof.Machine.execLdcn d a t i0 s
  | .st1 d a t i0 => Sys2Proof.Machine.execSt1 d a t i0 s
  | .st2 d a t i0 => Sys2Proof.Machine.execSt2 d a t i0 s
  | .st4 d a t i0 => Sys2Proof.Machine.execSt4 d a t i0 s
  | .st8 d a t i0 => Sys2Proof.Machine.execSt8 d a t i0 s
  | .st16 d a t i0 => Sys2Proof.Machine.execSt16 d a t i0 s
  | .st64 d a t i0 => Sys2Proof.Machine.execSt64 d a t i0 s
  | .strl d a t i0 => Sys2Proof.Machine.execStrl d a t i0 s
  | .stfl d a t i0 => Sys2Proof.Machine.execStfl d a t i0 s
  | .stfu d a t i0 => Sys2Proof.Machine.execStfu d a t i0 s
  | .fefull a t i0 => Sys2Proof.Machine.execFefull a t i0 s
  | .feempty a t i0 => Sys2Proof.Machine.execFeempty a t i0 s
  | .fetest p a t i0 => Sys2Proof.Machine.execFetest p a t i0 s
  | .fence k s0 => Sys2Proof.Machine.execFence k s0 s
  | .aadd d a t i0 => Sys2Proof.Machine.execAadd d a t i0 s
  | .amin d a t i0 => Sys2Proof.Machine.execAmin d a t i0 s
  | .amax d a t i0 => Sys2Proof.Machine.execAmax d a t i0 s
  | .aand d a t i0 => Sys2Proof.Machine.execAand d a t i0 s
  | .aor d a t i0 => Sys2Proof.Machine.execAor d a t i0 s
  | .axor d a t i0 => Sys2Proof.Machine.execAxor d a t i0 s
  | .aswp d a t i0 => Sys2Proof.Machine.execAswp d a t i0 s
  | .acas d a t i0 => Sys2Proof.Machine.execAcas d a t i0 s
  | .ainc d a t i0 => Sys2Proof.Machine.execAinc d a t i0 s
  | .adec d a t i0 => Sys2Proof.Machine.execAdec d a t i0 s
  | .xcp d a b => Sys2Proof.Machine.execXcp d a b s
  | .xfill d a b => Sys2Proof.Machine.execXfill d a b s
  | .xgath d a b => Sys2Proof.Machine.execXgath d a b s
  | .xpref a b => Sys2Proof.Machine.execXpref a b s
  | .popen a => Sys2Proof.Machine.execPopen a s
  | .prel d a t i0 => Sys2Proof.Machine.execPrel d a t i0 s
  | .pbar a => Sys2Proof.Machine.execPbar a s
  | .pdrain => Sys2Proof.Machine.execPdrain s
  | .tmm d a b => Sys2Proof.Machine.execTmm d a b s
  | .tmmr d a b => Sys2Proof.Machine.execTmmr d a b s
  | .tmmi d a b => Sys2Proof.Machine.execTmmi d a b s
  | .tmmir d a b => Sys2Proof.Machine.execTmmir d a b s
  | .tlda d a => Sys2Proof.Machine.execTlda d a s
  | .tsta d a => Sys2Proof.Machine.execTsta d a s
  | .tzra t => Sys2Proof.Machine.execTzra t s
  | .tcvt d a b => Sys2Proof.Machine.execTcvt d a b s
  | .tfen d => Sys2Proof.Machine.execTfen d s
  | .twt a => Sys2Proof.Machine.execTwt a s
  | .acfg d a => Sys2Proof.Machine.execAcfg d a s
  | .bid d a b => Sys2Proof.Machine.execBid d a b s
  | .aread d a => Sys2Proof.Machine.execAread d a s
  | .take d a => Sys2Proof.Machine.execTake d a s
  | .srd d n => Sys2Proof.Machine.execSrd d n s
  | .swr d n => Sys2Proof.Machine.execSwr d n s
  | .rett => Sys2Proof.Machine.execRett s
  | .park => Sys2Proof.Machine.execPark s
  | .illegalWord w => Sys2Proof.Machine.execIllegalWord w s
  | .unassignedCodeWord w => Sys2Proof.Machine.execUnassignedCodeWord w s
  | .loadReturn g k => Sys2Proof.Machine.execLoadReturn g k s
  | .storeAccept g k => Sys2Proof.Machine.execStoreAccept g k s
  | .commit m => Sys2Proof.Machine.execCommit m s
  | .feSpinRetry k => Sys2Proof.Machine.execFeSpinRetry k s
  | .feBucketRetry k => Sys2Proof.Machine.execFeBucketRetry k s
  | .feBudgetExpiry k => Sys2Proof.Machine.execFeBudgetExpiry k s
  | .engineBytesLand e n => Sys2Proof.Machine.execEngineBytesLand e n s
  | .engineLandingFill e => Sys2Proof.Machine.execEngineLandingFill e s
  | .engineComplete e => Sys2Proof.Machine.execEngineComplete e s
  | .engineFailure e => Sys2Proof.Machine.execEngineFailure e s
  | .tileOpStart tm k => Sys2Proof.Machine.execTileOpStart tm k s
  | .tmmiCountRead tm k => Sys2Proof.Machine.execTmmiCountRead tm k s
  | .tileOpRetire tm k mismatch => Sys2Proof.Machine.execTileOpRetire tm k mismatch s
  | .groupRetire g => Sys2Proof.Machine.execGroupRetire g s
  | .strandMerge g => Sys2Proof.Machine.execStrandMerge g s
  | .strandRotation g => Sys2Proof.Machine.execStrandRotation g s
  | .strandAging g => Sys2Proof.Machine.execStrandAging g s
  | .groupStarved g => Sys2Proof.Machine.execGroupStarved g s
  | .sleepWake g => Sys2Proof.Machine.execSleepWake g s
  | .gfuseTimeout g => Sys2Proof.Machine.execGfuseTimeout g s
  | .binTimerExpiry b => Sys2Proof.Machine.execBinTimerExpiry b s
  | .spawnGroupPlace b core quarter slot => Sys2Proof.Machine.execSpawnGroupPlace b core quarter slot s
  | .enqTimeout g => Sys2Proof.Machine.execEnqTimeout g s
  | .prelPerform k => Sys2Proof.Machine.execPrelPerform k s
  | .regionRollback g cause => Sys2Proof.Machine.execRegionRollback g cause s
  | .idempotentRestart g addr => Sys2Proof.Machine.execIdempotentRestart g addr s
  | .watchdog g => Sys2Proof.Machine.execWatchdog g s
  | .gangAbort g => Sys2Proof.Machine.execGangAbort g s
  | .hostPlainWrite fn off bytes => Sys2Proof.Machine.execHostPlainWrite fn off bytes s
  | .hostFillWrite fn off bytes => Sys2Proof.Machine.execHostFillWrite fn off bytes s
  | .hostRead fn bar0 off n => Sys2Proof.Machine.execHostRead fn bar0 off n s
  | .hostAtomicop fn fillAlias op z off val cmp => Sys2Proof.Machine.execHostAtomicop fn fillAlias op z off val cmp s
  | .peerRecovering p => Sys2Proof.Machine.execPeerRecovering p s
  | .peerLost p => Sys2Proof.Machine.execPeerLost p s
  | .sourceQualified s0 => Sys2Proof.Machine.execSourceQualified s0 s
  | .checkpointStart c => Sys2Proof.Machine.execCheckpointStart c s
  | .rampDownIdle part core => Sys2Proof.Machine.execRampDownIdle part core s
  | .slotStart brokers => Sys2Proof.Machine.execSlotStart brokers s
  | .headerFix p => Sys2Proof.Machine.execHeaderFix p s
  | .droopStepDown p => Sys2Proof.Machine.execDroopStepDown p s
  | .droopStepUp p => Sys2Proof.Machine.execDroopStepUp p s
  | .remoteServiceComplete k => Sys2Proof.Machine.execRemoteServiceComplete k s
  | .packetConsume c q => Sys2Proof.Machine.execPacketConsume c q s
  | .launch c q => Sys2Proof.Machine.execLaunch c q s
  | .copyPacket c q => Sys2Proof.Machine.execCopyPacket c q s
  | .signal c q => Sys2Proof.Machine.execSignal c q s
  | .waitval c q => Sys2Proof.Machine.execWaitval c q s
  | .waitvalPoll c q => Sys2Proof.Machine.execWaitvalPoll c q s
  | .waitvalTimeout c q => Sys2Proof.Machine.execWaitvalTimeout c q s
  | .qbarrier c q => Sys2Proof.Machine.execQbarrier c q s
  | .timestamp c q => Sys2Proof.Machine.execTimestamp c q s
  | .nopPacket c q => Sys2Proof.Machine.execNopPacket c q s
  | .reservationAnswer g cores => Sys2Proof.Machine.execReservationAnswer g cores s
  | .reservationTimeout g => Sys2Proof.Machine.execReservationTimeout g s
  | .reservationRetry g => Sys2Proof.Machine.execReservationRetry g s
  | .teamStart g part core quarter => Sys2Proof.Machine.execTeamStart g part core quarter s
  | .gangStartFailure g => Sys2Proof.Machine.execGangStartFailure g s
  | .gangComplete g => Sys2Proof.Machine.execGangComplete g s
  | .queueAbtPoll c q => Sys2Proof.Machine.execQueueAbtPoll c q s
  | .hostFillTimeout k => Sys2Proof.Machine.execHostFillTimeout k s
  | .carveOutChange part core c => Sys2Proof.Machine.execCarveOutChange part core c s
  | .saveCancel tm => Sys2Proof.Machine.execSaveCancel tm s
  | .teamRestore tm core => Sys2Proof.Machine.execTeamRestore tm core s
  | .ctxCreate m => Sys2Proof.Machine.execCtxCreate m s
  | .ctxDestroy m => Sys2Proof.Machine.execCtxDestroy m s
  | .queueReg m => Sys2Proof.Machine.execQueueReg m s
  | .queueUnreg m => Sys2Proof.Machine.execQueueUnreg m s
  | .handleNew m => Sys2Proof.Machine.execHandleNew m s
  | .handleFree m => Sys2Proof.Machine.execHandleFree m s
  | .inval m => Sys2Proof.Machine.execInval m s
  | .migrate m => Sys2Proof.Machine.execMigrate m s
  | .migrateFreeze c => Sys2Proof.Machine.execMigrateFreeze c s
  | .pageout m => Sys2Proof.Machine.execPageout m s
  | .pageIn c va frame => Sys2Proof.Machine.execPageIn c va frame s
  | .faultReply m => Sys2Proof.Machine.execFaultReply m s
  | .ckptFull m => Sys2Proof.Machine.execCkptFull m s
  | .ckptIncremental m => Sys2Proof.Machine.execCkptIncremental m s
  | .ckptRestore m units => Sys2Proof.Machine.execCkptRestore m units s
  | .ckptQuiesce c => Sys2Proof.Machine.execCkptQuiesce c s
  | .ckptQuiesceTimeout c => Sys2Proof.Machine.execCkptQuiesceTimeout c s
  | .ckptDrainComplete c => Sys2Proof.Machine.execCkptDrainComplete c s
  | .hostAtomicopCompletion g k supported => Sys2Proof.Machine.execHostAtomicopCompletion g k supported s
  | .functionLevelReset c => Sys2Proof.Machine.execFunctionLevelReset c s
  | .registerWrite steward r val => Sys2Proof.Machine.execRegisterWrite steward r val s
  | .hbmScrub => Sys2Proof.Machine.execHbmScrub s
  | .coreFail part core => Sys2Proof.Machine.execCoreFail part core s
  | .hbmRowRepair units => Sys2Proof.Machine.execHbmRowRepair units s
  | .podHealthWrite p st => Sys2Proof.Machine.execPodHealthWrite p st s
  | .sourceLoss s0 => Sys2Proof.Machine.execSourceLoss s0 s
  | .rxLoss p lost first count rstr => Sys2Proof.Machine.execRxLoss p lost first count rstr s
  | .sourceLightReturn s0 => Sys2Proof.Machine.execSourceLightReturn s0 s
  | .sourceRetireWrite s0 retire => Sys2Proof.Machine.execSourceRetireWrite s0 retire s
  | .sourceTelemetry s0 t => Sys2Proof.Machine.execSourceTelemetry s0 t s
  | .sourceHourlyUpdate s0 mean => Sys2Proof.Machine.execSourceHourlyUpdate s0 mean s
  | .portCounterClear p => Sys2Proof.Machine.execPortCounterClear p s
  | .quiperOffsetWrite off => Sys2Proof.Machine.execQuiperOffsetWrite off s
  | .quiperDataRead n => Sys2Proof.Machine.execQuiperDataRead n s
  | .quiperDataWrite bytes => Sys2Proof.Machine.execQuiperDataWrite bytes s
  | .entdaa addr => Sys2Proof.Machine.execEntdaa addr s
  | .getpid => Sys2Proof.Machine.execGetpid s
  | .getbcr => Sys2Proof.Machine.execGetbcr s
  | .getdcr => Sys2Proof.Machine.execGetdcr s
  | .getstatus => Sys2Proof.Machine.execGetstatus s
  | .getVersion => Sys2Proof.Machine.execGetVersion s
  | .getCapabilities => Sys2Proof.Machine.execGetCapabilities s
  | .negotiateAlgorithms => Sys2Proof.Machine.execNegotiateAlgorithms s
  | .getDigests => Sys2Proof.Machine.execGetDigests s
  | .getCertificate slot => Sys2Proof.Machine.execGetCertificate slot s
  | .challenge nonce => Sys2Proof.Machine.execChallenge nonce s
  | .getMeasurements index signed nonce => Sys2Proof.Machine.execGetMeasurements index signed nonce s
  | .referenceMarker carried err good => Sys2Proof.Machine.execReferenceMarker carried err good s
  | .referenceLoss => Sys2Proof.Machine.execReferenceLoss s
  | .holdoverExpiry => Sys2Proof.Machine.execHoldoverExpiry s
  | .rotaJoinWrite join => Sys2Proof.Machine.execRotaJoinWrite join s
  | .rotaEntry => Sys2Proof.Machine.execRotaEntry s
  | .rotaLeave => Sys2Proof.Machine.execRotaLeave s
  | .droopDetect p => Sys2Proof.Machine.execDroopDetect p s
  | .dataFlitReceive peer f => Sys2Proof.Machine.execDataFlitReceive peer f s
  | .headerFlitReceive peer h => Sys2Proof.Machine.execHeaderFlitReceive peer h s
  | .powerControl pnow t0 t1 t2 t3 => Sys2Proof.Machine.execPowerControl pnow t0 t1 t2 t3 s
  | .thermalShutdown => Sys2Proof.Machine.execThermalShutdown s
  | .runnerRestart r => Sys2Proof.Machine.execRunnerRestart r s
  | .stewardWatchdogExpiry => Sys2Proof.Machine.execStewardWatchdogExpiry s
  | .warmReset banks => Sys2Proof.Machine.execWarmReset banks s
  | .coldReset a b code lgpod pkg => Sys2Proof.Machine.execColdReset a b code lgpod pkg s
  | .recoveryImage chk => Sys2Proof.Machine.execRecoveryImage chk s
  | .referenceAcquire => Sys2Proof.Machine.execReferenceAcquire s

end Sys2Proof.Machine
end

