-- ==== Sys2Proof/Machine/Internal.lean ====
section
/-! DEFINITION. The events that the package brings about by itself, and the choice of what a step does (log entry 5). -/

namespace Sys2Proof.Machine

/-! ### Places -/

/-- One of the elements of a list, by the free choice of the step (log entry 36). -/
def pickOf (s : State) (l : List Nat) : Option Nat :=
  match l with
  | [] => none
  | a :: r => some ((a :: r).getD (Config.pickPlace s.steps % (r.length + 1)) a)

/-- The cores of a partition on which groups of a header fit. -/
def fittingCores (s : State) (part : Nat) (h : KHeader) (gs : List (Nat × Nat)) : List Nat :=
  (List.range Config.coresPerDie).filter (fun c => (fitQuarter s part c h gs).isSome)

/-- The state with the carve-outs of a team's cores at least of a code. -/
def withCarve (part core code : Nat) (h : KHeader) (s : State) : State :=
  (teamCores h core).foldl (fun s c => let k := getCore s part c.1; setCore part c.1 { k with carve := max k.carve code } s) s

/-- The least code of a core's carve-out with which groups of a header fit there (R243). -/
def growCode (s : State) (part core : Nat) (h : KHeader) (gs : List (Nat × Nat)) : Option Nat :=
  [1, 2, 3, 4, 5].find? (fun c => (fitQuarter (withCarve part core c h s) part core h gs).isSome)

/-- The growth of a carve-out that admits groups which fit no core of a partition as the carve-outs stand (R243). -/
def growEvents (s : State) (part : Nat) (h : KHeader) (gs : List (Nat × Nat)) : List Instr :=
  match pickOf s ((List.range Config.coresPerDie).filter (fun c => (growCode s part c h gs).isSome)) with
  | some core => match growCode s part core h gs with
    | some c => ((teamCores h core).filter (fun x => decide ((getCore s part x.1).carve < c))).map (fun x => .carveOutChange part x.1 c)
    | none => []
  | none => []

/-- What the dispatchers do about the teams of a reservation, one after another (R243, R333): the cores that they propose, 127 where
none fits, and the growth of a carve-out that the first of those teams needs. -/
def proposeCores (gid : Nat) : List Nat → State → List Nat × List Instr
  | [], _ => ([], [])
  | p :: l, s =>
    let g := getGang s gid
    match pickOf s (fittingCores s p g.hdr (startGroups g.hdr)) with
    | some c =>
      let r := proposeCores gid l (placeNeeded gid [(p, c)] s []).1
      (c :: r.1, r.2)
    | none =>
      let r := proposeCores gid l s
      (127 :: r.1, growEvents s p g.hdr (startGroups g.hdr) ++ r.2)

/-- Where the next team of a gang on a partition starts: the place reserved for it, else one that fits (R335). -/
def nextPlace (s : State) (gid part : Nat) : Option (Nat × Nat) :=
  let g := getGang s gid
  match (if firstFailed s g part && !firstTeam g part then none else placeOn g part) with
  | some p => some (p.key % 128, p.quarter)
  | none => (pickOf s (fittingCores s part g.hdr (startGroups g.hdr))).bind
      (fun c => (fitQuarter s part c g.hdr (startGroups g.hdr)).map (fun q => (c, q)))

/-! ### Candidates -/

/-- Events of the operations and the life of a group. -/
def groupEvents (g : Group) : List Instr :=
  g.outs.flatMap (fun o => match o.ctr with | .l => [.loadReturn g.id o.id] | .s => [.storeAccept g.id o.id] | .none => []) ++
  (match g.region with | some r => (match r.failing with | some c => [.regionRollback g.id c] | none => []) | none => []) ++
  (match g.idemr with | some r => (match r.due with | some a => [.idempotentRestart g.id a] | none => []) | none => []) ++
  [.groupRetire g.id, .strandMerge g.id, .strandRotation g.id, .strandAging g.id, .groupStarved g.id, .sleepWake g.id,
   .gfuseTimeout g.id, .enqTimeout g.id, .watchdog g.id]

/-- Events of a wait. -/
def waitEvents (w : FeWait) : List Instr :=
  match w.mode with
  | .spin _ => [.feSpinRetry w.id]
  | .parked => [.feBudgetExpiry w.id]
  | .retry => [.feBucketRetry w.id, .feBudgetExpiry w.id]

/-- Events of an engine operation; bytes land 256 at a time, from the page's end on. -/
def engineEvents (x : EngOp) : List Instr :=
  (if x.held.isNone then [.engineBytesLand x.id 256, .engineLandingFill x.id] else []) ++ [.engineComplete x.id, .engineFailure x.id]

/-- Events of a team: its tile streams, its save and its restore. -/
def teamEvents (s : State) (e : Nat × Team) : List Instr :=
  e.2.streams.flatMap (fun x => if x.2.ops.isEmpty then [] else
    [.tmmiCountRead e.1 x.1, .tileOpStart e.1 x.1, .tileOpRetire e.1 x.1 none]) ++
  (match e.2.status with
    | .running => [.saveCancel e.1]
    | .saved => (match restoreHeader s e.2 with
        | some h => (match pickOf s (fittingCores s e.2.part h (savedGroups e.2)) with
          | some c => [.teamRestore e.1 (some c)]
          | none => growEvents s e.2.part h (savedGroups e.2))
        | none => [.teamRestore e.1 none])
    | .free => [])

/-- Events of a gang. -/
def gangEvents (s : State) (e : Nat × Gang) : List Instr :=
  match e.2.status with
  | .none => []
  | .dep => [.reservationRetry e.1]
  | .reserving =>
    let r := proposeCores e.1 (neededParts e.2) s
    if r.2.isEmpty then [.reservationAnswer e.1 r.1] else r.2.take 1
  | .waiting => [.reservationRetry e.1]
  | .committed =>
    (partsOf e.2).flatMap (fun p => if e.2.next.getD p 0 < teamsBound e.2 p then
      (match nextPlace s e.1 p with
        | some c => [.teamStart e.1 p c.1 c.2]
        | none => growEvents s p e.2.hdr (startGroups e.2.hdr)) else []) ++
    [.gangStartFailure e.1, .gangComplete e.1]
  | .aborting => [.gangAbort e.1]
  | .complete => []

/-- Events of a spawn bin. -/
def binEvents (s : State) (e : Nat × Bin) : List Instr :=
  let gs := [(0, e.2.hdr.lgw)]
  .binTimerExpiry e.1 :: (if e.2.formed.isEmpty then [] else
    match pickOf s (fittingCores s e.2.part e.2.hdr gs) with
    | some c => (match fitQuarter s e.2.part c e.2.hdr gs with
      | some q => (match freeSlot s e.2.part c q with | some n => [.spawnGroupPlace e.1 c q n] | none => [])
      | none => [])
    | none => growEvents s e.2.part e.2.hdr gs)

/-- Events of a queue of a context; the management queue is the steward's. -/
def queueEvents (e : Nat × Queue) : List Instr :=
  let c := e.1 / 64
  let q := e.1 % 64
  if e.2.live && decide (e.1 < mgmtQueue) then
    [.packetConsume c q, .launch c q, .copyPacket c q, .signal c q, .waitval c q, .waitvalPoll c q, .waitvalTimeout c q,
     .qbarrier c q, .timestamp c q, .nopPacket c q, .queueAbtPoll c q]
  else []

/-- Events of the steward for a context, while its firmware runs. -/
def ctxEvents (s : State) (e : Nat × Ctx) : List Instr :=
  if e.2.live && s.fw.running then
    (match e.2.ckpt with
      | some _ => [.checkpointStart e.1, .ckptQuiesce e.1, .ckptDrainComplete e.1, .ckptQuiesceTimeout e.1]
      | none => []) ++
    (match e.2.mig with | some _ => [.migrateFreeze e.1] | none => [])
  else []

/-- Events of the rota, the peers, the sources and the clocks. -/
def podEvents (s : State) : List Instr :=
  [.holdoverExpiry, .rotaEntry] ++ (if s.fw.running && scrubIn s == 0 then [.hbmScrub] else []) ++ s.clocks.flatMap (fun e => [.droopStepDown e.1, .droopStepUp e.1]) ++
  s.peers.flatMap (fun e => [.peerRecovering e.1, .peerLost e.1]) ++ s.sources.map (fun e => .sourceQualified e.1)

/-- Every event that the package could bring about now, whether or not it is due. -/
def internalEvents (s : State) : List Instr :=
  (groups s).flatMap groupEvents ++ s.waits.flatMap waitEvents ++ s.engines.flatMap engineEvents ++ s.teams.flatMap (teamEvents s) ++
  s.gangs.flatMap (gangEvents s) ++ s.bins.flatMap (binEvents s) ++ s.queues.flatMap queueEvents ++
  (List.range s.prels.length).map (fun k => .prelPerform k) ++ (List.range s.served.length).map (fun k => .remoteServiceComplete k) ++
  (List.range s.fills.length).map (fun k => .hostFillTimeout k) ++
  (s.cores.filter (fun e => e.2.clocked)).map (fun e => .rampDownIdle (e.1 / 128) (e.1 % 128)) ++
  s.ctxs.flatMap (ctxEvents s) ++ podEvents s

/-- Whether an event changes anything: one that is not due leaves the state as it is. -/
def changes (s : State) (e : Instr) : Bool :=
  match exec e s with
  | .next t => t != s
  | .fault _ => true
  | .refused _ => true

/-- A list that begins at its n-th element and comes round. -/
def fromNth (n : Nat) (l : List Instr) : List Instr := l.drop (n % (l.length + 1)) ++ l.take (n % (l.length + 1))

/-- The event that the package brings about next: the first that is due, where the search begins one event further with every step. -/
def nextInternal (s : State) : Option Instr :=
  if s.power.off then none else (fromNth (s.steps / 2) (internalEvents s)).find? (changes s)

/-! ### The passage of time -/

/-- The last moments of what a dispatcher has planned for a gang's next team on a partition (R335, R336): the start of a first team, and the
activations in the windows assigned; a core that has failed keeps none. -/
def startLimits (s : State) (g : Gang) (part : Nat) : List Nat :=
  match placeOn g part with
  | none => []
  | some p =>
    if firstFailed s g part || (!firstTeam g part && quiescing s g.ctx) then []
    else (if firstTeam g part then [firstDeadline s g part] else []) ++ (pendingWins s part p).map (fun e => 100 * e.2 + 32)

/-- The times that may pass before those moments: the dispatchers keep them (R335, R336). -/
def startSlack (s : State) (g : Gang) : List Nat :=
  if g.status != .committed then []
  else (((partsOf g).flatMap (startLimits s g)).filter (fun d => decide (s.time.toNat ≤ d))).map (fun d => d - s.time.toNat)

/-- The port whose header contents are fixed next: the point of −64 ns has passed (R285). -/
def fixPending (s : State) : Option Nat := if s.tbase.inrota then (List.range 36).find? (headerDue s) else none

/-- What the calendar brings about now, before anything else (R285, R419): the package leaves the rota, the contents of a header are fixed, or a slot
begins. -/
def calendarDue (s : State) : Option Instr :=
  if s.power.off || !s.tbase.inrota then none
  else if leaveDue s then some .rotaLeave
  else match fixPending s with
    | some p => some (.headerFix p)
    | none => if slotDue s then some (.slotStart (Config.brokerDraws s.steps)) else none

/-- The ns to the next point of the calendar: the fixing of headers, or the start of a slot (R285). -/
def calendarSlack (s : State) : List Nat :=
  if s.power.off || !s.tbase.inrota then [] else if (calendarDue s).isSome then [0] else [nextPoint s]

/-- The ns until the steward's next scrub (R395). -/
def scrubSlack (s : State) : List Nat := if s.fw.running then [scrubIn s] else []

/-- The ns that pass in a step: a free number, but never beyond the start of a gang (R335), nor a point of the calendar (R285), nor the next scrub (R395), nor the end of the
counter, which never decreases (R416; log entry 3). -/
def elapsed (s : State) : Nat :=
  if s.power.off then Config.elapsedNs s.steps
  else ((2 ^ 64 - 1 - s.time.toNat) :: (scrubSlack s ++ calendarSlack s ++ s.gangs.flatMap (fun e => startSlack s e.2))).foldl min (Config.elapsedNs s.steps)

/-! ### The management queue -/

/-- Whether an event is a command of the management queue (R347). -/
def isMgmt : Instr → Bool
  | .ctxCreate _ | .ctxDestroy _ | .queueReg _ | .queueUnreg _ | .handleNew _ | .handleFree _ | .inval _ | .migrate _ | .pageout _ => true
  | .faultReply _ | .ckptFull _ | .ckptIncremental _ | .ckptRestore _ _ | .commit _ => true
  | _ => false

/-- The command in the bytes of a slot (R347). -/
def mgmtOf (bs : List Byte) : MgmtPacket :=
  let w := fun (i : Nat) => dw (fieldAt bs (8 * i) 8)
  { w0 := w 0, w1 := w 1, w2 := w 2, w3 := w 3, w4 := w 4, w5 := w 5, w6 := w 6, w7 := w 7 }

/-- A command that the steward has taken: its event is due; a kind that no command has gives BAD_COMMAND (R347). -/
def issueMgmt (m : MgmtPacket) (s : State) : State :=
  match mgmtInstr m with
  | some i => due i s
  | none => if mgmtStatusAt m % 8 = 0 then fillStatus (mgmtStatusAt m) .badCommand s else s

/-- The steward takes the next command of the management queue (R322, R324, R325, R347); what a poisoned slot asks for is not known (log entry 25). -/
def takeMgmt (s : State) : State :=
  let x := getQueue s mgmtQueue
  if !x.live || x.stopped then s
  else if x.skip.contains x.cons.toNat then
    advanceQueue mgmtQueue (setQueue mgmtQueue { x with skip := x.skip.filter (fun i => i != x.cons.toNat) } s)
  else match frontPlace s physCtx (slotAddr x x.cons.toNat) .feWrite with
    | .ok (_, loc) =>
      if !readFe s 0 loc then s
      else
        let s1 := advanceQueue mgmtQueue s
        if isPoisoned s 0 loc 64 then s1 else issueMgmt (mgmtOf ((List.range 64).map (fun i => readByte s 0 loc i))) s1
    | _ => s

/-- The steward's next command (R347): one at a time, in the order of the queue. -/
def serveMgmt (s : State) : State :=
  if !s.fw.running || s.power.off || mgmtOpen s || s.agenda.any isMgmt then s
  else match s.mgmtHeld with
    | i :: l => due i { s with mgmtHeld := l }
    | [] => takeMgmt s

/-- What every step does at its end (log entry 3): the operations that may enter their barrows do (R291), the steward takes its next command (R347), then the counters of time, the progress
timers, the step's number, and what the ports send as time passes, and the stores meet their errors (R394); a time counter that runs at half rate loses as much on the reference as it advances (R416). -/
def tick (before : State) : State :=
  let s := serveMgmt (enterBarrows before)
  let ns := elapsed s
  let s1 := mapGroups (timerRuns s) (fun g => { g with noProg := g.noProg + ns }) (mapGroups (fun _ => true) (tickWaited s) s)
  meetErrors <| sendPorts { s1 with
    steps := s.steps + 1, time := s.time + dw ns, last := .ok,
    tbase := if s.tbase.inrota then slewTime ns s.tbase else { s.tbase with ahead := s.tbase.ahead - ns },
    cores := s.cores.map (fun e => (e.1, tickCore s.steps e.1 e.2)) }

/-! ### The group areas -/

/-- One 16-byte shelf entry (R224). -/
def entryBytes (pc : DWord) (mrg cont : Bool) (mask : Nat) : List Byte :=
  bytesLE 8 (pc.toNat / 4 * 4 + (if mrg then 2 else 0) + (if cont then 1 else 0)) ++ bytesLE 8 mask

/-- The entry with an index of a group's shelf (R224); a free one holds zeros. -/
def shelfEntry (g : Group) (i : Nat) : List Byte :=
  match g.shelf.find? (fun t => t.entry == i || (g.lgw == 7 && t.entry + 1 == i)) with
  | some t =>
    let up := t.entry != i
    entryBytes t.pc t.mrg up (if up then t.mask.toNat / 2 ^ 64 else t.mask.toNat % 2 ^ 64)
  | none => bytesLE 16 0

/-- The offset of a group's shelf in its team's allocation (R218). -/
def shelfOffset (g : Group) : Nat := g.hdr.scratch + g.base / 8 * (16 * g.hdr.shelf + g.hdr.rckpt)

/-- The code of a saved register's shape (R30). -/
def savedShape : RegVal → Nat
  | .u _ => 0
  | .a _ _ => 1
  | .g _ => 2

/-- The bytes of a saved register (R30) at a width. -/
def savedBytes (w : Nat) : RegVal → List Byte
  | .u v => bytesLE 4 v.toNat
  | .a b s => bytesLE 4 b.toNat ++ bytesLE 4 s.toNat
  | .g l => (List.range w).flatMap (fun i => bytesLE 4 (l.getD i 0).toNat)

/-- The checkpoint area of a remote region from the shape map on (R30, R197): the shapes, 3 for a register that is not saved, and the
saved values in increasing register number. -/
def savedPart (w : Nat) (r : RemoteRegion) : List Byte :=
  let val := fun (k : Nat) => Sparse.get (.u 0) r.saved k
  let code := fun (k : Nat) => if r.seen.contains k then savedShape (val k) else 3
  (List.range 60).flatMap (fun j => bytesLE 1 (code (4 * j) + 4 * code (4 * j + 1) + 16 * code (4 * j + 2) + 64 * code (4 * j + 3))) ++
  bytesLE 4 0 ++ ((List.range 240).filter (fun k => r.seen.contains k)).flatMap (fun k => savedBytes w (val k))

/-- The scratchpad areas of a group after a change of its shelf or of what its remote region has saved (R197, R224). -/
def syncArea (before : Group) (g : Group) (s : State) : State :=
  let s1 := if before.shelf = g.shelf then s
    else writeArea g.team (.scr g.follower (shelfOffset g)) ((List.range g.hdr.shelf).flatMap (shelfEntry g)) s
  match g.region with
  | some r => if r.seen.isEmpty || before.region.map (·.seen) = some r.seen then s1
      else writeArea g.team (.scr g.follower (rckpOffset g + 0x90)) (savedPart (width g) r) s1
  | none => s1

/-- The scratchpad areas of every group, as they were before a step and are after it. -/
def syncAreas (before s : State) : State :=
  (groups s).foldl (fun s g => syncArea ((findGroup g.id before).getD Group.vacant) g s) s

/-! ### The plan of a step -/

/-- The issue turn that may take place (R228). -/
def issuePlan (s : State) : Option Plan :=
  match chooseGroup s with
  | some g => (candidate s g).map (fun t => issueTurn g t s)
  | none => none

/-- An event of the package. -/
def eventPlan (s : State) : Option Plan := (nextInternal s).map (fun e => .run e s)

/-- What the next step does where neither the calendar nor the agenda names anything: an issue turn or an event of the package, in turn. -/
def planIssue (s : State) : Plan :=
  let first := if s.steps % 2 = 0 then issuePlan s else eventPlan s
  match first with
  | some p => p
  | none => match (if s.steps % 2 = 0 then eventPlan s else issuePlan s) with
    | some p => p
    | none => .done s

/-- Whether an event is one of the calendar's. -/
def isCalendar : Instr → Bool
  | .rotaLeave => true
  | .headerFix _ => true
  | .slotStart _ => true
  | _ => false

/-- What the next step does: what the calendar brings about, which an event of the calendar at the head of the agenda stands for; else the event
at the head of the agenda, where an instruction word stands for an issue turn (log entry 5). -/
def plan (s : State) : Plan :=
  match s.agenda, calendarDue s with
  | i :: l, c =>
    if c.isNone || isCalendar i then (if isWord i then planIssue { s with agenda := l } else .run i { s with agenda := l })
    else (match c with | some e => .run e s | none => .done s)
  | [], some e => .run e s
  | [], none => planIssue s

end Sys2Proof.Machine
end

