-- ==== Sys2Proof/Machine/Step.lean ====
section
/-! DEFINITION. One step of the package, and the placing of one instruction where the next step fetches. -/

namespace Sys2Proof.Machine

/-- What follows what a step has run: the signature and the progress of an instruction (R401, R407), the end of a restore (R366), the
saves of groups that wait in ENQ (R192), the failure of operations to packages that are lost (R300), and the status of INVALs (R355). -/
def afterStep (i : Instr) (before t : State) : State := endInvals (failLostAny (swapEnqs (endRestore before.cur.id (afterInstr i before t))))

/-- What a step that began in s does after exec has answered. -/
def afterExec (s : State) (i : Instr) (before : State) : Host.Outcome State Fault Refusal → Host.Outcome State Fault Refusal
  | .next t => .next (tick (markMoves s (syncAreas before (afterStep i before t))))
  | .fault f => .fault f
  | .refused r => .refused r

/-- One step: an event or an instruction runs, then time passes. -/
def step (s : State) : Host.Outcome State Fault Refusal :=
  match plan s with
  | .run i t => afterExec s i t (exec i t)
  | .done t => .next (tick (markMoves s (syncAreas s t)))

/-- Where withFetchWord places its instruction. -/
def fetchBase : DWord := 0x1000

/-- The group that withFetchWord makes ready (log entry 13): 8 lanes in one strand, 240 general registers, a handler. -/
def fetchGroup (id : Nat) : Group :=
  { Group.vacant with
    live := true, id := id, team := 1, gang := 1, lgw := 3,
    hdr := { KHeader.none with n := 240, ng := 240, lgw := 3, team := 8, entry := fetchBase, handler := fetchBase + 0x1000 },
    kmask := 0xFF, strand := newStrand fetchBase 0xFF false 0 }

/-- The page that withFetchWord maps: 1 GiB of device memory, with every permission. -/
def fetchPage : TlbEntry :=
  { part := 0, core := none, va := 0, size := 2 ^ 30, pa := 0, perm := ⟨true, true, true, true, true⟩, mtype := .device, dirty := true }

/-- s with the instruction word w where the next step fetches: one group is loaded and ready, its context maps the page it
runs from, and nothing else is due (log entry 13). -/
def State.withFetchWord (s : State) (nbits w : Nat) : State :=
  if nbits ≤ 32 then
    { s with
      agenda := [], cur := fetchGroup s.nextId, others := [], nextId := s.nextId + 1,
      mem := writeCells s.mem fetchBase.toNat (bytesLE 4 w),
      poison := Sparse.set false s.poison (fetchBase.toNat / 64) false,
      ctxs := Sparse.set Ctx.vacant s.ctxs 0 { Ctx.vacant with live := true, affinity := 1, tlb := [fetchPage] },
      gangs := Sparse.set Gang.vacant s.gangs 1 { Gang.vacant with status := .committed, seq := 1 },
      teams := Sparse.set Team.vacant s.teams 1 { Team.vacant with status := .running, id := 1, gang := 1 } }
  else s

end Sys2Proof.Machine
end

