-- ==== Sys2Proof/Safety.lean ====
section
/-! DEFINITION. What counts as a safe run, and the terms in which the statements say what an instruction finds and what it leaves. -/

namespace Sys2Proof.Safety

open Sys2Proof Sys2Proof.Machine

/-- A step is safe where it answers a next state: no fault and no refusal. -/
def stepSafe (s : State) : Prop := ∃ t, step s = .next t

/-- A run of n steps is safe where every step of it is. -/
def runSafe : Nat → State → Prop
  | 0, _ => True
  | n + 1, s => ∃ t, step s = .next t ∧ runSafe n t

/-! ### What an instruction word finds -/

/-- No check of R77, steps 4 and 5, traps, and no source that the instruction reads is poisoned (R396). -/
def Clean (i : Instr) (s : State) : Prop := wordTrap i s.cur = none ∧ poisonedSource i s.cur = none

/-- The registers that a destination operand names: none for $zero (R45). -/
def destRegs (g : Group) (o : Opnd) : List Nat := if 0xF0 ≤ o.code.toNat then [] else (List.range o.span).map (fun k => effReg g o + k)

/-- No register of the destination is narrow, or the result is U whatever the destination held before (R25 to R27). -/
def NarrowOk (s : State) (o : Opnd) (srcs : List RegVal) : Prop :=
  ∀ r ∈ destRegs s.cur o, narrow s.cur r = false ∨
    ((readReg s.cur r).isG = false ∧ srcs.all RegVal.isU = true ∧ (enabled s.cur = 0 ∨ enabled s.cur = residentLanes s.cur))

/-! ### What it leaves -/

/-- The strand at the next instruction. -/
def nextStrand (t : Strand) : Strand := { t with pc := t.pc + 4, replay := none }

/-- Every byte of memory, of every scratchpad and of the host's memory reads as before. -/
def SameBytes (s t : State) : Prop := ∀ tm l k, readByte t tm l k = readByte s tm l k

/-- Nothing but the group at the issue port has changed, and no byte of memory. -/
def GroupOnly (s t : State) : Prop := t = { s with cur := t.cur } ∧ SameBytes s t

/-- The frame of an instruction that writes registers: nothing has changed but the registers of the destination, their poison, what an
open remote region keeps of them (R197), and the PC. -/
def RegsOnly (s t : State) (o : Opnd) : Prop :=
  t = { s with cur := { s.cur with regs := t.cur.regs, rpoison := t.cur.rpoison, region := t.cur.region,
                                   strand := nextStrand s.cur.strand } } ∧
  (∀ r, r ∉ destRegs s.cur o →
    readReg t.cur r = readReg s.cur r ∧ Sparse.get 0 t.cur.rpoison r = Sparse.get 0 s.cur.rpoison r) ∧
  (s.cur.region = none → t.cur.region = none) ∧ SameBytes s t

/-- Word k of the destination holds bits [32k+31:32k] of f l in every enabled lane l, and its old value in the other lanes that have
not exited. -/
def LaneResult (s t : State) (o : Opnd) (f : Nat → Nat) : Prop :=
  o.code.toNat < 0xF0 → ∀ k < o.span, ∀ l < 128, l < width s.cur → s.cur.exited.getLsbD l = false →
    opLane t o k l = if (enabled s.cur).getLsbD l then wd (f l / 2 ^ (32 * k)) else opLane s o k l

/-- An instruction that computes f in every enabled lane and writes it to a destination: it completes wherever no narrow register would
become G, and otherwise it completes or traps SHAPE with the number of a narrow register of its destination (R25 to R27). -/
def WritesLanes (i : Instr) (s : State) (o : Opnd) (srcs : List RegVal) (f : Nat → Nat) : Prop :=
  (NarrowOk s o srcs → ∃ t, exec i s = .next t ∧ RegsOnly s t o ∧ LaneResult s t o f) ∧
  ∃ t, exec i s = .next t ∧ ((RegsOnly s t o ∧ LaneResult s t o f) ∨
    ∃ r ∈ destRegs s.cur o, narrow s.cur r = true ∧ t = takeTrap (trapOf .shape (dw r)) s)

/-- An instruction that writes a predicate in its enabled lanes (R32): p0 is not written. -/
def WritesPred (i : Instr) (s : State) (p : Nat) (v : Nat → Bool) : Prop :=
  ∃ t, exec i s = .next t ∧
    t = { s with cur := { s.cur with preds := t.cur.preds, strand := nextStrand s.cur.strand } } ∧
    (∀ q, q ≠ p ∨ p = 0 → readPred t.cur q = readPred s.cur q) ∧
    (p ≠ 0 → ∀ l < 128, l < width s.cur →
      (readPred t.cur p).getLsbD l = if (enabled s.cur).getLsbD l then v l else (readPred s.cur p).getLsbD l) ∧
    SameBytes s t

/-- An instruction that does what f says to the group at the issue port, and nothing else. -/
def DoesToGroup (i : Instr) (s : State) (f : Group → Group) : Prop :=
  ∃ t, exec i s = .next t ∧ t = { s with cur := f s.cur } ∧ SameBytes s t

/-- An instruction that traps. -/
def Traps (i : Instr) (s : State) (t : Trap) : Prop := exec i s = .next (takeTrap t s)

end Sys2Proof.Safety
end

