-- ==== Sys2Proof/Certificates/Slice0/Obligations.lean ====
section
/-! DEFINITION. The statements about the model, each a proposition; the docstrings name the rules of spec/ that they come from. -/

open Sys2Proof Sys2Proof.Machine Sys2Proof.Safety
/-! ### Decoding and encoding -/

/-- Words written out from the encodings of R80 to R83 (`add v4, v5, v6`, `ktop v4, v5, v6`, `fence.acq device`, `rett` and others)
decode to the instructions that they stand for. -/
def Obligations.DecodedWords : Prop :=
  decode 0x20040506 = .add 4 5 6 ∧ decode 0x58040506 = .ktop 4 5 6 ∧ decode 0x73000002 = .fence 0 2 ∧ decode 0xA0040800 = .acfg 4 8 ∧
  decode 0xA1040506 = .bid 4 5 6 ∧ decode 0x01000000 = .nop ∧ decode 0xB2000000 = .rett ∧ decode 0x36041234 = .li 4 0x1234 ∧
  decode 0x00000000 = .illegalWord 0 ∧ decode 0x01000001 = .unassignedCodeWord 0x01000001

/-- Every operand of every instruction word survives encoding and decoding: R77's fates of the words that are no instruction among them. -/
def Obligations.DecodeEncode : Prop := ∀ i : Instr, wellFormed i = true → ∀ w, encode i = some w → decode w = i

/-- Every word has one fate (R77), and none of its bits is lost: what the decoder answers encodes to the word again. -/
def Obligations.EncodeDecode : Prop := ∀ w : BitVec 32, encode (decode w) = some w ∧ wellFormed (decode w) = true

/-! ### The step -/

/-- R222, R228: where nothing else is due, the group that may issue runs the instruction that the four bytes at the PC of its candidate
strand decode to, and then the signature (R401), the restore's end, lost packages, the shelf's entries (R224) and the passage of time
follow; a candidate that stands where another strand stands merges with it instead (R227).

R78, R152: the word at a plain address whose page the core's TLB holds, with the right to execute, is the four bytes there, the
lowest address lowest, and the fetch changes nothing.

What a step chooses where nothing is due, and the passage of time, are the model's (log entries 3, 4 and 5). -/
def Obligations.StepRunsDecoded : Prop :=
  ((∀ (s : State) (g : Group) (t u : Strand), s.agenda = [] → calendarDue s = none → s.steps % 2 = 0 → chooseGroup s = some g →
    candidate s g = some t → mergePartner t (consideredStrands g) = some u →
    ∃ v, exec (.strandMerge g.id) s = .next v ∧ step s = .next (tick (markMoves s (syncAreas s (afterStep (.strandMerge g.id) s v))))) ∧
  ∀ (s s1 s2 : State) (g : Group) (t : Strand) (w : BitVec 32),
    s.agenda = [] → calendarDue s = none → s.steps % 2 = 0 → chooseGroup s = some g → candidate s g = some t →
    mergePartner t (consideredStrands g) = none →
    s1 = modCur (fun h => noteTurn (withStrand t h)) (focus g.id s) → s1.cur.efails = [] →
    fetchAt s1.cur.strand.pc s1 = (.word w, s2) →
    (∀ u, exec (decode w) s2 = .next u → step s = .next (tick (markMoves s (syncAreas s2 (afterStep (decode w) s2 u))))) ∧
    (∀ f, exec (decode w) s2 = .fault f → step s = .fault f) ∧ (∀ r, exec (decode w) s2 = .refused r → step s = .refused r)) ∧
  (∀ (s : State) (pc : DWord) (va pa : Nat) (m : MemType),
    addrForm s pc = .plain va → translate s.cur.ctx s.cur.part s.cur.core va .fetch s = (.ok pa m, s) →
    isPoisoned s s.cur.team (placeOf pa m) 4 = false →
    ∃ w : BitVec 32, fetchAt pc s = (.word w, s) ∧
      ∀ k < 4, w.extractLsb' (8 * k) 8 = readByte s s.cur.team (placeOf pa m) k)

/-- R110: NOP does nothing but move its strand to the next instruction; its word is 0x0100_0000. -/
def Obligations.NopDoesNothing : Prop :=
  decode 0x01000000 = .nop ∧ ∀ s, Clean .nop s → DoesToGroup .nop s (fun g => { g with strand := nextStrand g.strand })

/-! ### Integer and bitwise instructions -/

/-- The three-register integer instructions and the functions that R102 gives them. -/
def intThrees : List ((RegCode → RegCode → RegCode → Instr) × IntFn) :=
  [(.add, .add), (.sub, .sub), (.mul, .mul), (.mulh, .mulh), (.mad, .mad), (.div, .div), (.rem, .rem), (.min, .min), (.max, .max),
   (.absd, .absd), (.shl, .shl), (.shr, .shr), (.rol, .rol)]

/-- The bitwise instructions of two sources. -/
def bitThrees : List ((RegCode → RegCode → RegCode → Instr) × (Word → Word → Word)) :=
  [(.and, fun x y => x &&& y), (.or, fun x y => x ||| y), (.xor, fun x y => x ^^^ y), (.andn, fun x y => x &&& ~~~y)]

/-- The one-source integer instructions with the function of an element that R104 gives: ty the GM type, x the element's bits. -/
def intUnaries : List ((RegCode → RegCode → Instr) × (Nat → Bool → Nat → Nat)) :=
  [(.popc, fun ty _ x => popCount (tyWidth ty) x), (.clz, fun ty _ x => tyWidth ty - bitLength (tyWidth ty) x),
   (.brev, fun ty _ x => reverseBits (tyWidth ty) x), (.neg, fun ty sat x => fitTy ty sat (0 - intOf ty x)),
   (.abs, fun ty sat x => fitTy ty sat (((intOf ty x).natAbs : Nat) : Int))]

/-- R97, R102: each enabled lane of d receives, element by element, the function of the lane's values of a and b (and of d for MAD),
whatever the shapes of the operands (R24, R25): a shape never changes a value.

R102: the results on one element, for the 32-bit types; x and y are the elements' bits. Without saturation the exact result is taken
modulo 2^32; a division by zero gives all ones, and a remainder by zero the dividend.

R104: POPC, CLZ, BREV, NEG and ABS act on the elements of a. -/
def Obligations.IntegerArithmetic : Prop :=
  (∀ p ∈ intThrees, ∀ (d a b : RegCode) (s : State), Clean (p.1 d a b) s →
    WritesLanes (p.1 d a b) s (tyOp s.cur (wrOp d))
      (opWords s (tyOp s.cur (rdOp 1 a)) ++ opWords s (tyOp s.cur (rdOp 2 b)) ++
        (if p.2 = .mad then opWords s (tyOp s.cur (wrOp d)) else []))
      (fun l => mapElems (gmType s.cur) (intElem p.2 (gmType s.cur) (gmSat s.cur))
        (opNat s (tyOp s.cur (rdOp 1 a)) l) (opNat s (tyOp s.cur (rdOp 2 b)) l) (opNat s (tyOp s.cur (wrOp d)) l))) ∧
  (∀ x y z : BitVec 32,
    intElem .add 0 false x.toNat y.toNat z.toNat = (x + y).toNat ∧
    intElem .sub 0 false x.toNat y.toNat z.toNat = (x - y).toNat ∧
    intElem .mul 0 false x.toNat y.toNat z.toNat = (x * y).toNat ∧
    intElem .mad 0 false x.toNat y.toNat z.toNat = (x * y + z).toNat ∧
    intElem .add 1 true x.toNat y.toNat z.toNat = min (x.toNat + y.toNat) (2 ^ 32 - 1) ∧
    intElem .sub 1 true x.toNat y.toNat z.toNat = x.toNat - y.toNat ∧
    intElem .mulh 1 false x.toNat y.toNat z.toNat = x.toNat * y.toNat / 2 ^ 32 ∧
    (y = 0 → intElem .div 0 false x.toNat y.toNat z.toNat = 2 ^ 32 - 1 ∧ intElem .rem 0 false x.toNat y.toNat z.toNat = x.toNat) ∧
    (y ≠ 0 → intElem .div 1 false x.toNat y.toNat z.toNat = x.toNat / y.toNat ∧
      intElem .rem 1 false x.toNat y.toNat z.toNat = x.toNat % y.toNat) ∧
    intElem .min 1 false x.toNat y.toNat z.toNat = min x.toNat y.toNat ∧
    intElem .max 1 false x.toNat y.toNat z.toNat = max x.toNat y.toNat ∧
    intElem .shl 1 false x.toNat y.toNat z.toNat = (x <<< (y.toNat % 32)).toNat ∧
    intElem .shr 1 false x.toNat y.toNat z.toNat = (x >>> (y.toNat % 32)).toNat ∧
    intElem .shr 0 false x.toNat y.toNat z.toNat = (x.sshiftRight (y.toNat % 32)).toNat ∧
    intElem .rol 1 false x.toNat y.toNat z.toNat = (x.rotateLeft (y.toNat % 32)).toNat) ∧
  (∀ p ∈ intUnaries, ∀ (d a : RegCode) (s : State), Clean (p.1 d a) s →
    WritesLanes (p.1 d a) s (tyOp s.cur (wrOp d)) (opWords s (tyOp s.cur (rdOp 1 a)))
      (fun l => mapElems (gmType s.cur) (fun x _ _ => p.2 (gmType s.cur) (gmSat s.cur) x) (opNat s (tyOp s.cur (rdOp 1 a)) l) 0 0))

/-- The immediate forms with their functions of an element (R103): the immediate of ADDI is sign-extended, the counts of SHLI and SHRI are
taken modulo the element width, and the immediate of ANDI is zero-extended. -/
def intImmediates : List ((RegCode → RegCode → BitVec 8 → Instr) × (Nat → Bool → BitVec 8 → Nat → Nat)) :=
  [(.addi, fun ty sat i x => fitTy ty sat (intOf ty x + i.toInt)),
   (.shli, fun ty sat i x => fitTy ty sat (intOf ty x * ((2 ^ (i.toNat % tyWidth ty) : Nat) : Int))),
   (.shri, fun ty _ i x => wrapTo (tyWidth ty) (intOf ty x / ((2 ^ (i.toNat % tyWidth ty) : Nat) : Int))),
   (.andi, fun _ _ i x => x &&& i.toNat)]

/-- R103: ADDI, SHLI, SHRI and ANDI act on the elements of a, whatever its shape.

R103, R109, R121: LI gives its zero-extended immediate, LIH puts its immediate above the low half of its destination, which must be
U, GETM gives GM, and MOVP gives 1 where the predicate is set. -/
def Obligations.ImmediateForms : Prop :=
  (∀ p ∈ intImmediates, ∀ (d a i : RegCode) (s : State), Clean (p.1 d a i) s →
    WritesLanes (p.1 d a i) s (tyOp s.cur (wrOp d)) (opWords s (tyOp s.cur (rdOp 1 a)))
      (fun l => mapElems (gmType s.cur) (fun x _ _ => p.2 (gmType s.cur) (gmSat s.cur) i x) (opNat s (tyOp s.cur (rdOp 1 a)) l) 0 0)) ∧
  ((∀ (d : RegCode) (i : BitVec 16) (s : State), Clean (.li d i) s → WritesLanes (.li d i) s (wrOp d) [] (fun _ => i.toNat)) ∧
  (∀ (d : RegCode) (i : BitVec 16) (s : State), Clean (.lih d i) s → (enabled s.cur = 0 ∨ mustBeU s (rwOp d) = none) →
    WritesLanes (.lih d i) s (wrOp d) [] (fun _ => 2 ^ 16 * i.toNat + (opLane s (rwOp d) 0 0).toNat % 2 ^ 16)) ∧
  (∀ (d : RegCode) (i : BitVec 16) (s : State) (t : Trap), Clean (.lih d i) s → enabled s.cur ≠ 0 → mustBeU s (rwOp d) = some t →
    Traps (.lih d i) s t) ∧
  (∀ (d : RegCode) (s : State), Clean (.getm d) s → WritesLanes (.getm d) s (wrOp d) [] (fun _ => s.cur.gm.toNat)) ∧
  (∀ (d : RegCode) (p : BitVec 3) (s : State), Clean (.movpToRegister d p) s →
    WritesLanes (.movpToRegister d p) s (wrOp d) (if p = 0 then [] else [.g []])
      (fun l => boolNat (p = 0 || (readPred s.cur p.toNat).getLsbD l))))

/-- R101, R102, R104: AND, OR, XOR, ANDN and NOT act on whole registers under every GM type; MOV copies the value.

R105: BFX takes a field out of a (sign-extended under i32), and BFI puts one into d. -/
def Obligations.BitwiseAndFields : Prop :=
  ((∀ p ∈ bitThrees, ∀ (d a b : RegCode) (s : State), Clean (p.1 d a b) s →
    WritesLanes (p.1 d a b) s (tyOp s.cur (wrOp d)) (opWords s (tyOp s.cur (rdOp 1 a)) ++ opWords s (tyOp s.cur (rdOp 2 b)))
      (fun l => (p.2 (opLane s (tyOp s.cur (rdOp 1 a)) 0 l) (opLane s (tyOp s.cur (rdOp 2 b)) 0 l)).toNat +
        2 ^ 32 * (p.2 (opLane s (tyOp s.cur (rdOp 1 a)) 1 l) (opLane s (tyOp s.cur (rdOp 2 b)) 1 l)).toNat)) ∧
  (∀ (d a : RegCode) (s : State), Clean (.not d a) s →
    WritesLanes (.not d a) s (tyOp s.cur (wrOp d)) (opWords s (tyOp s.cur (rdOp 1 a)))
      (fun l => (~~~(opLane s (tyOp s.cur (rdOp 1 a)) 0 l)).toNat + 2 ^ 32 * (~~~(opLane s (tyOp s.cur (rdOp 1 a)) 1 l)).toNat)) ∧
  (∀ (d a : RegCode) (s : State), Clean (.mov d a) s →
    WritesLanes (.mov d a) s (tyOp s.cur (wrOp d)) (opWords s (tyOp s.cur (rdOp 1 a)))
      (fun l => (opLane s (tyOp s.cur (rdOp 1 a)) 0 l).toNat + 2 ^ 32 * (opLane s (tyOp s.cur (rdOp 1 a)) 1 l).toNat))) ∧
  ((∀ (d a b : RegCode) (s : State), Clean (.bfx d a b) s →
    WritesLanes (.bfx d a b) s (wrOp d) (opWords s (rdOp 1 a) ++ opWords s (rdOp 2 b))
      (fun l => bfxLane (gmType s.cur == 0) (opLane s (rdOp 1 a) 0 l) (opLane s (rdOp 2 b) 0 l))) ∧
  (∀ (d a b : RegCode) (s : State), Clean (.bfi d a b) s →
    WritesLanes (.bfi d a b) s (wrOp d) (opWords s (rwOp d) ++ opWords s (rdOp 1 a) ++ opWords s (rdOp 2 b))
      (fun l => bfiLane (opLane s (rwOp d) 0 l) (opLane s (rdOp 1 a) 0 l) (opLane s (rdOp 2 b) 0 l))))

/-- R106: SEL gives each enabled lane a where the old d is not zero and b otherwise, over one register, or over pairs under the 64-bit types,
whatever the type. -/
def Obligations.SelectByLane : Prop :=
  ∀ (d a b : RegCode) (s : State), Clean (.sel d a b) s →
    WritesLanes (.sel d a b) s (tyOp s.cur (wrOp d))
      (opWords s (tyOp s.cur (wrOp d)) ++ opWords s (tyOp s.cur (rdOp 1 a)) ++ opWords s (tyOp s.cur (rdOp 2 b)))
      (fun l => if opNat s (tyOp s.cur (wrOp d)) l ≠ 0 then opNat s (tyOp s.cur (rdOp 1 a)) l else opNat s (tyOp s.cur (rdOp 2 b)) l)

/-! ### Predicates -/

/-- The functions of PLOG by their codes (R81, R108). -/
def plogFns : List (BitVec 5 × (Bool → Bool → Bool)) :=
  [(0, fun x y => x && y), (1, fun x y => x || y), (2, fun x y => x ^^ y), (3, fun x y => x && !y), (4, fun x y => x || !y)]

/-- R108: PLOG writes, in each enabled lane, predicate d with its function of predicates a and b; `plog.andn p1, p2, p3` is 0x3519_0203. -/
def Obligations.PredicateLogic : Prop :=
  decode 0x35190203 = .plog 3 1 2 3 ∧
  ∀ f ∈ plogFns, ∀ (p a b : BitVec 3) (s : State), Clean (.plog f.1 p a b) s →
    WritesPred (.plog f.1 p a b) s p.toNat (fun l => f.2 ((readPred s.cur a.toNat).getLsbD l) ((readPred s.cur b.toNat).getLsbD l))

/-- R120: ELECT sets predicate d to 1 in the lowest enabled lane and to 0 in the other enabled lanes; with no lane enabled it writes nothing;
`elect p1` is 0x1C01_0000. -/
def Obligations.ElectLowest : Prop :=
  decode 0x1C010000 = .elect 1 ∧
  ∀ (p : BitVec 3) (s : State), Clean (.elect p) s →
    WritesPred (.elect p) s p.toNat (fun l => !(List.range l).any (fun m => (enabled s.cur).getLsbD m)) ∧
    (enabled s.cur = 0 → ∃ t, exec (.elect p) s = .next t ∧ ∀ q < 8, readPred t.cur q = readPred s.cur q)

/-- What VOTE computes by its codes (R81, R132): whether predicate x is 1 in every enabled lane, in some enabled lane, or has one value in
all of them. -/
def voteFns : List (BitVec 5 × (Mask → Mask → Bool)) :=
  [(0, fun e x => (List.range 128).all (fun m => !e.getLsbD m || x.getLsbD m)),
   (1, fun e x => (List.range 128).any (fun m => e.getLsbD m && x.getLsbD m)),
   (2, fun e x => (List.range 128).all (fun m => !e.getLsbD m || x.getLsbD m) ||
     (List.range 128).all (fun m => !e.getLsbD m || !x.getLsbD m))]

/-- R132: VOTE writes predicate d in each enabled lane from predicate a over the enabled lanes; `vote.any p1, p2` is 0x5509_0200. -/
def Obligations.VoteOverEnabled : Prop :=
  decode 0x55090200 = .vote 1 1 2 ∧
  ∀ k ∈ voteFns, ∀ (p q : BitVec 3) (s : State), Clean (.vote k.1 p q) s →
    WritesPred (.vote k.1 p q) s p.toNat (fun _ => k.2 (enabled s.cur) (readPred s.cur q.toNat))

/-- R107, R109: CMP and MOVP write their predicate in the enabled lanes.

R107: the conditions of CMP on signed and unsigned 32-bit integers. -/
def Obligations.Comparisons : Prop :=
  ((∀ (c : BitVec 5) (p : BitVec 3) (a b : RegCode) (s : State), Clean (.cmp c p a b) s →
    WritesPred (.cmp c p a b) s p.toNat (fun l =>
      compareAs c.toNat (gmType s.cur) (opNat s (tyOp s.cur (rdOp 1 a)) l) (opNat s (tyOp s.cur (rdOp 2 b)) l))) ∧
  (∀ (p : BitVec 3) (a : RegCode) (s : State), Clean (.movpToPredicate p a) s →
    WritesPred (.movpToPredicate p a) s p.toNat (fun l => opLane s (rdOp 1 a) 0 l != 0))) ∧
  (∀ x y : BitVec 32,
    compareAs 0 0 x.toNat y.toNat = (x == y) ∧ compareAs 1 0 x.toNat y.toNat = (x != y) ∧
    compareAs 2 0 x.toNat y.toNat = x.slt y ∧ compareAs 3 0 x.toNat y.toNat = x.sle y ∧
    compareAs 4 0 x.toNat y.toNat = y.slt x ∧ compareAs 5 0 x.toNat y.toNat = y.sle x ∧
    compareAs 2 1 x.toNat y.toNat = x.ult y ∧ compareAs 5 1 x.toNat y.toNat = y.ule x)

/-! ### Floating point -/

/-- The floating-point instructions of two or three sources, whether they read d, and their functions of an element (R137, R138). -/
def floatThrees : List ((RegCode → RegCode → RegCode → Instr) × Bool × (Fmt → Nat → Nat → Nat → Nat → Nat)) :=
  [(.fadd, false, fun f m x y _ => faddF f m x y),
   (.fsub, false, fun f m x y _ => encodeF f m (sumF m [decodeF f x, (decodeF f y).neg])),
   (.fmul, false, fun f m x y _ => encodeF f m ((decodeF f x).mul (decodeF f y))),
   (.fma, true, fun f m x y z => encodeF f m (sumF m [(decodeF f x).mul (decodeF f y), decodeF f z])),
   (.fms, true, fun f m x y z => encodeF f m (sumF m [(decodeF f x).mul (decodeF f y), (decodeF f z).neg])),
   (.fdiv, false, fun f m x y _ => divF f m (decodeF f x) (decodeF f y)),
   (.fmin, false, fun f _ x y _ => minF f x y), (.fmax, false, fun f _ x y _ => maxF f x y)]

/-- The floating-point instructions of one source with their functions of an element (R139 to R141). -/
def floatUnaries : List ((RegCode → RegCode → Instr) × (Fmt → Nat → Nat → Nat)) :=
  [(.fsqrt, fun f m x => sqrtF f m (decodeF f x)), (.frcp, fun _ _ x => rcpF x), (.frsq, fun _ _ x => rsqF x),
   (.fex2, fun _ _ x => ex2F x), (.flg2, fun _ _ x => lg2F x), (.fsin, fun _ _ x => sinF x), (.fcos, fun _ _ x => cosF x),
   (.fabs, fun f _ x => signOp f false x), (.fneg, fun f _ x => signOp f (!signBit f x) x),
   (.frnd, fun f m x => rndF f m (decodeF f x)), (.fcls, fun f _ x => classMask f x)]

/-- R135 to R138, R142: each enabled lane of d receives, element by element, the exact result rounded once under the GM mode.

R139 to R141: the same for one source; where R140 leaves a choice of two neighbours, it is a free value (log entry 7).

R136, R138: NaN rules of the 32-bit format: FMIN and FMAX of two numbers order −0 below +0 and ignore one NaN; a sum of infinities of
opposite signs is the canonical NaN; 1 + 1 is 2; FMA rounds once. -/
def Obligations.FloatArithmetic : Prop :=
  ((∀ p ∈ floatThrees, ∀ (d a b : RegCode) (s : State), Clean (p.1 d a b) s →
    WritesLanes (p.1 d a b) s (tyOp s.cur (wrOp d))
      (opWords s (tyOp s.cur (rdOp 1 a)) ++ opWords s (tyOp s.cur (rdOp 2 b)) ++
        (if p.2.1 then opWords s (tyOp s.cur (wrOp d)) else []))
      (fun l => mapElems (gmType s.cur) (p.2.2 (fmtOf (gmType s.cur)) (gmRound s.cur))
        (opNat s (tyOp s.cur (rdOp 1 a)) l) (opNat s (tyOp s.cur (rdOp 2 b)) l) (opNat s (tyOp s.cur (wrOp d)) l))) ∧
  (∀ (d a b : RegCode) (s : State), Clean (.fscl d a b) s →
    WritesLanes (.fscl d a b) s (tyOp s.cur (wrOp d)) (opWords s (tyOp s.cur (rdOp 1 a)) ++ opWords s (rdOp 2 b))
      (fun l => mapElems (gmType s.cur)
        (fun x _ _ => scaleF (fmtOf (gmType s.cur)) (gmRound s.cur) (opLane s (rdOp 2 b) 0 l).toInt (decodeF (fmtOf (gmType s.cur)) x))
        (opNat s (tyOp s.cur (rdOp 1 a)) l) 0 0))) ∧
  (∀ p ∈ floatUnaries, ∀ (d a : RegCode) (s : State), Clean (p.1 d a) s →
    WritesLanes (p.1 d a) s (tyOp s.cur (wrOp d)) (opWords s (tyOp s.cur (rdOp 1 a)))
      (fun l => mapElems (gmType s.cur) (fun x _ _ => p.2 (fmtOf (gmType s.cur)) (gmRound s.cur) x)
        (opNat s (tyOp s.cur (rdOp 1 a)) l) 0 0)) ∧
  (minF f32 0x80000000 0 = 0x80000000 ∧ maxF f32 0x80000000 0 = 0 ∧ minF f32 0x7FC00000 0x3F800000 = 0x3F800000 ∧
  faddF f32 0 0x7F800000 0xFF800000 = f32.nan ∧ faddF f32 0 0x3F800000 0x3F800000 = 0x40000000 ∧
  fmaF f32 0 0x3F800001 0x3F800001 0xBF800002 = 0x28800000)

/-- R97, R143 to R147: CVT, DOT4, QNT8 and DQN8 complete in every state in which no check of their word traps and no narrow register would
become G: each enabled lane of d receives the converted elements of a, the old d plus the dot product of a and b, the packed word and the
scale code, or the eight dequantised values, over the registers that their spans give, and nothing else changes.

That a conversion to the source's own type goes through R54 too is the model's reading (log entry 19). -/
def Obligations.Conversions : Prop :=
  (∀ (d a x : RegCode) (s : State), Clean (.cvt d a x) s →
    WritesLanes (.cvt d a x) s (cvtDst (gmType s.cur) x.toNat d) (opWords s (cvtSrc (gmType s.cur) x.toNat a))
      (fun l => cvtLane (gmType s.cur) x.toNat (gmRound s.cur) (gmSat s.cur) (opAll s (cvtSrc (gmType s.cur) x.toNat a) l))) ∧
  (∀ (d a b : RegCode) (s : State), Clean (.dot4 d a b) s →
    WritesLanes (.dot4 d a b) s (wrOp d) (opWords s (rdOp 1 a) ++ opWords s (rdOp 2 b) ++ opWords s (rwOp d))
      (fun l => dotLane (gmType s.cur) (gmRound s.cur) (gmSat s.cur) (opNat s (rdOp 1 a) l) (opNat s (rdOp 2 b) l)
        (opNat s (rwOp d) l))) ∧
  (∀ (d a b : RegCode) (s : State), Clean (.qnt8 d a b) s →
    WritesLanes (.qnt8 d a b) s ((wrOp d).many 2 false) (opWords s ((rdOp 1 a).many 8 false) ++ opWords s (rdOp 2 b))
      (fun l =>
        let r := quantise8 ((List.range 8).map (fun k => (opLane s ((rdOp 1 a).many 8 false) k l).toNat)) (opLane s (rdOp 2 b) 0 l).toNat
        r.1 + 2 ^ 32 * r.2)) ∧
  (∀ (d a b : RegCode) (s : State), Clean (.dqn8 d a b) s →
    WritesLanes (.dqn8 d a b) s ((wrOp d).many 8 false) (opWords s ((rdOp 1 a).many 2 false) ++ opWords s (rdOp 2 b))
      (fun l => packEls 32 ((List.range 8).map (fun e =>
        dequantEl ((opLane s ((rdOp 1 a).many 2 false) 1 l).toNat % 256) (opLane s (rdOp 2 b) 0 l).toNat
          (bits (opLane s ((rdOp 1 a).many 2 false) 0 l).toNat (4 * e) 4)))))

/-! ### Between lanes -/

/-- R130: SHFL and SHFX give each enabled lane the value of a in the lane that b names, or the lane's own where that lane is no member;
QXCH permutes the values within each quad; BCST gives every enabled lane the value of the lane that b names.

R130, R131: BALLOT gives the enabled lanes in which the predicate holds, as words of 32 lanes; MATCH gives each member the members
that hold the same value. -/
def Obligations.LanesExchanged : Prop :=
  ((∀ (d a b : RegCode) (s : State), Clean (.shfl d a b) s →
    WritesLanes (.shfl d a b) s (wrOp d) (opWords s (rdOp 1 a) ++ opWords s (rdOp 2 b))
      (fun l => (shuffled s (rdOp 1 a) (opLane s (rdOp 2 b) 0 l).toNat l).toNat)) ∧
  (∀ (d a b : RegCode) (s : State), Clean (.shfx d a b) s →
    WritesLanes (.shfx d a b) s (wrOp d) (opWords s (rdOp 1 a) ++ opWords s (rdOp 2 b))
      (fun l => (shuffled s (rdOp 1 a) (wd l ^^^ opLane s (rdOp 2 b) 0 l).toNat l).toNat)) ∧
  (∀ (d a sel : RegCode) (s : State), Clean (.qxch d a sel) s →
    WritesLanes (.qxch d a sel) s (wrOp d) (opWords s (rdOp 1 a))
      (fun l => (opLane s (rdOp 1 a) 0 (l / 4 * 4 + bits sel.toNat (2 * (l % 4)) 2)).toNat)) ∧
  (∀ (d a b : RegCode) (s : State), Clean (.bcst d a b) s → (enabled s.cur = 0 ∨ mustBeU s (rdOp 2 b) = none) →
    WritesLanes (.bcst d a b) s (wrOp d) (opWords s (rdOp 1 a) ++ opWords s (rdOp 2 b))
      (fun l => (shuffled s (rdOp 1 a) (uWord s (rdOp 2 b)).toNat l).toNat)) ∧
  (∀ (d a b : RegCode) (s : State) (t : Trap), Clean (.bcst d a b) s → enabled s.cur ≠ 0 → mustBeU s (rdOp 2 b) = some t →
    Traps (.bcst d a b) s t)) ∧
  ((∀ (d : RegCode) (p : BitVec 3) (s : State), Clean (.ballot d p) s →
    WritesLanes (.ballot d p) s (maskDst s.cur d) []
      (fun _ => ((enabled s.cur &&& readPred s.cur p.toNat)).toNat)) ∧
  (∀ (d a : RegCode) (s : State), Clean (.matchLanes d a) s →
    WritesLanes (.matchLanes d a) s (maskDst s.cur d) [.g []]
      (fun l => if s.cur.kmask.getLsbD l then
        (maskOfLanes ((lanesOf (members s.cur)).filter (fun k =>
          opNat s (tyOp s.cur (rdOp 1 a)) k == opNat s (tyOp s.cur (rdOp 1 a)) l))).toNat else 0)))

/-- R133: GRED and GSCAN complete in every state in which no check of their word traps and no narrow register would become G: GRED gives
every enabled lane the combination of the members' values in increasing lane order; GSCAN that of the members up to
the lane, or below it for e = 1.

R148, R149, R206: HADM completes where its seed and b are U, n is 8, 16 or 32 and at most the width, and every block of an enabled lane is
complete: each enabled lane receives the element of the transform of its block. KTOP completes where its b keeps R206's checks: each enabled
lane receives its rank among the members; where b breaks one it traps.

That one member's NaN becomes canonical is the model's reading (log entry 43). -/
def Obligations.LanesReduced : Prop :=
  ((∀ (d a : RegCode) (x : BitVec 3) (s : State), Clean (.gred d a x) s →
    WritesLanes (.gred d a x) s (tyOp s.cur (wrOp d)) (opWords s (tyOp s.cur (rdOp 1 a)))
      (fun _ => combine s.cur x.toNat ((lanesOf (members s.cur)).map (opNat s (tyOp s.cur (rdOp 1 a)))))) ∧
  (∀ (d a : RegCode) (e : BitVec 1) (x : BitVec 3) (s : State), Clean (.gscan d a e x) s →
    WritesLanes (.gscan d a e x) s (tyOp s.cur (wrOp d)) [.g []]
      (fun l => combine s.cur x.toNat (((lanesOf (members s.cur)).filter (fun m => decide (m < l) || (e == 0 && m == l))).map
        (opNat s (tyOp s.cur (rdOp 1 a))))))) ∧
  ((∀ (d a b : RegCode) (s : State) (n : Nat), Clean (.hadm d a b) s → n = fieldW (uWord s (rdOp 2 b)) 0 6 →
    (enabled s.cur = 0 ∨
      ((opWord s ((rdOp 1 a).many 3 false) 1).isU = true ∧ (opWord s ((rdOp 1 a).many 3 false) 2).isU = true ∧ mustBeU s (rdOp 2 b) = none ∧
        (n = 8 ∨ n = 16 ∨ n = 32) ∧ n ≤ width s.cur ∧ hadmBlock n (effReg s.cur ((rdOp 1 a).many 3 false)) s.cur = none)) →
    WritesLanes (.hadm d a b) s (wrOp d) [.g []]
      (fun l => (hadamard ((uWord s (rdOp 2 b)).getLsbD 8)
        (pairOf (opLane s ((rdOp 1 a).many 3 false) 1 0) (opLane s ((rdOp 1 a).many 3 false) 2 0)) n
        ((List.range n).map (fun j => (opLane s ((rdOp 1 a).many 3 false) 0 (l / n * n + j)).toNat))).getD (l % n) 0)) ∧
  (∀ (d a b : RegCode) (s : State), Clean (.ktop d a b) s → (enabled s.cur = 0 ∨ ktopTrap s b = none) →
    WritesLanes (.ktop d a b) s (wrOp d) [.g []]
      (fun l => match rankOf l (ktopRanks (width s.cur) (fieldW (uWord s (rdOp 2 b)) 8 8) (fieldW (uWord s (rdOp 2 b)) 16 8)
          ((lanesOf (members s.cur)).filter (fun m => !isNanCode f32 (opLane s (rdOp 1 a) 0 m).toNat))
          (fun m => (opLane s (rdOp 1 a) 0 m).toNat)) with
        | some r => if r < fieldW (uWord s (rdOp 2 b)) 0 8 then (wd r).toNat else 0xFF
        | none => 0xFF)) ∧
  (∀ (d a b : RegCode) (s : State) (t : Trap), Clean (.ktop d a b) s → enabled s.cur ≠ 0 → ktopTrap s b = some t →
    Traps (.ktop d a b) s t))

/-! ### Control flow -/

/-- R76, R111, R225: a BR that all active lanes take moves the strand to the target, and one that none takes to the next instruction;
otherwise the lanes that do not take it go on at the next instruction, and those that take it become a strand at the target, which joins
a shelved strand there, takes a live place or a place on the shelf; without a place the strand is held at the branch, and swapped out
where the shelf has a strand (R226). -/
def Obligations.Branch : Prop :=
  ∀ (n : BitVec 1) (p : BitVec 3) (o : BitVec 20) (s : State) (target : DWord) (m : Mask), Clean (.br n p o) s →
    target = s.cur.strand.pc + 4 * o.signExtend 64 → m = takenLanes n p s.cur →
    (m = activeLanes s.cur → DoesToGroup (.br n p o) s (gotoPc target)) ∧
    (m = 0 → m ≠ activeLanes s.cur → DoesToGroup (.br n p o) s (gotoPc (s.cur.strand.pc + 4))) ∧
    (m ≠ 0 → m ≠ activeLanes s.cur → s.cur.shelf.any (joins target s.cur.strand.hand) = false →
      s.cur.strand.mask &&& ~~~m ≠ 0 →
      ((liveStrands s.cur).length < 4 → DoesToGroup (.br n p o) s (fun g =>
        { g with strand := { g.strand with mask := g.strand.mask &&& ~~~m, pc := g.strand.pc + 4, replay := none },
                 rest := g.rest ++ [newStrand target m g.strand.hand (clkOf s)], steady := false })) ∧
      (4 ≤ (liveStrands s.cur).length → shelfRoom s.cur = true → DoesToGroup (.br n p o) s (fun g =>
        { g with strand := { g.strand with mask := g.strand.mask &&& ~~~m, pc := g.strand.pc + 4, replay := none },
                 shelf := g.shelf ++ [{ newStrand target m g.strand.hand (clkOf s) with entry := freeShelf g }], steady := false })) ∧
      (4 ≤ (liveStrands s.cur).length → shelfRoom s.cur = false → (s.cur.shelf = [] ∨ s.cur.inTrap = true) →
        DoesToGroup (.br n p o) s (fun g => { g with strand := { g.strand with hold := .split } })) ∧
      (∀ t l, 4 ≤ (liveStrands s.cur).length → shelfRoom s.cur = false → s.cur.shelf = t :: l → s.cur.inTrap = false →
        DoesToGroup (.br n p o) s (fun g =>
          { g with strand := { t with liveAt := clkOf s, entry := 0 }, lastSwap := clkOf s,
                   shelf := l ++ [{ g.strand with hold := .split, entry := freeShelf { g with shelf := l } }] }))) ∧
    (m ≠ 0 → m ≠ activeLanes s.cur → s.cur.shelf.any (joins target s.cur.strand.hand) = true →
      DoesToGroup (.br n p o) s (fun g =>
        { g with strand := { g.strand with mask := g.strand.mask &&& ~~~m, pc := g.strand.pc + 4, replay := none },
                 shelf := updateFirst (joins target g.strand.hand) (fun t => { t with mask := t.mask ||| m }) g.shelf,
                 steady := false }))

/-- What a call leaves (R112): the return address in v238:v239 of every active lane, and the strand at the target. -/
def CalledTo (i : Instr) (s : State) (target : DWord) : Prop :=
  ∃ t, exec i s = .next t ∧
    t = { s with cur := { s.cur with regs := t.cur.regs, rpoison := t.cur.rpoison, region := t.cur.region, strand := t.cur.strand } } ∧
    t.cur.strand = { s.cur.strand with pc := target, replay := none } ∧
    (∀ r, r ≠ 238 → r ≠ 239 → readReg t.cur r = readReg s.cur r) ∧
    (∀ l < width s.cur, (activeLanes s.cur).getLsbD l = true →
      pairOf ((readReg t.cur 238).lane l) ((readReg t.cur 239).lane l) = s.cur.strand.pc + 4) ∧
    SameBytes s t

/-- R112, R113: CALL, CALLR and JMPR, with the checks that come first, in their order: the only strand, then ALIGN with the lowest lane whose
target is no multiple of 4, then SHAPE for targets of CALLR that differ. -/
def Obligations.CallsAndJumps : Prop :=
  (∀ (o : BitVec 20) (s : State), Clean (.call o) s →
    (wholeStrand s.cur = true → CalledTo (.call o) s (s.cur.strand.pc + 4 * o.signExtend 64)) ∧
    (wholeStrand s.cur = false → Traps (.call o) s (trapOf .shape 0xEE))) ∧
  (∀ (a : RegCode) (s : State) (target : DWord), Clean (.callr a) s →
    (wholeStrand s.cur = false → Traps (.callr a) s (trapOf .shape 0xEE)) ∧
    (wholeStrand s.cur = true → targetAlign s ((rdOp 1 a).pair true) = none →
      (∀ l < 128, (activeLanes s.cur).getLsbD l = true → opPair s ((rdOp 1 a).pair true) l = target) → activeLanes s.cur ≠ 0 →
      CalledTo (.callr a) s target)) ∧
  (∀ (a : RegCode) (s : State) (target : DWord), Clean (.jmpr a) s → targetAlign s ((rdOp 1 a).pair true) = none →
    (∀ l < 128, (activeLanes s.cur).getLsbD l = true → opPair s ((rdOp 1 a).pair true) l = target) → activeLanes s.cur ≠ 0 →
    DoesToGroup (.jmpr a) s (fun g => { g with strand := { g.strand with pc := target, replay := none } })) ∧
  (∀ (a : RegCode) (s : State) (t : Trap), Clean (.jmpr a) s → targetAlign s ((rdOp 1 a).pair true) = some t → Traps (.jmpr a) s t) ∧
  (∀ (a : RegCode) (s : State) (target : DWord) (m : Mask) (rest : List (DWord × Mask)), Clean (.jmpr a) s →
    targetAlign s ((rdOp 1 a).pair true) = none → targetSets s ((rdOp 1 a).pair true) = (target, m) :: rest →
    DoesToGroup (.jmpr a) s (splitStrand (clkOf s) target m rest) ∧
    ∀ x ∈ (target, m) :: rest, ∀ l < 128, x.2.getLsbD l = true →
      (activeLanes s.cur).getLsbD l = true ∧ opPair s ((rdOp 1 a).pair true) l = x.1) ∧
  (∀ (o : Opnd) (s : State) (t : Trap), targetAlign s o = some t →
    ∃ l < 128, (activeLanes s.cur).getLsbD l = true ∧ opPair s o l &&& 3 ≠ 0 ∧ t = laneTrap .align l (opPair s o l) ∧
      ∀ m < l, (activeLanes s.cur).getLsbD m = true → opPair s o m &&& 3 = 0) ∧
  (∀ (a : RegCode) (s : State) (t : Trap), Clean (.callr a) s → wholeStrand s.cur = true →
    targetAlign s ((rdOp 1 a).pair true) = some t → Traps (.callr a) s t) ∧
  (∀ (a : RegCode) (s : State) (l m : Nat), Clean (.callr a) s → wholeStrand s.cur = true → targetAlign s ((rdOp 1 a).pair true) = none →
    l < 128 → m < 128 → (activeLanes s.cur).getLsbD l = true → (activeLanes s.cur).getLsbD m = true →
    opPair s ((rdOp 1 a).pair true) l ≠ opPair s ((rdOp 1 a).pair true) m →
    Traps (.callr a) s (trapOf .shape (dw (effReg s.cur ((rdOp 1 a).pair true)))))

/-- R114, R397, R401: EXIT retires the enabled lanes; the lanes that remain in the strand go on at the next instruction; an idempotent
region closes; STEADY falls where a lane of the group remains.

R116: SAFE does nothing but advance unless the group is pre-empt-pending and the strand is its only one; then it begins the save once
every counter is 0, at the save routine and with t7 over the save area, and holds the group until then.

R117, R397, R402: IDEM opens a region with what a restart needs, where the header allows it and the strand is the only one; SIGCK
compares the folded signature and then starts a new one. -/
def Obligations.ExitAndMarks : Prop :=
  (∀ s, Clean .exit s →
    (enabled s.cur = 0 → DoesToGroup .exit s (fun g => { g with strand := nextStrand g.strand })) ∧
    (enabled s.cur ≠ 0 → activeLanes s.cur &&& ~~~(enabled s.cur) ≠ 0 → DoesToGroup .exit s (fun g =>
      { g with exited := g.exited ||| enabled g, idemr := none,
               steady := g.steady && (residentLanes g &&& ~~~(enabled g) == 0),
               strand := { g.strand with mask := g.strand.mask &&& ~~~(enabled g), pc := g.strand.pc + 4, replay := none } })) ∧
    (enabled s.cur ≠ 0 → activeLanes s.cur &&& ~~~(enabled s.cur) = 0 → s.cur.rest = [] → s.cur.shelf = [] →
      DoesToGroup .exit s (fun g =>
        { g with exited := g.exited ||| enabled g, idemr := none, strand := Strand.none,
                 steady := g.steady && (residentLanes g &&& ~~~(enabled g) == 0) }))) ∧
  (∀ (i : BitVec 16) (s : State), Clean (.safe i) s →
    ((s.cur.preempt = false ∨ wholeStrand s.cur = false ∨ safeEntry s.cur i.toNat = none) →
      DoesToGroup (.safe i) s (fun g => { g with strand := nextStrand g.strand })) ∧
    (∀ e, safeEntry s.cur i.toNat = some e → s.cur.preempt = true → wholeStrand s.cur = true →
      (countersZero s.cur = false → DoesToGroup (.safe i) s (fun g => { g with strand := { g.strand with hold := .safe i.toNat } })) ∧
      (countersZero s.cur = true → ∃ t, exec (.safe i) s = .next t ∧ t.cur.strand.pc = e.save ∧ t.cur.strand.hold = .none ∧
        t.cur.saving = some (e.id, s.cur.saveArea) ∧ t.cur.idemr = none ∧
        (readTReg t.cur 7).frame = s.cur.saveArea ∧ (readTReg t.cur 7).base = s.cur.saveArea ∧ (readTReg t.cur 7).limit = e.bytes ∧
        t.cur.regs = s.cur.regs ∧ t.cur.preds = s.cur.preds ∧ t.mem = s.mem))) ∧
  ((∀ (i : BitVec 16) (s : State), Clean (.idem i) s →
    (s.cur.hdr.idem = false → DoesToGroup (.idem i) s (fun g => { g with strand := nextStrand g.strand })) ∧
    (s.cur.hdr.idem = true → wholeStrand s.cur = false →
      DoesToGroup (.idem i) s (fun g => { g with idemr := none, strand := nextStrand g.strand })) ∧
    (s.cur.hdr.idem = true → wholeStrand s.cur = true → ∃ t r, exec (.idem i) s = .next t ∧
      t = { s with cur := { s.cur with idemr := some r, strand := nextStrand s.cur.strand } } ∧
      r.pc = s.cur.strand.pc ∧ r.id = i.toNat ∧ r.lanes = s.cur.strand.mask ∧ r.sig = s.cur.sig ∧ r.steady = s.cur.steady ∧
      r.mrg = s.cur.strand.mrg ∧ r.first = s.nextId ∧ (s.cur.idemr = none → r.count = 0))) ∧
  (∀ (i : BitVec 16) (s : State), Clean (.sigck i) s →
    (s.cur.inTrap = true → DoesToGroup (.sigck i) s (fun g => { g with strand := nextStrand g.strand })) ∧
    (s.cur.inTrap = false → (sigCompares s.cur = false ∨ foldedSig s.cur.sig = i.setWidth 32) →
      DoesToGroup (.sigck i) s (fun g =>
        { g with sig := 0, steady := true, strand := { (nextStrand g.strand) with mrg := false } })) ∧
    (s.cur.inTrap = false → sigCompares s.cur = true → foldedSig s.cur.sig ≠ i.setWidth 32 →
      Traps (.sigck i) s (trapOf .sigMismatch (((i.setWidth 32 <<< 16) ||| foldedSig s.cur.sig).setWidth 64)))))

/-! ### Exceptions -/

/-- R47, R397: a class G trap of a group with a handler, outside handler code, saves its cause, value and PC, sets H, closes an open
idempotent region and moves the strand to the handler; a replay that is cut short keeps its mask (R154); nothing else of the group or of
the package changes.

R47, R404, R409: a class M trap, and a class G trap in handler code or without a handler, aborts the gang: the gang's state becomes
aborting with the cause, and the day book names it. -/
def Obligations.ExceptionEntry : Prop :=
  (∀ (t : Trap) (s : State), t.cause.classM = false → s.cur.inTrap = false → s.cur.hdr.handler ≠ 0 → s.cur.restoring = none →
    takeTrap t s = { s with last := .trapped, cur := { s.cur with
      tcause := tcauseOf t, tval := t.tval, tpc := (if t.after then s.cur.strand.pc + 4 else s.cur.strand.pc) &&& ~~~3#64, inTrap := true,
      idemr := none, stall := none, trapMask := s.cur.strand.mask, trapMrg := s.cur.strand.mrg, noProg := 0,
      replay := (match s.cur.strand.replay with | some m => some (s.cur.strand.pc, m) | none => s.cur.replay),
      strand := { s.cur.strand with pc := s.cur.hdr.handler, hold := .none, pend := 0, replay := none, hand := true } } }) ∧
  (∀ (t : Trap) (s : State), (t.cause.classM = true ∨ s.cur.inTrap = true ∨ s.cur.hdr.handler = 0) →
    (getGang (takeTrap t s) s.cur.gang).status = .aborting ∧
    (getGang (takeTrap t s) s.cur.gang).cause = BitVec.ofNat 8 t.cause.code ∧
    (takeTrap t s).agenda = .gangAbort s.cur.gang :: s.agenda ∧
    ∃ r, (takeTrap t s).daybook.getLast? = some r ∧ r.code = t.cause.code ∧ r.val = t.tval ∧ r.ctx = s.cur.ctx ∧
      r.kind = (if t.cause.classM then 0x01 else 0x02))

/-- R77, R115: TRAP and BRK take their trap in the lowest enabled lane, TRAP with the next PC; a word that is no instruction traps
ILLEGAL_OPCODE, or RESERVED_FIELD for a reserved field.

R212: RETT in handler code clears H, ends the handler's strands and resumes the trapping strand's lanes that have not exited at
SR_TPC; outside handler code it traps ILLEGAL_OPCODE. -/
def Obligations.TrapsAndReturns : Prop :=
  ((∀ (i : BitVec 16) (s : State) (l : Nat), Clean (.trap i) s → lowestLane (enabled s.cur) = some l →
    Traps (.trap i) s { cause := .trapInstr, lane := some l, tval := i.setWidth 64, after := true }) ∧
  (∀ (c : BitVec 24) (s : State) (l : Nat), Clean (.brk c) s → lowestLane (enabled s.cur) = some l →
    Traps (.brk c) s { cause := .breakpoint, lane := some l, tval := c.setWidth 64, after := false }) ∧
  (∀ (i : BitVec 16) (s : State), Clean (.trap i) s → enabled s.cur = 0 →
    DoesToGroup (.trap i) s (fun g => { g with strand := nextStrand g.strand })) ∧
  (∀ (c : BitVec 24) (s : State), Clean (.brk c) s → enabled s.cur = 0 →
    DoesToGroup (.brk c) s (fun g => { g with strand := nextStrand g.strand })) ∧
  (∀ (w : BitVec 32) (s : State), Traps (.illegalWord w) s (trapOf .illegalOpcode (w.setWidth 64))) ∧
  (∀ (w : BitVec 32) (s : State), Traps (.unassignedCodeWord w) s
    (trapOf (if selectorUnassigned w then .illegalOpcode else .reservedField) (w.setWidth 64)))) ∧
  (∀ s, Clean .rett s →
    (enabled s.cur ≠ 0 → s.cur.inTrap = true → s.cur.replay = none → s.cur.trapMask &&& ~~~s.cur.exited ≠ 0 →
      DoesToGroup .rett s (fun g =>
        { g with inTrap := false, trapMask := 0, rest := g.rest.filter (fun t => !t.hand), shelf := g.shelf.filter (fun t => !t.hand),
                 strand :=
                   { Strand.none with
                     pc := g.tpc, mask := g.trapMask &&& ~~~g.exited, mrg := g.trapMrg, issued := clkOf s, liveAt := clkOf s } })) ∧
    (enabled s.cur ≠ 0 → s.cur.inTrap = false → Traps .rett s (trapOf .illegalOpcode 0xB2000000)) ∧
    (enabled s.cur = 0 → DoesToGroup .rett s (fun g => { g with strand := nextStrand g.strand })))

/-! ### The state of a group -/

/-- R34, R35, R121: SETM replaces one field of GM where the result holds no reserved code; a selector, a value or a result that is
reserved traps MODE_FIELD.

R36, R122 to R124: KMASK sets every lane of the width, XSET the extension register (a sum above 255 traps REG_INDEX), TXI closes a
translation register, and TXL loads one. -/
def Obligations.GroupModes : Prop :=
  (∀ (sel : BitVec 8) (v : BitVec 16) (s : State), Clean (.setm sel v) s →
    (∀ lo n, setmField sel.toNat = some (lo, n) → v.toNat < 2 ^ n →
      (gmLegal (gmInsert s.cur.gm lo n v.toNat) = true →
        DoesToGroup (.setm sel v) s (fun g => { g with gm := gmInsert g.gm lo n v.toNat, strand := nextStrand g.strand })) ∧
      (gmLegal (gmInsert s.cur.gm lo n v.toNat) = false →
        Traps (.setm sel v) s (trapOf .modeField (zext (gmInsert s.cur.gm lo n v.toNat))))) ∧
    (∀ lo n, setmField sel.toNat = some (lo, n) → 2 ^ n ≤ v.toNat →
      Traps (.setm sel v) s (trapOf .modeField (0x13000000 + sel.setWidth 64 * 65536 + v.setWidth 64))) ∧
    (setmField sel.toNat = none → Traps (.setm sel v) s (trapOf .modeField (0x13000000 + sel.setWidth 64 * 65536 + v.setWidth 64)))) ∧
  ((∀ (n : BitVec 1) (p : BitVec 3) (s : State), Clean (.kmask n p) s → ∃ t, exec (.kmask n p) s = .next t ∧
    t = { s with cur := { s.cur with kmask := t.cur.kmask, strand := nextStrand s.cur.strand } } ∧
    ∀ l < 128, t.cur.kmask.getLsbD l = (decide (l < width s.cur) && ((readPred s.cur p.toNat).getLsbD l != (n == 1)))) ∧
  (∀ (a i : RegCode) (s : State), Clean (.xset a i) s → mustBeU s (rdOp 1 a) = none →
    ((uWord s (rdOp 1 a) + i.setWidth 32).toNat ≤ 255 → DoesToGroup (.xset a i) s (fun g =>
      { g with xi := (uWord s (rdOp 1 a) + i.setWidth 32).setWidth 8, strand := nextStrand g.strand })) ∧
    (255 < (uWord s (rdOp 1 a) + i.setWidth 32).toNat →
      Traps (.xset a i) s (trapOf .regIndex (zext (uWord s (rdOp 1 a) + i.setWidth 32))))) ∧
  (∀ (t : BitVec 3) (s : State), Clean (.txi t) s → ∃ u, exec (.txi t) s = .next u ∧
    u = { s with cur := { s.cur with tregs := u.cur.tregs, strand := nextStrand s.cur.strand } } ∧
    readTReg u.cur t.toNat = TReg.start ∧ ∀ k, k ≠ t.toNat → readTReg u.cur k = readTReg s.cur k) ∧
  (∀ (a : RegCode) (t : BitVec 3) (s : State), Clean (.txl a t) s → mustBeU s ((rdOp 1 a).pair true) = none →
    ∃ u, exec (.txl a t) s = .next u ∧
      u = { s with cur := { s.cur with tregs := u.cur.tregs, strand := nextStrand s.cur.strand } } ∧
      (readTReg u.cur t.toNat).frame = uPair s ((rdOp 1 a).pair true) ∧
      (∀ k, k ≠ t.toNat → readTReg u.cur k = readTReg s.cur k) ∧
      (∀ va leaf, addrForm s (uPair s ((rdOp 1 a).pair true)) = .plain va →
        findLeaf s s.cur.ctx s.cur.part s.cur.core va = .leaf leaf → leaf.mtype = .device →
        (readTReg u.cur t.toNat).base = dw (leaf.pa + (va - leaf.va)) ∧ (readTReg u.cur t.toNat).perm = leaf.perm ∧
        (readTReg u.cur t.toNat).limit ≤ 2 ^ 30 ∧ (readTReg u.cur t.toNat).stale = false)))

/-- The group at the issue port is the only resident one with this id. -/
def AtPort (s : State) (gid : Nat) : Prop := s.cur.live = true ∧ s.cur.id = gid ∧ ∀ g ∈ s.others, g.id ≠ gid

/-- R119: CYLD, WAITC and SLEEP complete in every state in which no check of their word traps. CYLD goes to its target where C is 0, and
WAITC on where each of its counters is at most its limit (63 sets none); otherwise they hold the group, as SLEEP does until the time that it
names. A group that is held so issues nothing; once the condition holds, the settling that follows every fall of a counter ends the hold. -/
def Obligations.GroupWaits : Prop :=
  (∀ (o : BitVec 20) (s : State), Clean (.cyld o) s →
    (s.cur.cntC = 0 → DoesToGroup (.cyld o) s (gotoPc (s.cur.strand.pc + 4 * o.signExtend 64))) ∧
    (s.cur.cntC ≠ 0 → DoesToGroup (.cyld o) s (fun g =>
      { g with strand := { g.strand with hold := .cyld (g.strand.pc + 4 * o.signExtend 64), replay := none } }))) ∧
  (∀ (l t c u : BitVec 6) (s : State), Clean (.waitc l t c u) s →
    ((l = 63 ∨ s.cur.cntL ≤ l) → (t = 63 ∨ s.cur.cntS ≤ t) → (c = 63 ∨ s.cur.cntC ≤ c) → (u = 63 ∨ s.cur.cntT ≤ u) →
      DoesToGroup (.waitc l t c u) s (fun g => { g with strand := nextStrand g.strand })) ∧
    (¬((l = 63 ∨ s.cur.cntL ≤ l) ∧ (t = 63 ∨ s.cur.cntS ≤ t) ∧ (c = 63 ∨ s.cur.cntC ≤ c) ∧ (u = 63 ∨ s.cur.cntT ≤ u)) →
      DoesToGroup (.waitc l t c u) s (fun g =>
        { g with strand := { g.strand with hold := .waitc l.toNat t.toNat c.toNat u.toNat, replay := none } }))) ∧
  (∀ (i : BitVec 16) (s : State), Clean (.sleep i) s → DoesToGroup (.sleep i) s (fun g =>
    { g with strand := { g.strand with hold := .sleep (s.time + i.setWidth 64), replay := none } })) ∧
  (∀ (s : State) (x : Hold), s.cur.strand.hold = x →
    s.cur.strand.mask ≠ 0 → ((∃ a, x = .cyld a) ∨ (∃ l t c u, x = .waitc l t c u) ∨ ∃ a, x = .sleep a) → candidate s s.cur = none) ∧
  (∀ (s : State) (target : DWord), AtPort s s.cur.id → s.cur.strand.hold = .cyld target →
    (settleGroup s.cur.id s).cur.strand =
      if s.cur.cntC = 0 then { s.cur.strand with pc := target, hold := .none } else s.cur.strand) ∧
  (∀ (s : State) (l t c u : Nat), AtPort s s.cur.id → s.cur.strand.hold = .waitc l t c u →
    (settleGroup s.cur.id s).cur.strand =
      if (l = 63 ∨ s.cur.cntL.toNat ≤ l) ∧ (t = 63 ∨ s.cur.cntS.toNat ≤ t) ∧ (c = 63 ∨ s.cur.cntC.toNat ≤ c) ∧
        (u = 63 ∨ s.cur.cntT.toNat ≤ u)
      then { s.cur.strand with pc := s.cur.strand.pc + 4, hold := .none } else s.cur.strand)

/-- The first code of GFUSE's conditions on the issuing group (R127): WIDTH, NOT_PAIRED, REGION, PENDING. -/
def gfuseCode (s : State) : Option Nat :=
  if 7 ≤ s.cur.lgw then some 8
  else if buddyOf (modCur closeIdem s) (closeIdem s.cur) = none then some 1
  else if s.cur.region.isSome then some 11
  else if widthPending (closeIdem s.cur) then some 7
  else none

/-- R125, R126, R401: GDIV completes wherever no check of its word traps and none of its conditions holds: the group becomes its lower half,
and a second group of the upper half, in a free slot of the quarter, follows it; each keeps its lanes' values, at the next instruction, with
d = 0 and a fresh signature.

R125 to R127: GDIV, and a GFUSE of which a condition on the issuing group holds, complete with the code of the first condition that holds,
in the lanes of the strand, and change nothing else of the group but an open idempotent region and the signature; so does a GFUSE that finds
its buddy waiting in another state, with the code of the first difference; a GFUSE whose buddy has not come waits for it.

R127: a GFUSE whose buddy waits at the same instruction in the same state completes by joining the two groups: the fused group has twice
the width, the lower group's base and id, at the next instruction, and in its lower and upper lanes the values that the lower and the upper
group held, but for the lower group's d, which is 0.

Five corners that R125 to R128 leave open, such as a buddy all of whose lanes have exited, are the model's (log entry 93). -/
def Obligations.DivideAndFuse : Prop :=
  (∀ (d : RegCode) (s : State) (h : Nat), Clean (.gdiv d) s → gdivCode s = none → h = width s.cur / 2 →
    ∃ t up, exec (.gdiv d) s = .next t ∧ t.others.getLast? = some up ∧ t.cur.lgw = s.cur.lgw - 1 ∧ up.lgw = s.cur.lgw - 1 ∧
      t.cur.base = s.cur.base ∧ up.base = s.cur.base + h ∧ up.id = s.nextId ∧ t.nextId = s.nextId + 1 ∧
      freeSlot s s.cur.part s.cur.core s.cur.quarter = some up.slot ∧
      t.cur.sig = 0 ∧ t.cur.steady = true ∧ up.sig = 0 ∧ up.steady = true ∧ t.cur.idemr = none ∧ up.idemr = none ∧
      (t.cur.strand.mask ≠ 0 → t.cur.strand.pc = s.cur.strand.pc + 4) ∧ (up.strand.mask ≠ 0 → up.strand.pc = s.cur.strand.pc + 4) ∧
      (∀ r l, l < h → (d.toNat < 0xF0 → r ≠ effReg s.cur (wrOp d)) →
        (readReg t.cur r).lane l = (readReg s.cur r).lane l ∧ (readReg up r).lane l = (readReg s.cur r).lane (h + l)) ∧
      (d.toNat < 0xF0 → ∀ l < h,
        ((activeLanes s.cur).getLsbD l = true → (readReg t.cur (effReg s.cur (wrOp d))).lane l = 0) ∧
        ((activeLanes s.cur).getLsbD (h + l) = true → (readReg up (effReg s.cur (wrOp d))).lane l = 0)) ∧
      t.mem = s.mem) ∧
  ((∀ (d : RegCode) (s : State) (c : Nat), Clean (.gdiv d) s → gdivCode s = some c →
    (∀ r ∈ destRegs s.cur (wrOp d), narrow s.cur r = false) →
    ∃ t, exec (.gdiv d) s = .next t ∧ t.cur.strand = { nextStrand s.cur.strand with mrg := false } ∧ t.cur.idemr = none ∧
      t.cur.sig = 0 ∧ t.cur.steady = true ∧ t.cur.lgw = s.cur.lgw ∧
      t.others = s.others ∧ (∀ r, (d.toNat < 0xF0 → r ≠ effReg s.cur (wrOp d)) → readReg t.cur r = readReg s.cur r) ∧
      (d.toNat < 0xF0 → ∀ l < width s.cur, (activeLanes s.cur).getLsbD l = true →
        (readReg t.cur (effReg s.cur (wrOp d))).lane l = wd c)) ∧
  (∀ (d : RegCode) (c : BitVec 2) (s : State) (n : Nat), Clean (.gfuse d c) s → gfuseCode s = some n →
    (∀ r ∈ destRegs s.cur (wrOp d), narrow s.cur r = false) →
    ∃ t, exec (.gfuse d c) s = .next t ∧ t.cur.strand = { nextStrand s.cur.strand with mrg := false } ∧ t.cur.idemr = none ∧
      t.cur.sig = 0 ∧ t.cur.steady = true ∧ t.cur.lgw = s.cur.lgw ∧
      t.others = s.others ∧ (∀ r, (d.toNat < 0xF0 → r ≠ effReg s.cur (wrOp d)) → readReg t.cur r = readReg s.cur r) ∧
      (d.toNat < 0xF0 → ∀ l < width s.cur, (activeLanes s.cur).getLsbD l = true →
        (readReg t.cur (effReg s.cur (wrOp d))).lane l = wd n)) ∧
  (∀ (d : RegCode) (c : BitVec 2) (s : State) (b : Group) (n : Nat), Clean (.gfuse d c) s → gfuseCode s = none →
    buddyOf (modCur closeIdem s) (closeIdem s.cur) = some b → inFuse b = true → b.id ≠ s.cur.id →
    n = (if s.cur.base < b.base then fuseCode (closeIdem s.cur) b else fuseCode b (closeIdem s.cur)) → n ≠ 0 →
    (∀ r ∈ destRegs s.cur (wrOp d), narrow s.cur r = false) →
    ∃ t, exec (.gfuse d c) s = .next t ∧ t.cur.strand = { nextStrand s.cur.strand with mrg := false } ∧ t.cur.idemr = none ∧
      t.cur.sig = 0 ∧ t.cur.steady = true ∧ t.cur.lgw = s.cur.lgw ∧
      (∀ r, (d.toNat < 0xF0 → r ≠ effReg s.cur (wrOp d)) → readReg t.cur r = readReg s.cur r) ∧
      (d.toNat < 0xF0 → ∀ l < width s.cur, (activeLanes s.cur).getLsbD l = true →
        (readReg t.cur (effReg s.cur (wrOp d))).lane l = wd n)) ∧
  (∀ (d : RegCode) (c : BitVec 2) (s : State) (b : Group), Clean (.gfuse d c) s → gfuseCode s = none →
    buddyOf (modCur closeIdem s) (closeIdem s.cur) = some b → inFuse b = false →
    exec (.gfuse d c) s = .next { s with cur := { s.cur with
      idemr := none, strand := { s.cur.strand with hold := .gfuse (effReg s.cur (wrOp d)) c.toNat s.time, replay := none } } })) ∧
  (∀ (d : RegCode) (c : BitVec 2) (s : State) (b lo up : Group) (r0 : Nat), Clean (.gfuse d c) s → gfuseCode s = none →
    buddyOf (modCur closeIdem s) (closeIdem s.cur) = some b → inFuse b = true →
    lo = (if s.cur.base < b.base then closeIdem s.cur else b) → up = (if s.cur.base < b.base then b else closeIdem s.cur) →
    r0 = (if s.cur.base < b.base then effReg s.cur (wrOp d) else fuseDest b) → fuseCode lo up = 0 →
    ∃ t, exec (.gfuse d c) s = .next t ∧ t.cur.lgw = s.cur.lgw + 1 ∧ t.cur.base = lo.base ∧ t.cur.id = lo.id ∧
      t.others = s.others.filter (fun x => x.id != b.id) ∧ t.cur.sig = 0 ∧ t.cur.steady = true ∧ t.cur.idemr = none ∧
      t.cur.strand.pc = lo.strand.pc + 4 ∧
      (∀ r l, r ≠ r0 → l < width s.cur →
        (readReg t.cur r).lane l = (readReg lo r).lane l ∧ (readReg t.cur r).lane (width s.cur + l) = (readReg up r).lane l) ∧
      (r0 < 0xF0 → ∀ l < 2 * width s.cur, (activeLanes t.cur).getLsbD l = true → (readReg t.cur r0).lane l = 0) ∧
      t.mem = s.mem)

/-! ### System registers -/

/-- R95, R211: SRD gives the lanes of the strand the value of an assigned system register; SWR writes the writable ones with lane 0's
value and changes no other state; a number with bit 15 set traps PROTECT, and an unassigned one RESERVED_FIELD. -/
def Obligations.SystemRegisters : Prop :=
  (∀ (d : RegCode) (n : BitVec 16) (s : State) (v : DWord), Clean (.srd d n) s → enabled s.cur ≠ 0 → n.getLsbD 15 = false →
    srRead s n.toNat = some v → (∀ r ∈ destRegs s.cur ((wrOp d).pair (srWide n)), narrow s.cur r = false) →
    ∃ t, exec (.srd d n) s = .next t ∧ RegsOnly s t ((wrOp d).pair (srWide n)) ∧
      (d.toNat < 0xF0 → ∀ l < width s.cur, (activeLanes s.cur).getLsbD l = true →
        opLane t ((wrOp d).pair (srWide n)) 0 l = loHalf v ∧
        (srWide n = true → opLane t ((wrOp d).pair (srWide n)) 1 l = hiHalf v))) ∧
  (∀ (d : RegCode) (n : BitVec 16) (s : State), Clean (.swr d n) s → enabled s.cur ≠ 0 → n.getLsbD 15 = false →
    (srRead s n.toNat).isSome = true → ∃ t, exec (.swr d n) s = .next t ∧
      t = { s with cur := { s.cur with tval := t.cur.tval, tpc := t.cur.tpc, pgrp := t.cur.pgrp, strand := nextStrand s.cur.strand } } ∧
      t.cur.tval = (if n = 1 then opPair s ((rdOp 0 d).pair true) 0 else s.cur.tval) ∧
      t.cur.tpc = (if n = 2 then opPair s ((rdOp 0 d).pair true) 0 &&& ~~~3#64 else s.cur.tpc) ∧
      ∀ k < 16, Sparse.get 0 t.cur.pgrp k =
        (if n.toNat = 0x50 + k then opPair s ((rdOp 0 d).pair true) 0 else Sparse.get 0 s.cur.pgrp k)) ∧
  (∀ (d : RegCode) (n : BitVec 16) (s : State), enabled s.cur ≠ 0 →
    (Clean (.srd d n) s → n.getLsbD 15 = true → Traps (.srd d n) s (trapOf .protect (n.setWidth 64))) ∧
    (Clean (.srd d n) s → n.getLsbD 15 = false → srRead s n.toNat = none → Traps (.srd d n) s (trapOf .reservedField (n.setWidth 64))) ∧
    (Clean (.swr d n) s → n.getLsbD 15 = true → Traps (.swr d n) s (trapOf .protect (n.setWidth 64))) ∧
    (Clean (.swr d n) s → n.getLsbD 15 = false → srRead s n.toNat = none → Traps (.swr d n) s (trapOf .reservedField (n.setWidth 64))))

/-! ### Memory -/

/-- The request of each memory instruction, as R159, R162, R165 and R171 give its size, its offset scale and its operand. -/
def memRequest (g : Group) : Instr → Option MemReq
  | .ld1 d a t i => some (loadReq .load 1 (wrOp d) a t i)
  | .ld2 d a t i => some (loadReq .load 2 (wrOp d) a t i)
  | .ld4 d a t i => some (loadReq .load 4 (wrOp d) a t i)
  | .ld8 d a t i => some (loadReq .load 8 ((wrOp d).pair true) a t i)
  | .ld16 d a t i => some (loadReq .load 16 ((wrOp d).many 4 true) a t i)
  | .ld64 d a t i => some (loadReq .load 64 ((wrOp d).many 16 true) a t i)
  | .ldaq d a t i => some (loadReq .ldaq 8 ((wrOp d).pair true) a t i)
  | .ldwt d a t i => some (loadReq (.fe .ldwt) 8 ((wrOp d).pair true) a t i)
  | .ldcn d a t i => some (loadReq (.fe .ldcn) 8 ((wrOp d).pair true) a t i)
  | .st1 d a t i => some (storeReq .store 1 (rdOp 0 d) a t i)
  | .st2 d a t i => some (storeReq .store 2 (rdOp 0 d) a t i)
  | .st4 d a t i => some (storeReq .store 4 (rdOp 0 d) a t i)
  | .st8 d a t i => some (storeReq .store 8 ((rdOp 0 d).pair true) a t i)
  | .st16 d a t i => some (storeReq .store 16 ((rdOp 0 d).many 4 true) a t i)
  | .st64 d a t i => some (storeReq .store 64 ((rdOp 0 d).many 16 true) a t i)
  | .strl d a t i => some (storeReq .strl 8 ((rdOp 0 d).pair true) a t i)
  | .stfl d a t i => some (storeReq (.fe .stfl) 8 ((rdOp 0 d).pair true) a t i)
  | .stfu d a t i => some (storeReq (.fe .stfu) 8 ((rdOp 0 d).pair true) a t i)
  | .fefull a t i => some (feReq .fefull none a t i)
  | .feempty a t i => some (feReq .feempty none a t i)
  | .fetest p a t i => some (feReq .fetest (some p.toNat) a t i)
  | .aadd d a t i => some (atomReq .add (gmType g) (tyOp g (rwOp d)) a t i)
  | .amin d a t i => some (atomReq .min (gmType g) (tyOp g (rwOp d)) a t i)
  | .amax d a t i => some (atomReq .max (gmType g) (tyOp g (rwOp d)) a t i)
  | .aand d a t i => some (atomReq .and (gmType g) (tyOp g (rwOp d)) a t i)
  | .aor d a t i => some (atomReq .or (gmType g) (tyOp g (rwOp d)) a t i)
  | .axor d a t i => some (atomReq .xor (gmType g) (tyOp g (rwOp d)) a t i)
  | .aswp d a t i => some (atomReq .swp (gmType g) (tyOp g (rwOp d)) a t i)
  | .ainc d a t i => some (atomReq .inc (gmType g) (tyOp g (rwOp d)) a t i)
  | .adec d a t i => some (atomReq .dec (gmType g) (tyOp g (rwOp d)) a t i)
  | .acas d a t i => some (atomReq .cas (gmType g) (if ty64 (gmType g) then (rwOp d).many 4 true else (rwOp d).many 2 false) a t i)
  | _ => none

/-- R39, R40, R150, R157: a memory instruction whose enabled lanes pass the checks of R154 and have their places enters one operation with
those lanes among the group's outstanding ones, counts it in L or S, and goes on at the next instruction, or is held by it (R157, R176).
It moves no byte yet, and no register; s1 is the state after its own address translations.

That an operation acts on memory at a later step of its own is the model's reading (log entry 21). -/
def Obligations.MemoryIssue : Prop :=
  ∀ (i : Instr) (s s1 : State) (r : MemReq) (oks : List LaneAcc), memRequest s.cur i = some r → Clean i s → enabled s.cur ≠ 0 →
    phaseOne s r = none → ctrFull r.ctr s.cur = false → barrowRoom s (remotePkgs s (laneAddrs s r)) = true →
    placeLanes r (laneAddrs s r) s = (oks.map LaneOut.ok, s1) →
    ∃ t, exec i s = .next t ∧ t.cur.outs = s1.cur.outs ++ [newOp s1 r s1.nextId oks] ∧
      t.cur.cntL = (if r.ctr = .l then s1.cur.cntL + 1 else s1.cur.cntL) ∧
      t.cur.cntS = (if r.ctr = .s then s1.cur.cntS + 1 else s1.cur.cntS) ∧
      t.cur.regs = s1.cur.regs ∧ t.cur.preds = s1.cur.preds ∧ t.cur.gm = s1.cur.gm ∧ t.others = s1.others ∧ SameBytes s1 t ∧
      (holdsStrand r.kind oks = false → t.cur.strand = nextStrand s1.cur.strand) ∧
      (holdsStrand r.kind oks = true → s1.cur.shelf = [] →
        t.cur.strand = { s1.cur.strand with hold := .op s1.nextId, pend := maskOfLanes (oks.map (·.lane)), replay := none })

/-- R40, R153, R154: a memory instruction with no lane enabled only advances; one of whose lanes fails a check of the first phase traps
before any effect; and one whose counter stands at 63 stalls its group until the counter falls, and changes nothing else.

That no lane has acted at a trap of the second phase is the model's reading (log entry 14). -/
def Obligations.MemoryChecks : Prop :=
  ∀ (i : Instr) (s : State) (r : MemReq), memRequest s.cur i = some r → Clean i s →
    (enabled s.cur = 0 → DoesToGroup i s (fun g => { g with strand := nextStrand g.strand })) ∧
    (∀ t, enabled s.cur ≠ 0 → phaseOne s r = some t → Traps i s t) ∧
    (enabled s.cur ≠ 0 → phaseOne s r = none → ctrFull r.ctr s.cur = true →
      exec i s = .next { s with last := .stalled, cur := { s.cur with stall := some (.ctr r.ctr.number, s.cur.strand.pc) } }) ∧
    (∀ a, enabled s.cur ≠ 0 → destCheck s r = none → (laneAddrs s r).find? (fun a => a.ea.toNat % r.z != 0) = some a →
      Traps i s { cause := .align, lane := some a.lane, tval := a.ea, after := false })

/-- An outstanding operation of the group at the issue port, with one lane, that may be performed now: of a kind and a counter, the lane
resident, at a place in this package, neither held at a page fault nor done. -/
def OneLane (s : State) (k : Nat) (o : MemOp) (l : LaneAcc) : Prop :=
  s.cur.live = true ∧ findGroup s.cur.id s = some s.cur ∧ findOp k s.cur = some o ∧ canPerform s s.cur o = true ∧ o.lanes = [l] ∧
  l.done = false ∧ l.held = false ∧ laneWaits s s.cur.id o.id l.lane = false ∧ l.lane < width s.cur ∧ l.lane < 128 ∧
  s.cur.exited.getLsbD l.lane = false ∧ l.loc.isPod = false ∧ isPoisoned s s.cur.team l.loc o.z = false

/-- R11, R157, R159: the return of a load writes the bytes at the lane's place, the lowest first and sign-extended where R159 says so, to
the lane of the registers from d on; L falls, the operation is gone, and no byte and no other register has changed.

R11, R40, R159: the acceptance of a store leaves at its place in device memory the bytes that the lane gave, and every other byte of
device memory, of the host's memory and of every scratchpad as it was; S falls, and the operation is gone.

That an operation acts in one step of its own is the model's reading (log entry 21). -/
def Obligations.LoadsAndStoresPerform : Prop :=
  (∀ (s : State) (k : Nat) (o : MemOp) (l : LaneAcc), OneLane s k o l → (o.kind = .load ∨ o.kind = .ldaq) → o.ctr = .l → o.ret = true →
    o.pred = none → o.d < 0xF0 →
    ∃ t, exec (.loadReturn s.cur.id k) s = .next t ∧ SameBytes s t ∧ t.cur.cntL = s.cur.cntL - 1 ∧ (∀ x ∈ t.cur.outs, x.id ≠ k) ∧
      (∀ r, (r < o.d ∨ o.d + (o.z + 3) / 4 ≤ r) → readReg t.cur r = readReg s.cur r) ∧
      ∀ j v, (loadWords o.z (if o.kind = .load then o.ty else 1) (readBytes s s.cur.team l.loc o.z))[j]? = some v →
        (readReg t.cur (o.d + j)).lane l.lane = v) ∧
  (∀ (s : State) (k : Nat) (o : MemOp) (l : LaneAcc) (pa : Nat), OneLane s k o l → (o.kind = .store ∨ o.kind = .strl) → o.ctr = .s →
    o.ret = false → o.pred = none → l.loc = .dev pa →
    ∃ t, exec (.storeAccept s.cur.id k) s = .next t ∧ t.cur.cntS = s.cur.cntS - 1 ∧ (∀ x ∈ t.cur.outs, x.id ≠ k) ∧
      t.cur.regs = s.cur.regs ∧
      (∀ n < o.z, readByte t 0 (.dev pa) n = l.data.extractLsb' (8 * n) 8 ∨ 64 ≤ n) ∧
      (∀ a, (a < pa ∨ pa + o.z ≤ a) → readByte t 0 (.dev a) 0 = readByte s 0 (.dev a) 0) ∧
      (∀ tm f off n, readByte t tm (.scr f off) n = readByte s tm (.scr f off) n) ∧
      ∀ ha n, readByte t 0 (.host ha) n = readByte s 0 (.host ha) n)

/-- R171, R172, R174: an atomic on one lane returns the old value and leaves the new one; nothing else in device memory has changed.

R172, R173: what each atomic leaves, on 32-bit words: m the word, x and y the operands.

That an operation acts in one step of its own is the model's reading (log entry 21). -/
def Obligations.AtomicsPerform : Prop :=
  (∀ (s : State) (k : Nat) (o : MemOp) (l : LaneAcc) (op : AtomOp) (pa v : Nat), OneLane s k o l → o.kind = .atomic op → o.ctr = .l →
    o.ret = true → o.pred = none → o.d < 0xF0 → (o.z = 4 ∨ o.z = 8) → l.loc = .dev pa →
    v = atomicNew op o.ty o.round (readBytes s s.cur.team l.loc o.z) (l.data.toNat % 2 ^ (8 * o.z)) l.data2.toNat →
    ∃ t, exec (.loadReturn s.cur.id k) s = .next t ∧ readBytes t s.cur.team (.dev pa) o.z = v % 2 ^ (8 * o.z) ∧
      (∀ a, (a < pa ∨ pa + o.z ≤ a) → readByte t 0 (.dev a) 0 = readByte s 0 (.dev a) 0) ∧
      (readReg t.cur o.d).lane l.lane = wd (readBytes s s.cur.team l.loc o.z) ∧ t.cur.cntL = s.cur.cntL - 1) ∧
  (∀ m x y : BitVec 32,
    atomicNew .add 1 0 m.toNat x.toNat y.toNat % 2 ^ 32 = (m + x).toNat ∧
    atomicNew .min 1 0 m.toNat x.toNat y.toNat % 2 ^ 32 = min m.toNat x.toNat ∧
    atomicNew .max 1 0 m.toNat x.toNat y.toNat % 2 ^ 32 = max m.toNat x.toNat ∧
    atomicNew .and 1 0 m.toNat x.toNat y.toNat % 2 ^ 32 = (m &&& x).toNat ∧
    atomicNew .or 1 0 m.toNat x.toNat y.toNat % 2 ^ 32 = (m ||| x).toNat ∧
    atomicNew .xor 1 0 m.toNat x.toNat y.toNat % 2 ^ 32 = (m ^^^ x).toNat ∧
    atomicNew .swp 1 0 m.toNat x.toNat y.toNat % 2 ^ 32 = x.toNat ∧
    atomicNew .cas 1 0 m.toNat x.toNat y.toNat % 2 ^ 32 = (if m = x then y.toNat else m.toNat))

/-- R165: what a full/empty operation does to its word where it succeeds, and when it must wait. -/
def Obligations.FullEmptyTable : Prop :=
  ∀ (tm pa : Nat) (x : DWord) (s : State),
    (readFe s tm (.dev pa) = true →
      feStep .ldwt tm (.dev pa) x s = some (readBytes s tm (.dev pa) 8, s, false) ∧
      feStep .stfl tm (.dev pa) x s = none ∧
      (∃ t, feStep .ldcn tm (.dev pa) x s = some (readBytes s tm (.dev pa) 8, t, true) ∧ readFe t tm (.dev pa) = false ∧ SameBytes s t)) ∧
    (readFe s tm (.dev pa) = false →
      feStep .ldwt tm (.dev pa) x s = none ∧ feStep .ldcn tm (.dev pa) x s = none ∧
      (∃ t, feStep .stfl tm (.dev pa) x s = some (0, t, true) ∧ readFe t tm (.dev pa) = true ∧ readBytes t tm (.dev pa) 8 = x.toNat)) ∧
    (∃ t c, feStep .stfu tm (.dev pa) x s = some (0, t, c) ∧ readFe t tm (.dev pa) = true ∧ readBytes t tm (.dev pa) 8 = x.toNat) ∧
    (∃ t c, feStep .fefull tm (.dev pa) x s = some (0, t, c) ∧ readFe t tm (.dev pa) = true ∧ SameBytes s t) ∧
    (∃ t c, feStep .feempty tm (.dev pa) x s = some (0, t, c) ∧ readFe t tm (.dev pa) = false ∧ SameBytes s t) ∧
    feStep .fetest tm (.dev pa) x s = some (if readFe s tm (.dev pa) then 1 else 0, s, false)

/-- R162, R163: an operation is not performed while an earlier LDAQ of the group is open, and a fence stays among the outstanding
operations while what it names is open; a fence with nothing before it only advances, but that one of kind acq or full at device scope
drops the L1 lines that the core does not own.

What an acquire does to a line of L1 is what R163 says; that no value depends on it is R239's word (log entries 21 and 98). -/
def Obligations.FencesAndAcquires : Prop :=
  (∀ (k : BitVec 2) (sc : BitVec 3) (s : State), Clean (.fence k sc) s → s.cur.live = true → s.cur.outs = [] → sc.toNat < 3 →
    ∃ t, exec (.fence k sc) s = .next t ∧ t.cur.strand = nextStrand s.cur.strand ∧ t.cur.outs = [] ∧ t.cur.regs = s.cur.regs ∧
      SameBytes s t ∧
      getCore t s.cur.part s.cur.core =
        if k.toNat ≠ 1 ∧ sc.toNat = 2 then keepLines (fun _ x => x.owned) (getCore s s.cur.part s.cur.core) else getCore s s.cur.part s.cur.core) ∧
  (∀ (sc : BitVec 3) (s : State) (o : MemOp), Clean (.fence 0 sc) s → s.cur.live = true → s.cur.outs = [o] → o.kind = .load →
    o.lanes.any (fun l => !l.done) = true →
    ∃ t f, exec (.fence 0 sc) s = .next t ∧ t.cur.strand = nextStrand s.cur.strand ∧ t.cur.outs = [o, f] ∧ f.kind = .fence 0 ∧
      f.scope = sc.toNat ∧ SameBytes s t) ∧
  (∀ (s : State) (g : Group) (o j : MemOp), j ∈ earlierOps g o → j.kind = .ldaq → j.lanes.any (fun l => !l.done) = true →
    canPerform s g o = false) ∧
  (∀ (gid k : Nat) (s : State) (g : Group) (o : MemOp), findGroup gid s = some g → findOp k g = some o → canPerform s g o = false →
    exec (.loadReturn gid k) s = .next s ∧ exec (.storeAccept gid k) s = .next s)

/-! ### Engines -/

/-- An engine instruction that enters its operation (R40, R178, R179, R182): the operation of the request is queued with its range
locks, C counts it, and the strand goes on at the next instruction, or under the yield flag waits there for C. Nothing else changes but
what the request brings: an entry of a barrow for another package, a bound object's pending bytes, the count of a channel, and the end
of an idempotent region. -/
def EntersEngine (i : Instr) (s s1 : State) (r : EngReq) (yield : Bool) : Prop :=
  ∃ t, exec i s = .next t ∧
    t = { s1 with
      engines := s1.engines ++ [engOpOf s1 s1.nextId r], locks := s1.locks ++ engLocks s1 s1.nextId r, nextId := t.nextId,
      barrow := t.barrow, teams := t.teams, ctxs := t.ctxs,
      cur := { s1.cur with
        cntC := s1.cur.cntC + 1, ccnt := t.cur.ccnt, idemr := t.cur.idemr,
        strand := if yield then { s1.cur.strand with hold := .cyld (s1.cur.strand.pc + 4), replay := none } else nextStrand s1.cur.strand } } ∧
    (farPkg s1 r = none → t.barrow = s1.barrow) ∧ (r.bind = none → SameBytes s1 t)

/-- What the flag word of XCP and XFILL must keep (R182): legal bits, and extension registers that are declared, U, and not awaited. -/
def FlagsOk (s : State) (b : RegCode) (v : DWord) : Prop :=
  v = uPair s ((rdOp 2 b).pair true) ∧ sizeTrap s ((rdOp 2 b).pair true) v = none ∧
  ∀ r ∈ extRegs s ((rdOp 2 b).pair true) v, extTrap s r = none ∧ regAwaited s.cur r = false

/-- R182 to R187: XCP, XFILL, XGATH and XPREF complete wherever their operands are U, their flag word, extension registers or descriptor are
legal, the checks of R178 and R179 pass, C is below 63 and nothing else stalls them: they enter the copy or the fill with the landing word and
the object that the extension registers name, the gather that the descriptor describes, or the prefetch.

R183: a bound copy raises PEND of its object by its size at issue. -/
def Obligations.EngineIssues : Prop :=
  ((∀ (d a b : RegCode) (s : State) (v : DWord) (r : EngReq), Clean (.xcp d a b) s → enabled s.cur ≠ 0 →
    mustBeU s ((rdOp 0 d).pair true) = none → mustBeU s ((rdOp 1 a).pair true) = none → mustBeU s ((rdOp 2 b).pair true) = none →
    FlagsOk s b v →
    r = { kind := .copy, dst := uPair s ((rdOp 0 d).pair true), src := some (uPair s ((rdOp 1 a).pair true)), index := none,
          size := fieldD v 0 41, lock := fieldD v 0 41, fe := fieldD v 41 2, land := landOf s ((rdOp 2 b).pair true) v,
          bind := bindOf s ((rdOp 2 b).pair true) v, relay := v.getLsbD 43 } →
    engTrap s r = none → s.cur.cntC ≠ 63 → engStalls s r = false → EntersEngine (.xcp d a b) s s r (v.getLsbD 45)) ∧
  (∀ (d a b : RegCode) (s : State) (v : DWord) (r : EngReq), Clean (.xfill d a b) s → enabled s.cur ≠ 0 →
    mustBeU s ((rdOp 0 d).pair true) = none → mustBeU s ((rdOp 1 a).pair true) = none → mustBeU s ((rdOp 2 b).pair true) = none →
    FlagsOk s b v → fieldD v 41 2 ≠ 1 →
    r = { kind := .fill (uPair s ((rdOp 1 a).pair true)), dst := uPair s ((rdOp 0 d).pair true), src := none, index := none,
          size := fieldD v 0 41, lock := fieldD v 0 41, fe := fieldD v 41 2, land := landOf s ((rdOp 2 b).pair true) v,
          bind := bindOf s ((rdOp 2 b).pair true) v, relay := false } →
    engTrap s r = none → s.cur.cntC ≠ 63 → engStalls s r = false → EntersEngine (.xfill d a b) s s r (v.getLsbD 45)) ∧
  (∀ (d a b : RegCode) (s s1 : State) (bs : List Byte), Clean (.xgath d a b) s → enabled s.cur ≠ 0 →
    mustBeU s ((rdOp 0 d).pair true) = none → mustBeU s ((rdOp 1 a).pair true) = none → mustBeU s ((rdOp 2 b).pair true) = none →
    (uPair s ((rdOp 2 b).pair true)).toNat % 64 = 0 → ownRead (uPair s ((rdOp 2 b).pair true)) s = (.bytes bs, s1) → s1.cur = s.cur →
    descLegal bs = true → s1.cur.cntC ≠ 63 →
    engTrap s1 (gatherReq (uPair s1 ((rdOp 0 d).pair true)) (uPair s1 ((rdOp 1 a).pair true)) bs) = none →
    engStalls s1 (gatherReq (uPair s1 ((rdOp 0 d).pair true)) (uPair s1 ((rdOp 1 a).pair true)) bs) = false →
    EntersEngine (.xgath d a b) s s1 (gatherReq (uPair s1 ((rdOp 0 d).pair true)) (uPair s1 ((rdOp 1 a).pair true)) bs)
      ((descField bs 0x18 8).testBit 45)) ∧
  (∀ (a b : RegCode) (s : State) (r : EngReq), Clean (.xpref a b) s → enabled s.cur ≠ 0 →
    mustBeU s ((rdOp 1 a).pair true) = none → mustBeU s ((rdOp 2 b).pair true) = none →
    fieldD (uPair s ((rdOp 2 b).pair true)) 41 23 = 0 →
    r = { kind := .prefetch, dst := 0, src := some (uPair s ((rdOp 1 a).pair true)), index := none,
          size := fieldD (uPair s ((rdOp 2 b).pair true)) 0 41, lock := 0, fe := 0, land := none, bind := none, relay := false } →
    engTrap s r = none → s.cur.cntC ≠ 63 → engStalls s r = false → EntersEngine (.xpref a b) s s r false)) ∧
  (∀ (s : State) (r : EngReq) (off : Nat), r.bind = some off →
    barPend (barObj (enterEng r s) s.cur.team off) = (barPend (barObj s s.cur.team off) + r.size) % 2 ^ 48)

/-! ### Barriers, and the pod -/

/-- What BARA leaves of an object v at an offset, and the phase that it returns: ARR, PH, EXP, and the destination in the strand's lanes;
the strand goes on, any idempotent region closes, and no other register changes. -/
def ArrivesAs (d : RegCode) (s : State) (off v arr : Nat) (ph ret : Bool) (t : State) : Prop :=
  t.cur.strand = nextStrand s.cur.strand ∧ t.cur.idemr = none ∧ barArr (barObj t s.cur.team off) = arr ∧
  barPh (barObj t s.cur.team off) = ph ∧ barExp (barObj t s.cur.team off) = barExp v ∧ barPend (barObj t s.cur.team off) = barPend v ∧
  (effReg s.cur (wrOp d) < 0xF0 → ∀ l < width s.cur, (activeLanes s.cur).getLsbD l = true →
    (readReg t.cur (effReg s.cur (wrOp d))).lane l = wd (boolNat ret)) ∧
  ∀ r, r ≠ effReg s.cur (wrOp d) → readReg t.cur r = readReg s.cur r

/-- The checks of a barrier instruction's offset (R189): ALIGN for one that is no multiple of 16, PROTECT beyond the team's scratchpad. -/
def OffsetTraps (i : Instr) (s : State) (off : Nat) : Prop :=
  (off % 16 ≠ 0 → Traps i s (trapOf .align (dw (Config.window + off)))) ∧
  (off % 16 = 0 → s.cur.hdr.scratch < off + 16 → Traps i s (trapOf .protect (dw (Config.window + off))))

/-- R188, R189: BARI leaves a new object that expects b arrivals, in phase 0 with none pending. BARA counts an arrival in a phase that still
expects some and returns the phase; the last arrival flips the phase and sets ARR to 0 where nothing is pending, and leaves a full count
where something is. An arrival beyond EXP flips at once where nothing is pending and counts in the new phase, which it returns, or counts
nothing where EXP is 0; else it is held. BARW passes an object whose phase differs from its bit, and is held at one whose phase does not. An
offset that is misaligned or beyond the scratchpad traps, and so does a reserved bit of b. What the group must wait for first comes first. -/
def Obligations.TeamBarriers : Prop :=
  (∀ (a b : RegCode) (s : State) (off : Nat), Clean (.bari a b) s → enabled s.cur ≠ 0 → mustBeU s (rdOp 1 a) = none →
    mustBeU s (rdOp 2 b) = none → off = (uWord s (rdOp 1 a)).toNat →
    OffsetTraps (.bari a b) s off ∧
    (barrierTrap s.cur off = none → fieldW (uWord s (rdOp 2 b)) 16 16 ≠ 0 →
      Traps (.bari a b) s (trapOf .reservedField (dw (effReg s.cur (rdOp 2 b))))) ∧
    (barrierTrap s.cur off = none → fieldW (uWord s (rdOp 2 b)) 16 16 = 0 → objWaits s off true = false →
      (allStrands s.cur).all (fun t => t.hold == .none) = true →
      ∃ t, exec (.bari a b) s = .next t ∧ t.cur.strand = nextStrand s.cur.strand ∧ t.cur.regs = s.cur.regs ∧
        barObj t s.cur.team off = (uWord s (rdOp 2 b)).toNat ∧ (∀ x, readByte t 0 (.dev x) 0 = readByte s 0 (.dev x) 0) ∧
        ∀ f x, (f = true ∨ x < off ∨ off + 16 ≤ x) → readByte t s.cur.team (.scr f x) 0 = readByte s s.cur.team (.scr f x) 0)) ∧
  (∀ (d a : RegCode) (s : State) (off v : Nat), Clean (.bara d a) s → enabled s.cur ≠ 0 → mustBeU s (rdOp 1 a) = none →
    off = (uWord s (rdOp 1 a)).toNat →
    OffsetTraps (.bara d a) s off ∧
    (barrierTrap s.cur off = none → (∀ r ∈ destRegs s.cur (wrOp d), narrow s.cur r = false) → baraWaits s = false →
      v = barObj s s.cur.team off → (allStrands s.cur).all (fun t => t.hold == .none) = true → heldBara s.cur.team off s = none →
      (barArr v + 1 < barExp v → ∃ t, exec (.bara d a) s = .next t ∧ ArrivesAs d s off v (barArr v + 1) (barPh v) (barPh v) t) ∧
      (barArr v + 1 = barExp v → barPend v = 0 → ∃ t, exec (.bara d a) s = .next t ∧ ArrivesAs d s off v 0 (!barPh v) (barPh v) t) ∧
      (barArr v + 1 = barExp v → barPend v ≠ 0 →
        ∃ t, exec (.bara d a) s = .next t ∧ ArrivesAs d s off v (barArr v + 1) (barPh v) (barPh v) t) ∧
      (barExp v ≤ barArr v → barPend v = 0 → 2 ≤ barExp v →
        ∃ t, exec (.bara d a) s = .next t ∧ ArrivesAs d s off v 1 (!barPh v) (!barPh v) t) ∧
      (barPend v = 0 → barExp v = 0 → ∃ t, exec (.bara d a) s = .next t ∧ ArrivesAs d s off v 0 (!barPh v) (!barPh v) t) ∧
      (barExp v ≤ barArr v → barPend v ≠ 0 → s.cur.shelf = [] → DoesToGroup (.bara d a) s (fun g =>
        { g with idemr := none, strand := { g.strand with hold := .bara off (effReg s.cur (wrOp d)) } })))) ∧
  (∀ (a b : RegCode) (s : State) (off : Nat), Clean (.barw a b) s → enabled s.cur ≠ 0 → mustBeU s (rdOp 1 a) = none →
    mustBeU s (rdOp 2 b) = none → off = (uWord s (rdOp 1 a)).toNat →
    OffsetTraps (.barw a b) s off ∧
    (barrierTrap s.cur off = none → objWaits s off false = false →
      (barPh (barObj s s.cur.team off) ≠ (uWord s (rdOp 2 b)).getLsbD 0 →
        DoesToGroup (.barw a b) s (fun g => { g with strand := nextStrand g.strand })) ∧
      (barPh (barObj s s.cur.team off) = (uWord s (rdOp 2 b)).getLsbD 0 → s.cur.shelf = [] →
        DoesToGroup (.barw a b) s (fun g =>
          { g with strand := { g.strand with hold := .barw off ((uWord s (rdOp 2 b)).getLsbD 0) s.nextId } }))))

/-- R193 to R197: each of these completes under the conditions that its clause names: POPEN opens a counted channel at count 0; PREL enters one counted release store that carries the count and starts it
again; PDRAIN passes where nothing of the group waits for an acknowledgement, and otherwise waits for it; PBAR arrives at an episode and
waits for it; RBEGIN opens a region with the state that a rollback needs, and RCOMMIT closes it.

Where the registers of a region are kept is the model's choice (log entry 49). -/
def Obligations.PodInstructions : Prop :=
  (∀ (a : RegCode) (s : State), Clean (.popen a) s → enabled s.cur ≠ 0 → mustBeU s (rdOp 1 a) = none →
    fieldW (uWord s (rdOp 1 a)) 18 14 = 0 → fieldW (uWord s (rdOp 1 a)) 8 10 < podSize s →
    DoesToGroup (.popen a) s (fun g =>
      { g with cchn := 0x80000000#32 ||| uWord s (rdOp 1 a), ccnt := 0, idemr := none, strand := nextStrand g.strand })) ∧
  (∀ (d a : RegCode) (t : BitVec 3) (i : BitVec 5) (s : State) (x : LaneAddr) (p off : Nat), Clean (.prel d a t i) s → enabled s.cur ≠ 0 →
    mustBeU s ((rdOp 0 d).pair true) = none → mustBeU s (rdOp 1 a) = none →
    x = laneAddr s (prelReq s.cur.ccnt d a t i) ((lowestLane (enabled s.cur)).getD 0) → prelTrap s x = none →
    ctrFull .s s.cur = false → barrowRoom s (remotePkgs s [x]) = true → addrForm s x.va = .pod p off →
    ∃ u o, exec (.prel d a t i) s = .next u ∧ u.cur.ccnt = 0 ∧ u.cur.cntS = s.cur.cntS + 1 ∧ u.cur.outs = s.cur.outs ++ [o] ∧
      o.kind = .prel s.cur.ccnt ∧ o.lanes.map (·.loc) = [.pod p off] ∧ u.cur.strand = nextStrand s.cur.strand ∧
      u.cur.regs = s.cur.regs ∧ SameBytes s u ∧ u.barrow.length = s.barrow.length + 1) ∧
  (∀ s : State, Clean .pdrain s → enabled s.cur ≠ 0 →
    (unackedIds s s.cur.id 0 = [] → s.cur.inherits = [] → DoesToGroup .pdrain s (fun g => { g with idemr := none, strand := nextStrand g.strand })) ∧
    (unackedIds s s.cur.id 0 ≠ [] → s.cur.inherits = [] → s.cur.shelf = [] → DoesToGroup .pdrain s (fun g =>
      { g with idemr := none, strand := { g.strand with hold := .drain (unackedIds s g.id 0) } }))) ∧
  (∀ (a : RegCode) (s : State) (bar : Nat), Clean (.pbar a) s → enabled s.cur ≠ 0 → mustBeU s (rdOp 1 a) = none →
    fieldW (uWord s (rdOp 1 a)) 8 24 = 0 → bar = fieldW (uWord s (rdOp 1 a)) 0 8 → (pgrpMembers s.cur).contains (pkgId s) = true →
    (pgrpMembers s.cur).any (fun p => decide (podSize s ≤ p)) = false → keptEpisode (closeIdem s.cur) bar = none →
    unperformed 3 s.cur = false → s.tokens = [] → s.episodes = [] →
    (pgrpMembers s.cur).any (fun m => Sparse.get 0 s.health m == 2) = false →
    ∃ t, exec (.pbar a) s = .next t ∧ t.cur.regs = s.cur.regs ∧ SameBytes s t ∧
      Sparse.get 0 t.arrivals (barKey s.cur.ctx bar) = Sparse.get 0 s.arrivals (barKey s.cur.ctx bar) + 1 ∧
      (s.cur.shelf = [] → (∃ m ∈ pgrpMembers s.cur, m ≠ pkgId s) →
        t.cur.strand = { s.cur.strand with
          hold := .pbar s.cur.ctx bar (Sparse.get 0 s.arrivals (barKey s.cur.ctx bar) % 2 ^ 19) s.nextId })) ∧
  (∀ (o : BitVec 20) (s : State), Clean (.rbegin o) s → enabled s.cur ≠ 0 → wholeStrand s.cur = true → s.cur.region = none →
    0xD0 + 4 * width s.cur * s.cur.hdr.n ≤ s.cur.hdr.rckpt →
    ∃ t r, exec (.rbegin o) s = .next t ∧ t.cur.region = some r ∧ r.handler = s.cur.strand.pc + 4 * o.signExtend 64 ∧
      r.lanes = s.cur.strand.mask ∧ r.gm = s.cur.gm ∧ r.xi = s.cur.xi ∧ r.cchn = s.cur.cchn ∧ r.ccnt = s.cur.ccnt ∧
      r.kmask = s.cur.kmask ∧ r.preds = s.cur.preds ∧ r.seen = [] ∧ r.firstOp = s.nextId ∧ r.failing = none ∧
      t.cur.rckp = wd (rckpOffset s.cur) ∧ t.cur.idemr = none ∧ t.cur.strand = nextStrand s.cur.strand ∧ t.cur.regs = s.cur.regs ∧
      ∀ x, readByte t 0 (.dev x) 0 = readByte s 0 (.dev x) 0) ∧
  (∀ s : State, Clean .rcommit s → enabled s.cur ≠ 0 →
    (s.cur.region = none → DoesToGroup .rcommit s (fun g => { g with strand := nextStrand g.strand })) ∧
    (∀ r, s.cur.region = some r → unackedIds s s.cur.id r.firstOp = [] →
      DoesToGroup .rcommit s (fun g => { g with region := none, rckp := 0, strand := nextStrand g.strand })) ∧
    (∀ r, s.cur.region = some r → unackedIds s s.cur.id r.firstOp ≠ [] → s.cur.shelf = [] →
      DoesToGroup .rcommit s (fun g => { g with strand := { g.strand with hold := .rcommit (unackedIds s g.id r.firstOp) } })))

/-! ### The matrix engine -/

/-- What a matrix instruction leaves (R40, R199): its operation at the end of the stream that GM names, counted in T, and the strand at the
next instruction. -/
def EntersTile (i : Instr) (s : State) (p : TileOp → Prop) : Prop :=
  ∃ t o, exec i s = .next t ∧ (getStream t s.cur.team (gmStream s.cur)).ops = (getStream s s.cur.team (gmStream s.cur)).ops ++ [o] ∧
    (getStream t s.cur.team (gmStream s.cur)).batch = (getStream s s.cur.team (gmStream s.cur)).batch ∧
    o.gid = s.cur.id ∧ o.started = false ∧ p o ∧ t.cur.cntT = s.cur.cntT + 1 ∧ t.cur.strand = nextStrand s.cur.strand ∧
    t.cur.regs = s.cur.regs ∧ SameBytes s t

/-- What the descriptors of TMM and its forms must keep (R199, R200): U operands, one strand, the leader of a pair, a tile that the team has,
legal descriptors, the registers that BAND adds, no poisoned row, and no load awaited by the added register. od is the operand d. -/
def TileOk (s : State) (od : Opnd) (a b : RegCode) : Prop :=
  mustBeU s od = none ∧ mustBeU s ((rdOp 2 b).pair true) = none ∧ wholeStrand s.cur = true ∧ s.cur.hdr.pair = true ∧ s.cur.follower = false ∧
  (tileDesc (opLane s od 0 0)).tile < s.cur.hdr.tiles ∧ tileDescLegal s.cur (opLane s od 0 0) = true ∧
  bTrap s.cur (tileDesc (opLane s od 0 0)) (opLane s ((rdOp 2 b).pair true) 0 0) (opLane s ((rdOp 2 b).pair true) 1 0)
    (effReg s.cur ((rdOp 2 b).pair true)) = none ∧
  bandTrap s.cur (effReg s.cur (rdOp 1 a)) (tileDesc (opLane s od 0 0)).band = none ∧
  aPoisoned s.cur (effReg s.cur (rdOp 1 a)) (if (tileDesc (opLane s od 0 0)).band then 21 else tileSpan (gmType s.cur))
    (tileDesc (opLane s od 0 0)).m = none ∧ s.cur.cntT ≠ 63 ∧
  ((tileDesc (opLane s od 0 0)).band = true → regAwaited s.cur (effReg s.cur (rdOp 1 a) + 20) = false)

/-- What the operation of TMM and its forms holds (R200): the descriptor's fields, the formats, and the rows of A as they stand at issue. -/
def TileOpHolds (s : State) (od : Opnd) (a b : RegCode) (o : TileOp) : Prop :=
  o.kind = .mul ∧ o.tile = (tileDesc (opLane s od 0 0)).tile ∧ o.m = (tileDesc (opLane s od 0 0)).m ∧ o.n = (tileDesc (opLane s od 0 0)).n ∧
  o.k = (tileDesc (opLane s od 0 0)).k ∧ o.acc = (tileDesc (opLane s od 0 0)).acc ∧ o.fmtA = gmType s.cur ∧
  o.fmtB = fieldW (opLane s ((rdOp 2 b).pair true) 1 0) 0 4 ∧ o.bOff = fieldW (opLane s ((rdOp 2 b).pair true) 0 0) 0 18 ∧
  ∀ r < o.m, ∀ k < tileSpan (gmType s.cur),
    (o.aRows.getD r []).getD k 0 = (readReg s.cur (effReg s.cur (rdOp 1 a) + k)).lane r

/-- What the descriptor and the address of a tile mover must keep (R204). -/
def MoverOk (s : State) (d a : RegCode) (size : Nat) : Prop :=
  mustBeU s ((rdOp 0 d).pair true) = none ∧ mustBeU s ((rdOp 1 a).pair true) = none ∧ s.cur.hdr.pair = true ∧ s.cur.follower = false ∧
  (tileDesc (opLane s ((rdOp 0 d).pair true) 0 0)).tile < s.cur.hdr.tiles ∧
  fieldW (opLane s ((rdOp 0 d).pair true) 0 0) 2 5 = 0 ∧ (tileDesc (opLane s ((rdOp 0 d).pair true) 0 0)).k = 0 ∧
  (tileDesc (opLane s ((rdOp 0 d).pair true) 0 0)).m ≤ 128 ∧ (tileDesc (opLane s ((rdOp 0 d).pair true) 0 0)).n ≤ 256 ∧
  (opLane s ((rdOp 0 d).pair true) 1 0).toNat % 4 = 0 ∧
  moverTrap s (uPair s ((rdOp 1 a).pair true)) (tileDesc (opLane s ((rdOp 0 d).pair true) 0 0)).m
    (tileDesc (opLane s ((rdOp 0 d).pair true) 0 0)).n (opLane s ((rdOp 0 d).pair true) 1 0).toNat size = none ∧
  s.cur.cntT ≠ 63 ∧ locksUsed s < 32

/-- R200 to R203: TMM and TMMR enter a multiplication; TMMI and TMMIR one that first reads a count word at the address in d+1:d+2.

R204, R205: TLDA, TSTA and TCVT enter their transfers, TZRA its clearing; TFEN closes the open batch and returns its number; TWT passes
a batch that has retired, and is held at one that has not. -/
def Obligations.TileInstructions : Prop :=
  ((∀ p ∈ [Instr.tmm, Instr.tmmr], ∀ (d a b : RegCode) (s : State), Clean (p d a b) s → enabled s.cur ≠ 0 → TileOk s (rdOp 0 d) a b →
    EntersTile (p d a b) s (fun o => TileOpHolds s (rdOp 0 d) a b o ∧ o.counted = true)) ∧
  (∀ p ∈ [Instr.tmmi, Instr.tmmir], ∀ (d a b : RegCode) (s : State), Clean (p d a b) s → enabled s.cur ≠ 0 →
    TileOk s ((rdOp 0 d).many 3 false) a b →
    (pairOf (opLane s ((rdOp 0 d).many 3 false) 1 0) (opLane s ((rdOp 0 d).many 3 false) 2 0)).toNat % 8 = 0 →
    EntersTile (p d a b) s (fun o => TileOpHolds s ((rdOp 0 d).many 3 false) a b o ∧ o.counted = false ∧
      o.base = pairOf (opLane s ((rdOp 0 d).many 3 false) 1 0) (opLane s ((rdOp 0 d).many 3 false) 2 0)))) ∧
  ((∀ (d a : RegCode) (s : State), Clean (.tlda d a) s → enabled s.cur ≠ 0 → MoverOk s d a 4 →
    EntersTile (.tlda d a) s (fun o => o.kind = .load ∧ o.tile = (tileDesc (opLane s ((rdOp 0 d).pair true) 0 0)).tile ∧
      o.base = uPair s ((rdOp 1 a).pair true) ∧ o.pitch = (opLane s ((rdOp 0 d).pair true) 1 0).toNat)) ∧
  (∀ (d a : RegCode) (s : State), Clean (.tsta d a) s → enabled s.cur ≠ 0 → MoverOk s d a 4 →
    EntersTile (.tsta d a) s (fun o => o.kind = .store ∧ o.tile = (tileDesc (opLane s ((rdOp 0 d).pair true) 0 0)).tile ∧
      o.base = uPair s ((rdOp 1 a).pair true) ∧ o.pitch = (opLane s ((rdOp 0 d).pair true) 1 0).toNat)) ∧
  (∀ (d a b : RegCode) (s : State), Clean (.tcvt d a b) s → enabled s.cur ≠ 0 → mustBeU s (rdOp 2 b) = none →
    fieldW (uWord s (rdOp 2 b)) 4 28 = 0 → tcvtType (fieldW (uWord s (rdOp 2 b)) 0 4) = true →
    MoverOk s d a (tyWidth (fieldW (uWord s (rdOp 2 b)) 0 4) / 8) →
    EntersTile (.tcvt d a b) s (fun o =>
      o.kind = .convert (fieldW (uWord s (rdOp 2 b)) 0 4) (gmRound s.cur) (gmSat s.cur) (gmType s.cur) ∧
      o.base = uPair s ((rdOp 1 a).pair true))) ∧
  (∀ (t : BitVec 2) (s : State), Clean (.tzra t) s → enabled s.cur ≠ 0 → s.cur.hdr.pair = true → s.cur.follower = false →
    t.toNat < s.cur.hdr.tiles → s.cur.cntT ≠ 63 → EntersTile (.tzra t) s (fun o => o.kind = .zero ∧ o.tile = t.toNat)) ∧
  (∀ (d : RegCode) (s : State), Clean (.tfen d) s → enabled s.cur ≠ 0 → s.cur.hdr.pair = true → s.cur.follower = false →
    (∀ r ∈ destRegs s.cur (wrOp d), narrow s.cur r = false) →
    ∃ t, exec (.tfen d) s = .next t ∧ t.cur.strand = nextStrand s.cur.strand ∧ t.cur.idemr = none ∧ SameBytes s t ∧
      (getStream t s.cur.team (gmStream s.cur)).batch = (getStream s s.cur.team (gmStream s.cur)).batch + 1 ∧
      (getStream t s.cur.team (gmStream s.cur)).ops = (getStream s s.cur.team (gmStream s.cur)).ops ∧
      (∀ r, (d.toNat < 0xF0 → r ≠ effReg s.cur (wrOp d)) → readReg t.cur r = readReg s.cur r) ∧
      (d.toNat < 0xF0 → ∀ l < width s.cur, (activeLanes s.cur).getLsbD l = true →
        (readReg t.cur (effReg s.cur (wrOp d))).lane l = (getStream s s.cur.team (gmStream s.cur)).batch.setWidth 32)) ∧
  (∀ (a : RegCode) (s : State), Clean (.twt a) s → enabled s.cur ≠ 0 → mustBeU s (rdOp 1 a) = none → s.cur.hdr.pair = true →
    s.cur.follower = false →
    (batchRetired (getStream s s.cur.team (gmStream s.cur)) (fieldW (uWord s (rdOp 1 a)) 0 16) = true →
      DoesToGroup (.twt a) s (fun g => { g with strand := nextStrand g.strand })) ∧
    (batchRetired (getStream s s.cur.team (gmStream s.cur)) (fieldW (uWord s (rdOp 1 a)) 0 16) = false → s.cur.shelf = [] →
      DoesToGroup (.twt a) s (fun g =>
        { g with strand := { g.strand with hold := .twt (gmStream g) (fieldW (uWord s (rdOp 1 a)) 0 16) } }))))

/-! ### Auctions -/

/-- R207 to R210: each of these completes under the conditions that its clause names: where no offer of the group to the auction and no
acquire before them is open (R319), ACFG puts an empty auction with
cleared takings into its slot or, with capacity 0, empties the slot, TAKE returns the takings and clears them, and AREAD takes the heap out
and enters an engine operation that writes its bytes; BID enters its offers, counted in L.

R209: every offer is counted; a NaN score is rejected; an offer to a heap with room is accepted; an offer better than the worst entry of a
full heap evicts it and names its token; another offer is rejected; and the heap stays ordered best first.

That a forwarded offer is one step with its bid is the model's reading (log entry 47). -/
def Obligations.Auctions : Prop :=
  ((∀ (d a : RegCode) (s : State) (x : Auction), Clean (.acfg d a) s → enabled s.cur ≠ 0 → mustBeU s (rdOp 0 d) = none →
    mustBeU s ((rdOp 1 a).pair true) = none →
    x = acfgAuction s.cur (uWord s (rdOp 0 d)) (loHalf (uPair s ((rdOp 1 a).pair true))) (hiHalf (uPair s ((rdOp 1 a).pair true))) →
    acfgBad s (uWord s (rdOp 0 d)) (loHalf (uPair s ((rdOp 1 a).pair true))) (hiHalf (uPair s ((rdOp 1 a).pair true))) = false →
    auctionBusy s (uWord s (rdOp 0 d)) = false →
    ∃ t, exec (.acfg d a) s = .next t ∧ t.cur.strand = nextStrand s.cur.strand ∧ t.cur.regs = s.cur.regs ∧ SameBytes s t ∧
      (x.cap ≠ 0 → findAuction t x.part x.core x.slot = some x ∧ x.heap = [] ∧ x.offers = 0 ∧ x.accepts = 0 ∧ x.evicts = 0 ∧ x.sum = 0) ∧
      (x.cap = 0 → findAuction t x.part x.core x.slot = none) ∧
      ∀ p c k, (p ≠ x.part ∨ c ≠ x.core ∨ k ≠ x.slot) → findAuction t p c k = findAuction s p c k) ∧
  (∀ (d a b : RegCode) (s : State), Clean (.bid d a b) s → enabled s.cur ≠ 0 → mustBeU s (rdOp 0 d) = none →
    (∀ r ∈ destRegs s.cur (wrOp d), narrow s.cur r = false) → (auctionOf s (uWord s (rdOp 0 d))).isSome = true → tokenTrap s a = none →
    s.cur.cntL ≠ 63 →
    ∃ t o, exec (.bid d a b) s = .next t ∧ t.cur.outs = s.cur.outs ++ [o] ∧ o.kind = .bid ∧ o.d = effReg s.cur (wrOp d) ∧
      o.lanes.map (·.lane) = lanesOf (enabled s.cur) ∧ t.cur.cntL = s.cur.cntL + 1 ∧ t.cur.idemr = none ∧
      t.cur.strand = nextStrand s.cur.strand ∧ t.cur.regs = s.cur.regs ∧ t.auctions = s.auctions ∧ SameBytes s t) ∧
  (∀ (d a : RegCode) (s : State) (x : Auction), Clean (.take d a) s → enabled s.cur ≠ 0 → mustBeU s (rdOp 1 a) = none →
    auctionOf s (uWord s (rdOp 1 a)) = some x → auctionBusy s (uWord s (rdOp 1 a)) = false → (∀ r ∈ destRegs s.cur ((wrOp d).many 4 false), narrow s.cur r = false) →
    ∃ t, exec (.take d a) s = .next t ∧ t.cur.strand = nextStrand s.cur.strand ∧ SameBytes s t ∧
      auctionOf t (uWord s (rdOp 1 a)) = some { x with offers := 0, accepts := 0, evicts := 0, sum := 0 } ∧
      (∀ r, r ∉ destRegs s.cur ((wrOp d).many 4 false) → readReg t.cur r = readReg s.cur r) ∧
      (d.toNat < 0xF0 → ∀ l < width s.cur, (activeLanes s.cur).getLsbD l = true →
        (readReg t.cur (effReg s.cur (wrOp d))).lane l = x.offers ∧ (readReg t.cur (effReg s.cur (wrOp d) + 1)).lane l = x.accepts ∧
        (readReg t.cur (effReg s.cur (wrOp d) + 2)).lane l = x.evicts ∧ (readReg t.cur (effReg s.cur (wrOp d) + 3)).lane l = x.sum)) ∧
  (∀ (d a : RegCode) (s : State) (x : Auction) (r : EngReq), Clean (.aread d a) s → enabled s.cur ≠ 0 → mustBeU s (rdOp 0 d) = none →
    mustBeU s ((rdOp 1 a).pair true) = none → auctionOf s (uWord s (rdOp 0 d)) = some x → (uPair s ((rdOp 1 a).pair true)).toNat % 8 = 0 →
    r = { kind := .aread (heapBytes x), dst := uPair s ((rdOp 1 a).pair true), src := none, index := none, size := (heapBytes x).length,
          lock := 8 + 8 * x.cap, fe := 0, land := none, bind := none, relay := false } →
    engTrap s r = none → s.cur.cntC ≠ 63 → engStalls s r = false → auctionBusy s (uWord s (rdOp 0 d)) = false →
    EntersEngine (.aread d a) s (putAuction { x with heap := [] } s) r false)) ∧
  (∀ (e : Word × Word) (a : Auction),
    (isNanCode f32 e.1.toNat = true → offer e a = (.rejected, { a with offers := a.offers + 1 })) ∧
    (isNanCode f32 e.1.toNat = false → a.heap.length < a.cap →
      ∃ b, offer e a = (.accepted, b) ∧ b.offers = a.offers + 1 ∧ b.accepts = a.accepts + 1 ∧ b.evicts = a.evicts ∧
        b.sum = wd (add32 a.sum.toNat e.1.toNat) ∧ b.heap.Perm (e :: a.heap)) ∧
    (isNanCode f32 e.1.toNat = false → a.cap ≤ a.heap.length → ∀ w, a.heap.getLast? = some w →
      (better e w = true → ∃ b, offer e a = (.evicted w.2, b) ∧ b.offers = a.offers + 1 ∧ b.accepts = a.accepts + 1 ∧
        b.evicts = a.evicts + 1 ∧ b.sum = wd (add32 a.sum.toNat e.1.toNat) ∧ b.heap.Perm (e :: a.heap.dropLast)) ∧
      (better e w = false → offer e a = (.rejected, { a with offers := a.offers + 1 }))) ∧
    (a.heap.Pairwise (fun x y => better y x = false) → (offer e a).2.heap.Pairwise (fun x y => better y x = false)))

/-! ### Teams and queues -/

/-- What a bin x becomes when threads with arguments enter it (R190, R339): its threads and then the new ones, in order, form full groups of its
width as far as they go, and the rest stay in it. -/
def BinTakes (x y : Bin) (args : List Word) (now : DWord) : Prop :=
  { y with threads := x.threads, formed := x.formed } = x ∧ y.formed.take x.formed.length = x.formed ∧
  (∀ l ∈ y.formed.drop x.formed.length, l.length = 2 ^ x.lgw) ∧ y.threads.length < 2 ^ x.lgw ∧
  (y.formed.drop x.formed.length).flatten ++ y.threads.map (·.1) = x.threads.map (·.1) ++ args ∧
  ∀ e ∈ y.threads, e ∈ x.threads ∨ e.2 = now

/-- A team whose issuing group is the last to come to its FORK (R191): the state with that group at it. -/
def LastAtFork (a : RegCode) (s s1 : State) : Prop :=
  Clean (.fork a) s ∧ enabled s.cur ≠ 0 ∧ mustBeU s ((rdOp 1 a).pair true) = none ∧ s.cur.region = none ∧
  (uPair s ((rdOp 1 a).pair true)).toNat % 128 = 0 ∧ s.cur.cont = none ∧ wholeStrand s.cur = true ∧ countersZero s.cur = true ∧
  s.cur.live = true ∧ (∀ g ∈ s.others, g.team = s.cur.team → forkWait g = some (uPair s ((rdOp 1 a).pair true), s.cur.strand.pc)) ∧
  s1 = modCur (fun g =>
    { g with idemr := none, strand := { g.strand with hold := .forkTeam (uPair s ((rdOp 1 a).pair true)), replay := none } }) s

/-- R190 to R192, R213, R340: SPAWN enters one thread for each enabled lane into the bin of its key, a new one where its key has none, and waits
where no bin is free. FORK gathers the team; with its last group's arrival a child gang enters reservation, for which the team waits, resident or
saved through its SAFEs, and a FORK too deep completes; an arrival with another record is a context error. ENQ takes the next
index of its queue and, where what its group issued before it is performed (R277), places its packet; PARK hands over a group in its save routine, and traps ILLEGAL_OPCODE elsewhere.

What ENQ traps where its record cannot be reached is the model's reading (log entry 57). -/
def Obligations.TeamInstructions : Prop :=
  (∀ (a b : RegCode) (s : State), Clean (.spawn a b) s → enabled s.cur ≠ 0 → mustBeU s ((rdOp 1 a).pair true) = none →
    (uPair s ((rdOp 1 a).pair true)).toNat % 64 = 0 → s.cur.cntS ≠ 63 →
    (∀ n x, ((binOfKey s s.cur.part s.cur.ctx s.cur.gang (uPair s ((rdOp 1 a).pair true)) = some n ∧ x = getBin s n) ∨
      (binOfKey s s.cur.part s.cur.ctx s.cur.gang (uPair s ((rdOp 1 a).pair true)) = none ∧ freeBin s s.cur.part = some n ∧
        readSpawn s s.cur.part s.cur.ctx s.cur.gang (uPair s ((rdOp 1 a).pair true)) = .ok x)) →
      ∃ t, exec (.spawn a b) s = .next t ∧ t.cur.strand = nextStrand s.cur.strand ∧ t.cur.idemr = none ∧ t.cur.regs = s.cur.regs ∧
        SameBytes s t ∧ BinTakes x (getBin t n) (spawnArgs s b) s.time ∧ ∀ m, m ≠ n → getBin t m = getBin s m) ∧
    (binOfKey s s.cur.part s.cur.ctx s.cur.gang (uPair s ((rdOp 1 a).pair true)) = none → freeBin s s.cur.part = none → s.cur.shelf = [] →
      DoesToGroup (.spawn a b) s (fun g => { g with
        idemr := none, cntS := g.cntS + 1, strand := { g.strand with hold := .bin (uPair s ((rdOp 1 a).pair true)) (spawnArgs s b) } }))) ∧
  (∀ (a : RegCode) (s : State), Clean (.fork a) s → enabled s.cur ≠ 0 → mustBeU s ((rdOp 1 a).pair true) = none → s.cur.region = none →
    (uPair s ((rdOp 1 a).pair true)).toNat % 128 = 0 → s.cur.cont = none →
    (wholeStrand s.cur = false ∨ countersZero s.cur = false) → s.cur.shelf = [] →
    exec (.fork a) s = .next { s with last := .stalled, cur := { s.cur with
      strand := { s.cur.strand with hold := .forkGather (uPair s ((rdOp 1 a).pair true)) } } }) ∧
  (∀ (a : RegCode) (s : State), Clean (.fork a) s → enabled s.cur ≠ 0 → mustBeU s ((rdOp 1 a).pair true) = none → s.cur.region = none →
    (uPair s ((rdOp 1 a).pair true)).toNat % 128 = 0 → s.cur.cont = none → wholeStrand s.cur = true → countersZero s.cur = true →
    forkDiffers s s.cur.team (uPair s ((rdOp 1 a).pair true), s.cur.strand.pc) = true →
    ∃ t, exec (.fork a) s = .next t ∧ t.cur.tval = 0xEE ∧ (getGang t s.cur.gang).status = .aborting ∧ (getGang t s.cur.gang).cause = 0x05 ∧
      t.agenda = .gangAbort s.cur.gang :: s.agenda ∧ t.cur.strand = s.cur.strand ∧ t.cur.regs = s.cur.regs ∧ SameBytes s t) ∧
  (∀ (a : RegCode) (s s1 s2 : State) (r : LaunchRec) (h : KHeader) (f : Option KHeader) (x : Gang), LastAtFork a s s1 →
    readLaunch s1 (getTeam s s.cur.team).ctx (uPair s ((rdOp 1 a).pair true)) = .ok (r, h, f) → x = childGang s1 s.cur.team r h f →
    (x.depth ≤ 8 → noFit s1 x = false → s2 = setGang s.gangNo x { s1 with gangNo := s.gangNo + 1 } →
      ∃ t, exec (.fork a) s = .next t ∧ t.gangNo = s.gangNo + 1 ∧
        (∃ st at_, getGang t s.gangNo = { x with status := st, tried := at_ } ∧ (st = .dep ∨ st = .reserving ∨ st = .committed)) ∧
        x.parent = some s.cur.team ∧ x.depth = (getGang s (getTeam s s.cur.team).gang).depth + 1 ∧ x.rcd = r ∧ x.seq = s.gangNo ∧
        (forkSafe s2 s2.cur = none →
          t.cur.strand = { s.cur.strand with hold := .forkChild s.gangNo, replay := none } ∧
          ∀ g ∈ t.others, g.team = s.cur.team → g.strand.hold = .forkChild s.gangNo) ∧
        ((∀ g ∈ s.others, g.id ≠ s.cur.id) → (∀ g ∈ teamGroups s2 s.cur.team, (forkSafe s2 g).isSome = true) →
          (reserveAreas (getTeam s2 s.cur.team).ctx ((teamGroups s2 s.cur.team).filter (fun g => !g.preempt)) s2).isSome = true →
          t.cur.saving.isSome = true ∧ t.cur.cont = some (s.cur.strand.pc, .child s.gangNo))) ∧
    (9 ≤ x.depth → fillWord x.ctx r.done (errorValue 0x07) s1 = some s2 → s2.cur.live = true → s2.cur.team = s.cur.team →
      (forkWait s2.cur).isSome = true →
      ∃ t, exec (.fork a) s = .next t ∧ t.mem = s2.mem ∧ t.gangs = s2.gangs ∧ t.cur.strand = { nextStrand s2.cur.strand with hold := .none })) ∧
  (∀ (a : RegCode) (s : State), Clean (.fork a) s → enabled s.cur ≠ 0 → mustBeU s ((rdOp 1 a).pair true) = none → s.cur.region = none →
    (uPair s ((rdOp 1 a).pair true)).toNat % 128 = 0 → s.cur.cont = none → wholeStrand s.cur = true → countersZero s.cur = true →
    forkDiffers s s.cur.team (uPair s ((rdOp 1 a).pair true), s.cur.strand.pc) = false →
    s.others.any (fun g => g.team == s.cur.team && (forkWait g).isNone) = true →
    exec (.fork a) s = .next { s with cur := { s.cur with
      idemr := none, strand := { s.cur.strand with hold := .forkTeam (uPair s ((rdOp 1 a).pair true)), replay := none } } }) ∧
  (∀ (a : RegCode) (s : State), Clean (.fork a) s → enabled s.cur ≠ 0 → s.cur.cont = some (s.cur.strand.pc, .forked) →
    DoesToGroup (.fork a) s (fun g => { g with idemr := none, cont := none, strand := nextStrand g.strand })) ∧
  (∀ (a b : RegCode) (s s1 : State) (pkt : List Byte) (q i : Nat), Clean (.enq a b) s → enabled s.cur ≠ 0 → s.cur.cont = none →
    mustBeU s ((rdOp 1 a).pair true) = none → mustBeU s (rdOp 2 b) = none → (uPair s ((rdOp 1 a).pair true)).toNat % 64 = 0 →
    q = fieldW (uWord s (rdOp 2 b)) 0 6 → fieldW (uWord s (rdOp 2 b)) 6 26 = 0 → enqQueue s q = true →
    ownRead (uPair s ((rdOp 1 a).pair true)) s = (.bytes pkt, s) → enqReleased s = true → takeIndex (queueKey s.cur.ctx q) s = .at i s1 →
    exec (.enq a b) s = .next (placeEnq q i pkt (enqDeadline s) (modCur closeIdem s1)) ∧
    ∀ s2, slotFree (getQueue s1 (queueKey s1.cur.ctx q)) i = true →
      placePacket (queueKey s1.cur.ctx q) i pkt (modCur closeIdem s1) = some (none, s2) →
      exec (.enq a b) s = .next (modCur nextPc s2)) ∧
  (∀ s : State, Clean .park s → enabled s.cur ≠ 0 →
    (s.cur.saving = none → Traps .park s (trapOf .illegalOpcode 0xB3000000)) ∧
    (s.cur.saving.isSome = true → countersZero s.cur = false → exec .park s = .next { s with last := .stalled }) ∧
    (s.cur.saving.isSome = true → countersZero s.cur = true → s.cur.live = true → s.cur.preempt = true →
      (s.others.any (fun g => g.team == s.cur.team && !g.parked) = true) →
      ∃ t, exec .park s = .next t ∧ t.cur.parked = true ∧ t.cur.outs = [] ∧ t.cur.regs = s.cur.regs ∧ SameBytes s t ∧
        (getTeam t s.cur.team).saves = (getTeam s s.cur.team).saves ++ [parkRecord s.cur]) ∧
    (s.cur.saving.isSome = true → countersZero s.cur = true → s.cur.preempt = false →
      ∃ t, exec .park s = .next t ∧ t.cur.parked = false ∧ t.cur.id = s.cur.id ∧ t.cur.restoring.isSome = true ∧ t.cur.exited = s.cur.exited ∧
        t.cur.restoreArea = s.cur.saveArea ∧ t.teams = s.teams ∧ SameBytes s t))

/-! ### Events: waiting lanes, engines and tiles -/

/-- An event that brings nothing about. -/
def Nothing (i : Instr) (s : State) : Prop := exec i s = .next s

/-- R165, R166, R168, R247: the lanes of an instruction that wait on one word attempt again together, in lane order, no sooner than 64 ns after
the last attempt in spin and 1 µs in retry mode. Of a lane alone on its word whose page is there: where the word is still in the wrong state a spinning lane
counts one more spin, or parks once its spins are used up; where an LDWT finds the word full, its waiter receives the value, and the
wait is gone.

R154, R166: a budget that has not run out ends nothing; one that has makes the instruction trap FE_BUDGET at the lane's address, with
the lanes that have not completed for its replay mask, where none of them is under way at its target; a remote lane's operation fails at its
source instead.

That a wait in retry mode stays there is the model's reading (log entry 15). -/
def Obligations.WaitsAndBudgets : Prop :=
  ((∀ (s : State) (k n : Nat) (w : FeWait), findWait k s = some w → w.mode = .spin n →
    (((cohort w WaitMode.spins s).head?.map (·.id) ≠ some k ∨ (cohort w WaitMode.spins s).any (fun x => !spaced s x 64) = true) →
      Nothing (.feSpinRetry k) s) ∧
    ((cohort w WaitMode.spins s).head?.map (·.id) = some k → (cohort w WaitMode.spins s).all (fun x => spaced s x 64) = true →
      exec (.feSpinRetry k) s = .next (attemptCohort (cohort w WaitMode.spins s) s)) ∧
    (cohort w WaitMode.spins s = [w] → spaced s w 64 = true → waitPage s w = none → isPoisoned s w.team w.loc 8 = false → feStep w.kind w.team w.loc w.data s = none →
      (n + 1 < w.spins → ∃ t, exec (.feSpinRetry k) s = .next t ∧ findWait k t = some { w with mode := .spin (n + 1), tried := s.time } ∧
        t.cur = s.cur ∧ t.mem = s.mem) ∧
      (w.spins ≤ n + 1 → ∃ t x, exec (.feSpinRetry k) s = .next t ∧ findWait k t = some x ∧ (x.mode = .parked ∨ x.mode = .retry) ∧
        x.since = some (w.since.getD s.time) ∧ x.tried = s.time ∧ x.who = w.who ∧ x.kind = w.kind ∧ x.va = w.va ∧ x.data = w.data ∧
        t.cur = s.cur))) ∧
  (∀ (s : State) (k : Nat) (w : FeWait), findWait k s = some w → w.mode = .retry →
    (((cohort w WaitMode.retries s).head?.map (·.id) ≠ some k ∨ (cohort w WaitMode.retries s).any (fun x => !spaced s x 1000) = true) →
      Nothing (.feBucketRetry k) s) ∧
    ((cohort w WaitMode.retries s).head?.map (·.id) = some k → (cohort w WaitMode.retries s).all (fun x => spaced s x 1000) = true →
      exec (.feBucketRetry k) s = .next (attemptCohort (cohort w WaitMode.retries s) s))) ∧
  (∀ (s : State) (k op lane : Nat) (w : FeWait) (o : MemOp) (l : LaneAcc) (i : Instr), findWait k s = some w →
    ((∃ n, w.mode = .spin n ∧ i = .feSpinRetry k ∧ cohort w WaitMode.spins s = [w] ∧ spaced s w 64 = true) ∨
      (w.mode = .retry ∧ i = .feBucketRetry k ∧ cohort w WaitMode.retries s = [w] ∧ spaced s w 1000 = true)) →
    w.who = .lane s.cur.id op lane → w.kind = .ldwt → waitPage s w = none → isPoisoned s w.team w.loc 8 = false → readFe s w.team w.loc = true →
    AtPort s s.cur.id → findOp op s.cur = some o → o.kind = .fe .ldwt → o.lanes = [l] → l.lane = lane → o.z = 8 → o.ctr = .l → o.ret = true →
    o.pred = none → o.d + 1 < 0xF0 → lane < width s.cur → lane < 128 → s.cur.exited.getLsbD lane = false →
    ∃ t, exec i s = .next t ∧ findWait k t = none ∧ (∀ x ∈ t.cur.outs, x.id ≠ op) ∧ t.cur.cntL = s.cur.cntL - 1 ∧
      (readReg t.cur o.d).lane lane = wd (readBytes s w.team w.loc 8) ∧
      (readReg t.cur (o.d + 1)).lane lane = wd (readBytes s w.team w.loc 8 / 2 ^ 32) ∧
      ∀ r, r ≠ o.d → r ≠ o.d + 1 → readReg t.cur r = readReg s.cur r)) ∧
  (∀ (s : State) (k : Nat) (w : FeWait), findWait k s = some w →
    (budgetOver s w = false → Nothing (.feBudgetExpiry k) s) ∧
    (budgetOver s w = true → ∀ (op lane : Nat) (o : MemOp), w.who = .lane s.cur.id op lane → AtPort s s.cur.id → findOp op s.cur = some o →
      s.cur.inTrap = false → s.cur.hdr.handler ≠ 0 → s.cur.restoring = none → s.cur.strand.mask.getLsbD lane = true →
      s.cur.rest = [] → s.cur.shelf = [] → s.cur.strand.hold = .op op →
      s.barrow.any (fun b => b.gid == some s.cur.id && b.op == op) = false →
      ∃ t, exec (.feBudgetExpiry k) s = .next t ∧ findWait k t = none ∧ (∀ x ∈ t.cur.outs, x.id ≠ op) ∧ t.cur.inTrap = true ∧
        t.cur.tcause = tcauseOf (laneTrap .feBudget lane w.va) ∧ t.cur.tval = w.va ∧ t.cur.tpc = s.cur.strand.pc &&& ~~~3#64 ∧
        t.cur.strand.pc = s.cur.hdr.handler ∧ t.cur.replay = some (s.cur.strand.pc, openLanes o) ∧
        t.cur.regs = s.cur.regs) ∧
    (budgetOver s w = true → ∀ r : OpRecord, w.who = .remote r →
      exec (.feBudgetExpiry k) s = .next (replyTo r 0 (some .feBudget) (dropWait w s))))

/-- R178, R179, R182, R185: the bytes of a fill that land, whole words of them, hold the pattern, and those of a copy are the source's, of
which up to 7 bytes more have been read; the operation counts them, and every other byte of device memory is as the use of its addresses
left it.

R40, R179, R180, R183: the landing word receives the size and becomes full, or the fill parks where it is full; an operation that has
done all it does, and one that has failed, leave with their range locks, and C falls; a failure reaches the group.

In which pieces bytes land is the model's reading (log entry 8), and so is the failure at a poisoned landing word (log entry 44). -/
def Obligations.EngineEvents : Prop :=
  ((∀ (s s1 : State) (e n m va pa : Nat) (x : EngOp) (p : DWord), findEng e s = some x → x.kind = .fill p → x.fe = 0 → x.bind = none →
    x.chan = none → engRunning x = true → engineMayAct x s = true →
    m = stepLength x n →
    reach x (x.dst + dw x.landed) m .wr s = (.at va (.dev pa), s1) → earlierTouch x va (.dev pa) m s1 = false →
    ∃ t, exec (.engineBytesLand e n) s = .next t ∧
      findEng e t = some { x with landed := x.landed + m, held := none, ahead := [], bits := x.bits.drop (m / 8) } ∧
      (∀ j < m, readByte t 0 (.dev pa) j = p.extractLsb' (8 * (((x.dst + dw x.landed).toNat + j) % 8)) 8) ∧
      ∀ a, (a < pa ∨ pa + m ≤ a) → readByte t 0 (.dev a) 0 = readByte s1 0 (.dev a) 0) ∧
  (∀ (s s1 s2 : State) (e n k m va vb pa pb : Nat) (x : EngOp), findEng e s = some x → x.kind = .copy → x.fe = 0 → x.bind = none →
    x.chan = none → engRunning x = true → engineMayAct x s = true → x.ahead = [] → m = stepLength x n →
    k = min (min (m + (8 - ((x.src + dw x.landed).toNat + m) % 8) % 8) (x.size - x.landed)) (toBoundary (x.src + dw x.landed)) → m ≤ k →
    reach x (x.src + dw x.landed) k .rd s = (.at vb (.dev pb), s1) → earlierTouch x vb (.dev pb) k s1 = false →
    reach x (x.dst + dw x.landed) m .wr s1 = (.at va (.dev pa), s2) → earlierTouch x va (.dev pa) m s2 = false →
    ∃ t, exec (.engineBytesLand e n) s = .next t ∧
      findEng e t = some { x with
        landed := x.landed + m, held := none, bits := x.bits.drop (m / 8),
        ahead := (List.range (k - m)).map (fun j => (readByte s1 x.team (.dev pb) (m + j), isPoisoned s1 x.team (.dev (pb + (m + j))) 1)) } ∧
      (∀ j < m, readByte t 0 (.dev pa) j = readByte s1 0 (.dev pb) j) ∧
      ∀ a, (a < pa ∨ pa + m ≤ a) → readByte t 0 (.dev a) 0 = readByte s2 0 (.dev a) 0) ∧
  (∀ (s : State) (e n : Nat) (x : EngOp), findEng e s = some x → x.remote = false → (engRunning x = false ∨ engineMayAct x s = false) →
    Nothing (.engineBytesLand e n) s)) ∧
  ((∀ (s s1 : State) (e va pa : Nat) (x : EngOp) (a : DWord), findEng e s = some x → x.land = some a → fillDue x = true →
    engineMayAct x s = true → reach x a 8 .feWrite s = (.at va (.dev pa), s1) → isPoisoned s1 x.team (.dev pa) 8 = false →
    earlierTouch x va (.dev pa) 8 s1 = false →
    (readFe s1 x.team (.dev pa) = false → s.waits = [] → s.fills = [] →
      ∃ t, exec (.engineLandingFill e) s = .next t ∧ findEng e t = some { x with filled := true, held := none } ∧
        readFe t x.team (.dev pa) = true ∧ readBytes t x.team (.dev pa) 8 = x.size % 2 ^ 64) ∧
    (readFe s1 x.team (.dev pa) = true →
      ∃ t w, exec (.engineLandingFill e) s = .next t ∧ findEng e t = some { x with parked := true, held := none } ∧ w ∈ t.waits ∧
        w.who = .engine x.id ∧ w.kind = .stfl ∧ w.data = dw x.size ∧ w.limit = 0)) ∧
  (∀ (s : State) (e : Nat) (x : EngOp), findEng e s = some x → engDone x = true → x.remote = false → moverOp x = false →
    copyOf s x = none → x.gid = some s.cur.id → AtPort s s.cur.id →
    ∃ t, exec (.engineComplete e) s = .next t ∧ findEng e t = none ∧ (∀ l ∈ t.locks, l.eng ≠ e) ∧ t.cur.cntC = s.cur.cntC - 1 ∧
      t.cur.regs = s.cur.regs ∧ SameBytes s t) ∧
  (∀ (s : State) (e : Nat) (x : EngOp), findEng e s = some x → engDone x = false → Nothing (.engineComplete e) s) ∧
  (∀ (s : State) (e : Nat) (x : EngOp) (c : Cause) (v : DWord), findEng e s = some x → x.fail = some (c, v) → moverOp x = false →
    copyOf s x = none → x.gid = some s.cur.id → AtPort s s.cur.id → remoteCause c = false → residentLanes s.cur ≠ 0 →
    ∃ t, exec (.engineFailure e) s = .next t ∧ findEng e t = none ∧ (∀ l ∈ t.locks, l.eng ≠ e) ∧ t.cur.cntC = s.cur.cntC - 1 ∧
      t.cur.efails = s.cur.efails ++ [(c, v)] ∧ t.cur.regs = s.cur.regs ∧ SameBytes s t))

/-- R199 to R205, R234: the head of a stream starts, where its group's order lets it and no operation occupies the pair's engine: a TZRA clears its
tile, a multiply writes the elements inside its limits and no others, a TLDA writes those that have arrived, and TSTA and TCVT take theirs; the count word of TMMI and TMMIR is read by an LDWT; a finished head
leaves its stream, and T falls; a mirror comparison that found a difference traps MIRROR_MISMATCH.

The causes for a count word that cannot be used are the model's reading (log entry 40), and so is the step in which a mover takes or
writes its elements (log entry 97). -/
def Obligations.TileProgress : Prop :=
  (∀ (s : State) (tm k : Nat) (o : TileOp) (l : List TileOp), (getStream s tm k).ops = o :: l → o.started = false → o.counted = true →
    agentMayAct (some o.gid) o.id s = true → engineBusy s tm = false →
    (o.kind = .zero → ∃ t, exec (.tileOpStart tm k) s = .next t ∧ (getStream t tm k).ops = { o with started := true } :: l ∧
      (∀ r c, r < 128 → c < 256 → readTile (getTeam t tm) o.tile r c = 0 ∧ tilePoisoned (getTeam t tm) o.tile r c = false) ∧ t.cur = s.cur ∧
      SameBytes s t) ∧
    (o.kind = .load → moverArrived s o = true → o.m ≤ 128 → o.n ≤ 256 → ∃ t, exec (.tileOpStart tm k) s = .next t ∧
      (getStream t tm k).ops = { o with started := true } :: l ∧ t.cur = s.cur ∧ SameBytes s t ∧
      ∀ tile r c, r < 128 → c < 256 → readTile (getTeam t tm) tile r c =
        if tile = o.tile ∧ r < o.m ∧ c < o.n ∧ r * o.n + c < o.staged.length then (o.staged.getD (r * o.n + c) (0, false)).1
        else readTile (getTeam s tm) tile r c) ∧
    ((o.kind = .store ∨ ∃ ty round sat src, o.kind = .convert ty round sat src) → ∃ t, exec (.tileOpStart tm k) s = .next t ∧
      (getStream t tm k).ops = { o with staged := takeElems (getTeam s tm) o, started := true } :: l ∧ t.cur = s.cur ∧ SameBytes s t) ∧
    (o.kind = .mul → tilePoison s tm o = none → o.m ≤ 128 → o.n ≤ 256 →
      ∃ t, exec (.tileOpStart tm k) s = .next t ∧ (getStream t tm k).ops = { o with started := true } :: l ∧ t.cur = s.cur ∧ SameBytes s t ∧
        ∀ tile r c, r < 128 → c < 256 → readTile (getTeam t tm) tile r c =
          if tile = o.tile ∧ r < tileRowsOf o ∧ c < o.n then tileResult s tm o r c else readTile (getTeam s tm) tile r c)) ∧
  (∀ (s s1 : State) (tm k va pa : Nat) (o : TileOp) (l : List TileOp), (getStream s tm k).ops = o :: l → o.counted = false →
    countWaits s tm k = false → agentMayAct (some o.gid) o.id s = true →
    reach (countReader s tm o) o.base 8 .feRead s = (.at va (.dev pa), s1) → isPoisoned s1 tm (.dev pa) 8 = false →
    (readFe s1 tm (.dev pa) = true → ∃ t, exec (.tmmiCountRead tm k) s = .next t ∧
      (getStream t tm k).ops = { o with count := some (dw (readBytes s1 tm (.dev pa) 8)), counted := true } :: l ∧ t.cur = s.cur ∧
      SameBytes s1 t) ∧
    (readFe s1 tm (.dev pa) = false → ∃ t w, exec (.tmmiCountRead tm k) s = .next t ∧ w ∈ t.waits ∧ w.who = .tile tm k ∧ w.kind = .ldwt ∧
      w.spins = o.spin ∧ w.limit = o.park ∧ t.cur = s.cur)) ∧
  (∀ (s : State) (tm k : Nat) (o : TileOp) (l : List TileOp), (getStream s tm k).ops = o :: l → tileFinished s o = true →
    AtPort s o.gid → (∀ x ∈ l, x.id ≠ o.id) →
    (∃ t, exec (.tileOpRetire tm k none) s = .next t ∧ (getStream t tm k).ops = l ∧ t.cur.cntT = s.cur.cntT - 1 ∧
      t.cur.regs = s.cur.regs ∧ SameBytes s t) ∧
    (∀ row col, mirrored o = true → row < tileRowsOf o → col < o.n →
      ∃ t, exec (.tileOpRetire tm k (some (row, col))) s = .next t ∧ t.cur.stopped = true ∧
        t.cur.tcause = tcauseOf (mirrorTrap o row col) ∧ t.cur.tval = dw (o.tile * 2 ^ 16 + row * 2 ^ 8 + col) ∧
        (getGang t s.cur.gang).status = .aborting ∧ (getStream t tm k).ops = l)) ∧
  (∀ (s : State) (tm k : Nat) (o : TileOp) (l : List TileOp) (x : Option (Nat × Nat)), (getStream s tm k).ops = o :: l →
    tileFinished s o = false → Nothing (.tileOpRetire tm k x) s)

/-! ### Events: the life of a group -/

/-- R119, R127: a SLEEP whose time has come lets its group go on, and one whose time has not holds it; a GFUSE whose class has expired gives 3
to the lanes of its strand and starts the signature anew (R41), and one of class 0 never expires.

R226 to R228, R401: two live strands that stand at one instruction merge into one of the union of their lanes with MRG set; rotation
shelves the strand that has been live longest for the oldest shelved one; a Ready strand that has waited 4,096 cycles while another issued
has aged; a group whose candidate has waited 64 cycles is starved.

Which holds let strands merge, and from when starvation counts, are the model's readings (log entries 51 and 53). -/
def Obligations.TimersAndStrands : Prop :=
  ((∀ (s : State) (till : DWord), AtPort s s.cur.id → s.cur.strand.hold = .sleep till → s.cur.rest = [] → s.cur.shelf = [] →
    (till.toNat ≤ s.time.toNat → DoesToGroup (.sleepWake s.cur.id) s (fun g =>
      { g with strand := { g.strand with hold := .none, pc := g.strand.pc + 4 } })) ∧
    (s.time.toNat < till.toNat → Nothing (.sleepWake s.cur.id) s)) ∧
  (∀ (s : State) (d c : Nat) (since : DWord), AtPort s s.cur.id → s.cur.strand.hold = .gfuse d c since →
    (c = 0 → Nothing (.gfuseTimeout s.cur.id) s) ∧
    (∀ n, fuseLimit c = some n → s.time.toNat < since.toNat + n → Nothing (.gfuseTimeout s.cur.id) s) ∧
    (∀ n, fuseLimit c = some n → since.toNat + n ≤ s.time.toNat → ∃ t, exec (.gfuseTimeout s.cur.id) s = .next t ∧
      t.cur.strand = { s.cur.strand with hold := .none, pc := s.cur.strand.pc + 4, replay := none, mrg := false } ∧
      t.cur.sig = 0 ∧ t.cur.steady = true ∧
      (d < 0xF0 → ∀ l < width s.cur, (activeLanes s.cur).getLsbD l = true → (readReg t.cur d).lane l = 3) ∧
      (∀ r, r ≠ d → readReg t.cur r = readReg s.cur r) ∧ t.cur.lgw = s.cur.lgw ∧ t.others = s.others ∧ SameBytes s t))) ∧
  ((∀ (s : State) (t u : Strand), AtPort s s.cur.id → mergePair (consideredStrands s.cur) = some (t, u) → t.mask &&& u.mask = 0 →
    s.cur.shelf = [] →
    ∃ v, exec (.strandMerge s.cur.id) s = .next v ∧ { t with
      mask := t.mask ||| u.mask, mrg := true, hold := if t.hold = .none then u.hold else t.hold } ∈ liveStrands v.cur ∧
      u ∉ liveStrands v.cur ∧ v.cur.regs = s.cur.regs ∧ v.others = s.others ∧ SameBytes s v) ∧
  (∀ (s : State), AtPort s s.cur.id → mergePair (consideredStrands s.cur) = none → Nothing (.strandMerge s.cur.id) s) ∧
  (∀ (s : State) (t u : Strand) (l : List Strand), AtPort s s.cur.id → s.cur.shelf = t :: l → longestLive (liveStrands s.cur) = some u →
    t.mask ≠ 0 →
    (s.cur.inTrap = false → s.cur.lastSwap + 4096 ≤ clkOf s → ∃ v, exec (.strandRotation s.cur.id) s = .next v ∧
      v.cur.shelf = l ++ [{ u with entry := freeShelf { s.cur with shelf := l } }] ∧ goLive (clkOf s) t ∈ liveStrands v.cur ∧ v.cur.lastSwap = clkOf s ∧ v.cur.regs = s.cur.regs ∧
      v.others = s.others ∧ SameBytes s v) ∧
    ((s.cur.inTrap = true ∨ clkOf s < s.cur.lastSwap + 4096) → Nothing (.strandRotation s.cur.id) s)) ∧
  (∀ (s : State), AtPort s s.cur.id →
    (∀ t, agedStrand s.cur s = some t → DoesToGroup (.strandAging s.cur.id) s (fun g => { g with aged := some t.pc })) ∧
    (agedStrand s.cur s = none → Nothing (.strandAging s.cur.id) s)) ∧
  (∀ (s : State), AtPort s s.cur.id →
    (64 ≤ s.cur.waited → s.cur.starved = none → (candidate s s.cur).isSome = true →
      DoesToGroup (.groupStarved s.cur.id) s (fun g => { g with starved := some (clkOf s + 64 - g.waited) })) ∧
    (s.cur.waited < 64 → Nothing (.groupStarved s.cur.id) s)))

/-- R399: once the local operations of a group have completed, an idempotent restart takes it back to its IDEM with the lanes, the signature
and the flags that the region keeps, one more restart counted and the poison's address kept; until then the restart is due. R198: the
rollback of a remote region, once no lane of it waits at another package, gives the group back the state that RBEGIN kept, with the cause in SR_TVAL, and its lanes go on at the handler.

R407: a group whose progress timer runs and has reached the limit traps WATCHDOG with the time in µs, its wait is withdrawn, and the
day book names it (a wait at another package is withdrawn there first); a group below the limit goes on.

How a withdrawn wait goes on, and how a remote one is withdrawn, are the model's readings (log entries 52 and 82). -/
def Obligations.RegionsAndWatchdog : Prop :=
  ((∀ (s : State) (r : IdemRegion) (addr : DWord), AtPort s s.cur.id → s.cur.idemr = some r →
    (restartIdle s s.cur = true → ∃ t, exec (.idempotentRestart s.cur.id addr) s = .next t ∧
      t.cur.strand = { newStrand r.pc r.lanes s.cur.inTrap (clkOf s) with mrg := r.mrg } ∧ t.cur.rest = [] ∧ t.cur.shelf = [] ∧
      t.cur.sig = r.sig ∧ t.cur.steady = r.steady ∧ t.cur.regs = s.cur.regs ∧ t.cur.preds = s.cur.preds ∧
      t.cur.idemr = some { r with count := r.count + 1, last := some (r.due.getD addr), restarting := true, due := none } ∧
      ∃ d, t.daybook.getLast? = some d ∧ d.kind = 0x04 ∧ d.val = r.due.getD addr ∧ d.ctx = s.cur.ctx) ∧
    (restartIdle s s.cur = false → DoesToGroup (.idempotentRestart s.cur.id addr) s (fun g =>
      { g with idemr := some { r with due := some (r.due.getD addr) } }))) ∧
  (∀ (s : State) (r : RemoteRegion) (cause : BitVec 8), AtPort s s.cur.id → s.cur.region = some r →
    (localIdle s s.cur = true → mayWaitAway s.cur r.firstOp = [] → r.lanes &&& ~~~s.cur.exited ≠ 0 → ∃ t, exec (.regionRollback s.cur.id cause) s = .next t ∧
      t.cur.region = none ∧ t.cur.gm = r.gm ∧ t.cur.xi = r.xi ∧ t.cur.cchn = r.cchn ∧ t.cur.ccnt = r.ccnt ∧ t.cur.kmask = r.kmask ∧
      t.cur.preds = r.preds ∧ t.cur.rckp = 0 ∧ t.cur.tval = (r.failing.getD cause).setWidth 64 ∧ t.cur.strand.pc = r.handler ∧
      t.cur.strand.mask = r.lanes &&& ~~~s.cur.exited ∧
      (∀ k ∈ r.seen, readReg t.cur k = Sparse.get (.u 0) r.saved k) ∧ (∀ k, k ∉ r.seen → readReg t.cur k = readReg s.cur k) ∧
      SameBytes s t) ∧
    (localIdle s s.cur = false → DoesToGroup (.regionRollback s.cur.id cause) s (fun g =>
      { g with region := some { r with failing := some (r.failing.getD cause) } })))) ∧
  (∀ (s : State), AtPort s s.cur.id →
    ((timerRuns s s.cur = false ∨ s.cur.noProg < watchdogLimit s) → Nothing (.watchdog s.cur.id) s) ∧
    (timerRuns s s.cur = true → watchdogLimit s ≤ s.cur.noProg → (getGang s s.cur.gang).status ≠ .aborting → s.cur.inTrap = false →
      s.cur.hdr.handler ≠ 0 → s.cur.restoring = none → s.cur.rest = [] → s.cur.shelf = [] → s.cur.strand.mask ≠ 0 →
      ((∀ id, s.cur.strand.hold ≠ .op id) ∨ ∃ id o, s.cur.strand.hold = .op id ∧ findOp id s.cur = some o ∧ o.ending = none ∧
        s.barrow.any (fun b => b.gid == some s.cur.id && b.op == id) = false) →
      ∃ t d, exec (.watchdog s.cur.id) s = .next t ∧ t.cur.tcause = tcauseOf (trapOf .watchdog 0) ∧
        t.cur.tval = dw (s.cur.noProg / 1000) ∧ t.cur.tpc = s.cur.strand.pc &&& ~~~3#64 ∧ t.cur.inTrap = true ∧ t.cur.strand.pc = s.cur.hdr.handler ∧
        t.cur.noProg = 0 ∧ t.cur.regs = s.cur.regs ∧
        (∀ id, s.cur.strand.hold = .op id → ∀ w ∈ t.waits, ∀ lane, w.who ≠ .lane s.cur.id id lane) ∧
        (∀ id o, s.cur.strand.hold = .op id → findOp id s.cur = some o → t.cur.replay = some (s.cur.strand.pc, openLanes o)) ∧
        t.daybook.getLast? = some d ∧ d.kind = 0x05 ∧
        d.val = dw (s.cur.noProg / 1000)))

/-- R190, R339: the threads of a bin whose timer has run out form a partial group, and the oldest formed group of a bin starts where it
fits, where no other work goes before it and a window has room for its core, its arguments in v0 of its lanes. R194: a held PREL is performed once its count has arrived, which is then subtracted.

The order in which held PRELs are looked at is the model's reading (log entry 48). -/
def Obligations.BinsAndPrels : Prop :=
  (∀ (s : State) (b : Nat) (x : Word × DWord) (l : List (Word × DWord)), (getBin s b).threads = x :: l →
    ((getBin s b).timer + x.2.toNat ≤ s.time.toNat → ∃ t, exec (.binTimerExpiry b) s = .next t ∧ (getBin t b).threads = [] ∧
      (getBin t b).formed = (getBin s b).formed ++ [(x :: l).map (·.1)] ∧ t.cur = s.cur ∧ t.others = s.others ∧ SameBytes s t) ∧
    (s.time.toNat < (getBin s b).timer + x.2.toNat → Nothing (.binTimerExpiry b) s)) ∧
  (∀ (s s1 : State) (b core quarter slot : Nat) (args : List Word) (l : List (List Word)), (getBin s b).formed = args :: l →
    ((getBin s b).threads ≠ [] ∨ l ≠ []) → quarter < 4 → slot < 32 → quiescing s (getBin s b).ctx = false →
    (groups s).any (fun g => g.part == (getBin s b).part && g.core == core && g.quarter == quarter && g.slot == slot) = false →
    fits s (getBin s b).part core quarter (getBin s b).hdr [(0, (getBin s b).hdr.lgw)] = true →
    binYields s (getBin s b) = false →
    activate (getBin s b).part core (getBin s b).hdr s = .ready s1 →
    ∃ t g, exec (.spawnGroupPlace b core quarter slot) s = .next t ∧ g ∈ groups t ∧ g.part = (getBin s b).part ∧ g.core = core ∧
      g.quarter = quarter ∧ g.slot = slot ∧ g.gang = (getBin s b).gang ∧ g.strand.pc = (getBin s b).hdr.entry ∧
      g.strand.mask = fullMask args.length ∧ (∀ k < width g, (readReg g 0).lane k = args.getD k 0) ∧ (getBin t b).formed = l) ∧
  (∀ (s s1 : State) (k va pa : Nat) (h : HeldPrel) (c : Word), s.prels[k]? = some h → h.rcd.kind = RemKind.prel c →
    ((arrived s h.rcd).toNat < h.count.toNat → Nothing (.prelPerform k) s) ∧
    (h.count.toNat ≤ (arrived s h.rcd).toNat → ingress h.rcd.ctx h.rcd.off 8 .wr s = (.ok va (.dev pa), s1) → h.rcd.src ≠ pkgId s →
      ∃ t, exec (.prelPerform k) s = .next t ∧ t.prels = s.prels.eraseIdx k ∧ arrived t h.rcd = arrived s h.rcd - h.count ∧
        readBytes t 0 (.dev pa) 8 = h.rcd.data.toNat % 2 ^ 64 ∧
        (∀ a, (a < pa ∨ pa + 8 ≤ a) → readByte t 0 (.dev a) 0 = readByte s1 0 (.dev a) 0) ∧ t.cur = s.cur))

/-- R114, R192, R337: a group all of whose lanes have exited, with its counters at 0, retires, and with its last group a team retires; an
ENQ whose budget has run out leaves its index to the skip set and traps ENQ_TIMEOUT with its queue's number.

R404: an aborting gang with no parent and no child loses its groups and its teams; once its completion word could be filled its context's
vector 63 is raised and its number is free, and until then it stays aborting; a gang that is not aborting is not touched.

What follows where a completion word cannot be reached is the model's reading (log entry 23). -/
def Obligations.GroupsAndGangsEnd : Prop :=
  ((∀ (s : State), AtPort s s.cur.id →
    (mayRetire s s.cur = false → Nothing (.groupRetire s.cur.id) s) ∧
    (mayRetire s s.cur = true → (∀ g ∈ s.others, g.team ≠ s.cur.team) → ∃ t, exec (.groupRetire s.cur.id) s = .next t ∧
      (∀ g ∈ groups t, g.id ≠ s.cur.id) ∧ getTeam t s.cur.team = Team.vacant ∧
      ∀ a, readByte t 0 (.dev a) 0 = readByte s 0 (.dev a) 0)) ∧
  (∀ (s : State) (q i : Nat) (pkt : List Byte) (d : DWord), AtPort s s.cur.id → s.cur.strand.hold = .enq q i pkt (some d) →
    s.cur.strand.mask ≠ 0 →
    (s.time.toNat < d.toNat → s.cur.rest = [] → s.cur.shelf = [] → Nothing (.enqTimeout s.cur.id) s) ∧
    (d.toNat ≤ s.time.toNat → (getQueue s (queueKey s.cur.ctx q)).skip.length < 64 → s.cur.inTrap = false → s.cur.hdr.handler ≠ 0 →
      s.cur.restoring = none → ∃ t, exec (.enqTimeout s.cur.id) s = .next t ∧ t.cur.tcause = tcauseOf (trapOf .enqTimeout (dw q)) ∧
        t.cur.tval = dw q ∧ t.cur.tpc = s.cur.strand.pc &&& ~~~3#64 ∧ t.cur.strand.pc = s.cur.hdr.handler ∧
        (getQueue t (queueKey s.cur.ctx q)).skip = (getQueue s (queueKey s.cur.ctx q)).skip ++ [i] ∧
        (getQueue t (queueKey s.cur.ctx q)).last = dw i))) ∧
  (∀ (s : State) (gid : Nat),
    ((getGang s gid).status ≠ .aborting → Nothing (.gangAbort gid) s) ∧
    ((getGang s gid).status = .aborting → (getGang s gid).parent = none → childGangs s gid = [] →
      ((fillWord (getGang s gid).ctx (getGang s gid).rcd.done (errorValue 0x05) (releaseGang gid s)).isSome = true →
        ∃ t, exec (.gangAbort gid) s = .next t ∧ getGang t gid = Gang.vacant ∧ (∀ g ∈ groups t, g.gang ≠ gid) ∧
          .interrupt ((getGang s gid).ctx + 1) 63 ∈ t.out) ∧
      (fillWord (getGang s gid).ctx (getGang s gid).rcd.done (errorValue 0x05) (releaseGang gid s) = none →
        ∃ t, exec (.gangAbort gid) s = .next t ∧ (getGang t gid).status = .aborting ∧ ∀ g ∈ groups t, g.gang ≠ gid)))

/-! ### Events: the host link, the optical link and the time base -/

/-- Everything but the ports, the sources, what is recorded and sent, and the restriping of slots is as before. -/
def LinkOnly (s t : State) : Prop :=
  t = { s with sources := t.sources, ports := t.ports, events := t.events, eventIdx := t.eventIdx, lateEvents := t.lateEvents, daybook := t.daybook,
               dayIdx := t.dayIdx, out := t.out, repairs := t.repairs }

/-- R154, R176: the host's answer to an AtomicOp leaves the new value in host memory and the old one in the lane; without support for it the
instruction traps HOST_ATOMIC at the lane's address.

R280, R324, R369, R370: a write of the host leaves its bytes at the place that its offset leads to and no other; one that leads nowhere is
dropped and logged, and one at an absent page is held. A fill of the physical function's word fills it where it is empty, and is held where
it is full; it is held behind a plain write that is held. A read answers the bytes; an AtomicOp through the plain alias is one indivisible
step and answers the old value, and through the fill alias it is unsupported. Beyond half of BAR2 nothing lies, and without an accepted image a virtual
function does not answer (R428).

R13, R61 to R63, R336, R369, R423, R428: a write by the steward takes effect in the ramp and relay registers, with the field limits of their rules; by
another agent a system register is not written. The steward's format-window service gives block-scaled data of a legal tensor header a
window from its first page to its last, with its scales, and rejects a record that breaks R62. BAR2 takes a size from 1 GiB to 1 TiB (R369), and the
window for a recovery image the words written while no image runs (R428).

The effects on poison and on an access that leads nowhere in part are the model's readings (log entry 71), and so are the fills behind a
held write and the format-window service (log entries 88 and 89). -/
def Obligations.HostLink : Prop :=
  (∀ (s : State) (k ha v : Nat) (o : MemOp) (l : LaneAcc) (op : AtomOp), AtPort s s.cur.id → findOp k s.cur = some o → o.kind = .atomic op →
    o.lanes = [l] → l.done = false → l.held = false → l.loc = .host ha → canPerform s s.cur o = true → l.lane < width s.cur → l.lane < 128 →
    s.cur.exited.getLsbD l.lane = false → s.cur.strand.mask.getLsbD l.lane = true → o.ctr = .l → o.ret = true → o.pred = none → o.d < 0xF0 →
    (o.z = 4 ∨ o.z = 8) →
    v = atomicNew op o.ty o.round (readBytes s s.cur.team l.loc o.z) (l.data.toNat % 2 ^ (8 * o.z)) l.data2.toNat →
    (∃ t, exec (.hostAtomicopCompletion s.cur.id k true) s = .next t ∧ readBytes t s.cur.team (.host ha) o.z = v % 2 ^ (8 * o.z) ∧
      (readReg t.cur o.d).lane l.lane = wd (readBytes s s.cur.team l.loc o.z) ∧ t.cur.cntL = s.cur.cntL - 1 ∧ t.mem = s.mem ∧
      (∀ a, (a < ha ∨ ha + o.z ≤ a) → readByte t 0 (.host a) 0 = readByte s 0 (.host a) 0) ∧ ∀ x ∈ t.cur.outs, x.id ≠ k) ∧
    (s.cur.inTrap = false → s.cur.hdr.handler ≠ 0 → s.cur.restoring = none → s.cur.strand.hold = .op k →
      s.barrow.any (fun b => b.gid == some s.cur.id && b.op == k) = false →
      s.waits.any (fun w => match w.who with | .lane g p _ => g == s.cur.id && p == k | _ => false) = false →
      ∃ t, exec (.hostAtomicopCompletion s.cur.id k false) s = .next t ∧ t.cur.tcause = tcauseOf (laneTrap .hostAtomic l.lane l.va) ∧
        t.cur.tval = l.va ∧ t.cur.inTrap = true ∧ t.cur.strand.pc = s.cur.hdr.handler ∧ t.cur.regs = s.cur.regs ∧ SameBytes s t ∧
        ∀ x ∈ t.cur.outs, x.id ≠ k)) ∧
  ((∀ (s s1 : State) (fn : HostFn) (off va pa : Nat) (c : Option Nat) (bytes : List Byte), bytes ≠ [] →
    off % 65536 + bytes.length ≤ 65536 → hostPlace fn off bytes.length .wr s = (.at c va (.dev pa), s1) →
    ∃ t, exec (.hostPlainWrite fn off bytes) s = .next t ∧ t = { s1 with mem := t.mem } ∧
      (∀ j < bytes.length, readByte t 0 (.dev pa) j = bytes.getD j 0) ∧
      ∀ a, (a < pa ∨ pa + bytes.length ≤ a) → readByte t 0 (.dev a) 0 = readByte s1 0 (.dev a) 0) ∧
  (∀ (s s1 : State) (fn : HostFn) (off : Nat) (bytes : List Byte), bytes ≠ [] → off % 65536 + bytes.length ≤ 65536 →
    (hostPlace fn off bytes.length .wr s = (.none, s1) →
      exec (.hostPlainWrite fn off bytes) s = .next { s1 with out := s1.out ++ [.aerDrop off] }) ∧
    (∀ c va p, hostPlace fn off bytes.length .wr s = (.absent c va p, s1) →
      ∃ t, exec (.hostPlainWrite fn off bytes) s = .next t ∧ (c, va, .hostPlainWrite fn off bytes) ∈ t.hostHeld ∧ t.mem = s1.mem)) ∧
  (∀ (s : State) (off pa va : Nat) (bytes : List Byte), off % 8 = 0 → bytes.length = 8 → heldWrite s = none →
    hostPlace .physical off 8 .feWrite s = (.at none va (.dev pa), s) → isPoisoned s 0 (.dev pa) 8 = false →
    (readFe s 0 (.dev pa) = false → ∃ t, exec (.hostFillWrite .physical off bytes) s = .next t ∧ t = { s with mem := t.mem, fe := t.fe } ∧
      readFe t 0 (.dev pa) = true ∧ (∀ j < 8, readByte t 0 (.dev pa) j = bytes.getD j 0) ∧
      ∀ a, (a < pa ∨ pa + 8 ≤ a) → readByte t 0 (.dev a) 0 = readByte s 0 (.dev a) 0) ∧
    (readFe s 0 (.dev pa) = true → ∃ t f, exec (.hostFillWrite .physical off bytes) s = .next t ∧ t = { s with fills := s.fills ++ [f] } ∧
      f.ctx = none ∧ f.pa = pa ∧ f.val.toNat = natLE bytes ∧ f.since = s.time)) ∧
  (∀ (s : State) (fn : HostFn) (off c va : Nat) (bytes : List Byte), heldWrite s = some (c, va) →
    exec (.hostFillWrite fn off bytes) s = .next { s with hostHeld := s.hostHeld ++ [(c, va, .hostFillWrite fn off bytes)] }) ∧
  (∀ (s s1 : State) (fn : HostFn) (off n va : Nat) (c : Option Nat) (loc : Loc), 0 < n → off % 65536 + n ≤ 65536 →
    hostPlace fn off n .rd s = (.at c va loc, s1) →
    exec (.hostRead fn false off n) s =
      .next { s1 with out := s1.out ++ [.hostData off ((List.range n).map (fun k => readByte s1 0 loc k))] }) ∧
  (∀ (s : State) (off n : Nat), exec (.hostRead .physical true off n) s =
    .next { s with out := s.out ++ [.hostData off ((List.range n).map (fun k => bar0Byte s (off + k)))] }) ∧
  (∀ (s : State) (c off n : Nat), s.fw.running = false →
    exec (.hostRead (.virtual c) true off n) s = .next { s with out := s.out ++ [.unsupported off] }) ∧
  (∀ (s : State) (fn : HostFn) (off n : Nat) (k : AccKind), barHalf s fn < off + n → hostPlace fn off n k s = (.none, s)) ∧
  (∀ (s s1 : State) (fn : HostFn) (op : HostAtom) (z off va pa v : Nat) (c : Option Nat) (val cmp : DWord), (z = 4 ∨ z = 8) → off % z = 0 →
    hostPlace fn off z .at s = (.at c va (.dev pa), s1) → isPoisoned s1 0 (.dev pa) z = false →
    v = (match op with
      | .fetchAdd => (readBytes s1 0 (.dev pa) z + val.toNat) % 2 ^ (8 * z)
      | .swap => val.toNat % 2 ^ (8 * z)
      | .cas => if readBytes s1 0 (.dev pa) z = cmp.toNat % 2 ^ (8 * z) then val.toNat % 2 ^ (8 * z) else readBytes s1 0 (.dev pa) z) →
    ∃ t, exec (.hostAtomicop fn false op z off val cmp) s = .next t ∧ t = { s1 with mem := t.mem, out := t.out } ∧
      t.out = s1.out ++ [.hostData off (bytesLE z (readBytes s1 0 (.dev pa) z))] ∧ readBytes t 0 (.dev pa) z = v ∧
      ∀ a, (a < pa ∨ pa + z ≤ a) → readByte t 0 (.dev a) 0 = readByte s1 0 (.dev a) 0) ∧
  (∀ (s : State) (fn : HostFn) (op : HostAtom) (z off : Nat) (val cmp : DWord),
    exec (.hostAtomicop fn true op z off val cmp) s = .next { s with out := s.out ++ [.unsupported off] })) ∧
  ((∀ (s : State) (v : DWord), exec (.registerWrite true (.sr 0x43) v) s = .next { s with relayq := v.setWidth 16 }) ∧
  (∀ (s : State) (v : DWord),
    exec (.registerWrite true (.sr 0x8010) v) s = .next { s with rampUp := BitVec.ofNat 8 (min 92 (max 1 (v.toNat % 256))) }) ∧
  (∀ (s : State) (v : DWord),
    exec (.registerWrite true (.sr 0x8011) v) s = .next { s with rampDn := BitVec.ofNat 8 (min 92 (max 1 (v.toNat % 256))) }) ∧
  (∀ (s : State) (n : BitVec 16) (v : DWord), exec (.registerWrite false (.sr n) v) s = .next s) ∧
  (∀ (s : State) (st : Bool) (v : DWord), exec (.registerWrite st (.bar0 0x48) v) s = .next { s with apbase := v &&& ~~~0x3FFFFFFF#64 }) ∧
  (∀ (s : State) (v : DWord), exec (.registerWrite true (.bar0 0x600004) v) s =
    .next { s with tbase := { s.tbase with refdly := v.setWidth 24 } }) ∧
  (∀ (s : State) (st : Bool) (fn : HostFn) (lg : Nat) (v : DWord), 30 ≤ lg → lg ≤ 40 →
    exec (.registerWrite st (.resize fn lg) v) s = .next { s with bars := Sparse.set 0 s.bars (bar2Key fn) lg }) ∧
  (∀ (s : State) (st : Bool) (k : Nat) (v : DWord), s.fw.running = false → k < 0x400000 →
    ∃ t, exec (.registerWrite st (.bar0 (0x2000000 + 8 * k)) v) s = .next t ∧ t = { s with fw := t.fw } ∧ Sparse.get 0 t.fw.window k = v ∧
      ∀ j, j ≠ k → Sparse.get 0 t.fw.window j = Sparse.get 0 s.fw.window j) ∧
  (∀ (s : State) (n c d k : Nat) (rcd v : DWord) (bs : List Byte), s.fw.running = true → n < 8 → frontBytes s c rcd 64 = .ok bs → rcd.toNat % 64 = 0 →
    (tensorLegal bs = true → (tensorOf bs).format = 7 → devicePa s c (tensorOf bs).data = some d → devicePa s c (tensorOf bs).scales = some k →
      ∃ t, exec (.registerWrite true (.window n c rcd) v) s = .next t ∧ t = { s with fwin := t.fwin } ∧
        Sparse.get 0 t.fwin n = 0x8000000000000000 ||| (dw d &&& 0x000FFFFFFFFFF000) ∧
        Sparse.get 0 t.fwin (8 + n) = dw (d + ((tensorOf bs).rows - 1) * (tensorOf bs).pitch + 4 * (((tensorOf bs).cols + 7) / 8) - 1) &&&
          0x000FFFFFFFFFF000 ∧
        Sparse.get 0 t.fwin (16 + n) = dw k &&& 0x000FFFFFFFFFFC00) ∧
    (tensorLegal bs = false → exec (.registerWrite true (.window n c rcd) v) s = .next { s with out := s.out ++ [.badTensorHeader c rcd] })) ∧
  (∀ (s : State) (v : DWord), s.code = 1 → ∃ t, exec (.registerWrite true (.bar0 0x610000) v) s = .next t ∧
    t = { s with power := { s.power with plim := t.power.plim } } ∧ 2000 ≤ t.power.plim.toNat ∧ t.power.plim.toNat ≤ 4200))

/-- The record of a loss is written at once outside the rota, and after the end of the running slot in it (R390). -/
def LossRecorded (s t : State) (e : LinkEvent) : Prop :=
  (s.tbase.inrota = false → t.events.getLast? = some e ∧ .interrupt 0 2 ∈ t.out) ∧
  (s.tbase.inrota = true → t.lateEvents.getLast? = some e ∧ t.events = s.events)

/-- R382 to R387, R389, R390, R414: the loss of a live source's light makes it dark and adds a link event of kind 1; light takes a lost source
into qualification, and 100 ms of it at or above the limit make it live, with an event of kind 3; RETIRE enters the repair store; a
receiver's loss clears its wavelengths, within a payload once a flit under the new map comes; the runner's reading and its hourly mean are kept; CLR clears the counters.

R388, R430 to R432: the sideband keeps the offset that is written and answers the registers there, a write of a word clears the counters
of a port through CLR, the target takes one dynamic address with its identity, and answers its commands only with one; runner 5 answers SPDM
requests, version 1.2 and the two algorithms, slot 0 with the two chains, and a measurement with its block, while the firmware runs. Transfers and
commands are answered once the target has its address. The bytes are free values (log entries 9 to 11) but for those that the statement gives, of
which those of the version and the algorithms are SPDM's (log entry 10).

That a source which appears qualifies is the model's choice (log entry 30). -/
def Obligations.SourcesAndSideband : Prop :=
  ((∀ (s : State) (n : Nat), n < 16 → (getSource s n).st = 2 → ∃ t e, exec (.sourceLoss n) s = .next t ∧ LinkOnly s t ∧
    getSource t n = { getSource s n with st := 3, power := 0x8000, since := s.time } ∧ LossRecorded s t e ∧ e.kind = 1 ∧
    e.source = n ∧ e.ports = 0x1FF ∧ e.time = s.time ∧ ∀ m, m ≠ n → getSource t m = getSource s m) ∧
  (∀ (s : State) (n : Nat), n < 16 → (getSource s n).st = 1 → ∃ t, exec (.sourceLoss n) s = .next t ∧
    t = { s with sources := t.sources } ∧ (getSource t n).st = 3) ∧
  (∀ (s : State) (n : Nat), n < 16 → (getSource s n).st = 3 → ∃ t, exec (.sourceLightReturn n) s = .next t ∧
    t = { s with sources := t.sources } ∧ getSource t n = { getSource s n with st := 1, since := s.time }) ∧
  (∀ (s : State) (n : Nat), n < 16 → (getSource s n).st ≠ 3 → Nothing (.sourceLightReturn n) s) ∧
  (∀ (s : State) (n : Nat), n < 16 → (getSource s n).st = 1 → (getSource s n).retire = false →
    (100000000 ≤ (s.time - (getSource s n).since).toNat → (getSource s n).power.slt (getSource s n).limit = false →
      ∃ t e, exec (.sourceQualified n) s = .next t ∧ LinkOnly s t ∧ (getSource t n).st = 2 ∧ (getSource t n).since = s.time ∧
        t.events.getLast? = some e ∧ e.kind = 3 ∧ e.source = n) ∧
    ((s.time - (getSource s n).since).toNat < 100000000 → Nothing (.sourceQualified n) s)) ∧
  (∀ (s : State) (p : Nat) (lost : BitVec 16) (first count rstr : Nat), p < 36 → comingMap (getPort s p) &&& lost ≠ 0 →
    ((portRuns s p = none ∨ ∃ r, portRuns s p = some r ∧ payloadNow s r.1 = none) →
      ∃ t e, exec (.rxLoss p lost first count rstr) s = .next t ∧ LinkOnly s t ∧ (getPort t p).rxmap = comingMap (getPort s p) &&& ~~~lost ∧
        LossRecorded s t e ∧ e.kind = 2 ∧ e.port = p ∧ e.lost = 0) ∧
    (∀ r, portRuns s p = some r → (payloadNow s r.1).isSome = true → ∃ t l, exec (.rxLoss p lost first count rstr) s = .next t ∧ t = { s with ports := t.ports } ∧
      getPort t p = { getPort s p with rxloss := (getPort s p).rxloss ++ [l] } ∧ l.time = s.time ∧ l.before = comingMap (getPort s p) ∧
      l.after = comingMap (getPort s p) &&& ~~~lost)) ∧
  (∀ (s : State) (n : Nat), n < 16 → (getSource s n).retire = false → s.repairs.length < 256 → ∃ t,
    exec (.sourceRetireWrite n true) s = .next t ∧ LinkOnly s t ∧ (getSource t n).retire = true ∧ t.repairs = s.repairs ++ [.lane n]) ∧
  (∀ (s : State) (n : Nat), n < 16 → (getSource s n).retire = true → ∃ t, exec (.sourceRetireWrite n false) s = .next t ∧ LinkOnly s t ∧
    (getSource t n).retire = false ∧ (getSource t n).st ≠ 2) ∧
  (∀ (s : State) (n : Nat) (m : Telemetry), n < 16 → m.present = true → ∃ t, exec (.sourceTelemetry n m) s = .next t ∧
    t = { s with sources := t.sources } ∧ (getSource t n).present = true ∧ (getSource t n).power = m.power ∧ (getSource t n).bias = m.bias ∧
    (getSource t n).temp = m.temp ∧ (getSource t n).hours = m.hours) ∧
  (∀ (s : State) (n : Nat) (mean : BitVec 16), n < 16 → (getSource s n).present = true → (getSource s n).means.length < 2000 →
    ∃ t, exec (.sourceHourlyUpdate n mean) s = .next t ∧ LinkOnly s t ∧ (getSource t n).means = (getSource s n).means ++ [mean] ∧
      ((getSource s n).means.length < 99 → (getSource t n).slope = 0)) ∧
  (∀ (s : State) (p : Nat), p < 36 → ∃ t, exec (.portCounterClear p) s = .next t ∧ LinkOnly s t ∧
    portCounters (getPort t p) = [0, 0, 0, 0, 0, 0, 0, 0] ∧ (getPort t p).restripe = 0 ∧ (getPort t p).rxmap = (getPort s p).rxmap ∧
    ∀ q, q ≠ p → getPort t q = getPort s q)) ∧
  ((∀ (s : State) (off : BitVec 24), quiperAt s = true → exec (.quiperOffsetWrite off) s = .next { s with quiper := off }) ∧
  (∀ (s : State) (n : Nat), quiperAt s = true →
    exec (.quiperDataRead n) s = .next { s with out := s.out ++ [.i3c (linkBytes s s.quiper.toNat n)] }) ∧
  (∀ (s : State) (p : Nat), quiperAt s = true → p < 36 → s.quiper.toNat = 0x10000 + p * 0x100 + 0x48 →
    exec (.quiperDataWrite [1, 0, 0, 0]) s = exec (.portCounterClear p) s) ∧
  (∀ (s : State) (a : BitVec 7), quiperUp s = true → s.i3cAddr = none → exec (.entdaa a) s =
    .next { s with i3cAddr := some a, out := s.out ++ [.i3c (pidBytes ++ [Config.i3cBcr, Config.i3cDcr])] }) ∧
  (∀ (s : State) (a b : BitVec 7), s.i3cAddr = some a → Nothing (.entdaa b) s) ∧
  (∀ (s : State) (a : BitVec 7), quiperUp s = true → s.i3cAddr = some a →
    exec .getpid s = .next { s with out := s.out ++ [.i3c pidBytes] } ∧ exec .getbcr s = .next { s with out := s.out ++ [.i3c [Config.i3cBcr]] } ∧
    exec .getdcr s = .next { s with out := s.out ++ [.i3c [Config.i3cDcr]] } ∧
    ∃ w, w.length = 2 ∧ exec .getstatus s = .next { s with out := s.out ++ [.i3c w] }) ∧
  (∀ (s : State), quiperUp s = true → s.i3cAddr = none → Nothing .getpid s ∧ Nothing .getbcr s ∧ Nothing .getdcr s ∧ Nothing .getstatus s) ∧
  (∀ (s : State) (slot index : Nat) (signed : Bool) (nonce : BitVec 256), s.fw.running = true →
    (∃ x, exec .getVersion s = .next { s with out := s.out ++ [.spdm 0x84 (x ++ bytesLE 2 0x1200)] }) ∧
    (∃ x, exec .getCapabilities s = .next { s with out := s.out ++ [.spdm 0xE1 x] }) ∧
    (∃ x, exec .negotiateAlgorithms s = .next { s with out := s.out ++ [.spdm 0xE3 (x ++ (bytesLE 4 0x200 ++ bytesLE 4 2))] }) ∧
    (∃ x, exec .getDigests s = .next { s with out := s.out ++ [.spdm 0x81 x] }) ∧
    (∃ x, exec (.getCertificate slot) s = .next { s with out := s.out ++ [.spdm 0x82
      (x ++ if slot = 0 then chainOf 0 s ++ chainOf 1 s else [])] }) ∧
    (∃ x y, exec (.challenge nonce) s = .next { s with out := s.out ++ [.spdm 0x83 (x ++ y)] }) ∧
    (∃ x y, exec (.getMeasurements index signed nonce) s = .next { s with out := s.out ++ [.spdm 0xE0
      (x ++ (if index = 0 then [1, 2, 3, 4].flatMap (fun k => measurement k s) else measurement index s) ++ y)] } ∧
      (signed = false → y = []))) ∧
  (∀ (s : State) (nonce : BitVec 256), s.fw.running = false → Nothing .getVersion s ∧ Nothing .getDigests s ∧ Nothing (.challenge nonce) s))

/-- R415 to R420: reference edges take FREE to ACQUIRE; a good marker with a small error is accepted, and the second in a row locks; the loss
of the reference takes LOCKED to HOLD and counts; an error of more than 8 ns at lock inside the rota makes the package leave it; outside the rota a counter that is behind steps forward, and one that is ahead keeps the package
out of the rota until it has lost the difference; HOLD that has run out is FREE and leaves the rota; JOIN is kept with its time, and the
package enters the rota 10 ms later at a cycle's start, and leaves it at the slot after the decision, with its ports dark.

Which markers and losses count, and from when JOIN's 10 ms run, are the model's readings (log entries 35 and 73). -/
def Obligations.TimeEvents : Prop :=
  (∀ s : State, (s.tbase.st = 0 → ∃ t, exec .referenceAcquire s = .next t ∧ t.tbase.st = 1 ∧ t.cur = s.cur ∧ t.mem = s.mem) ∧
    (s.tbase.st ≠ 0 → Nothing .referenceAcquire s)) ∧
  (∀ (s : State) (m : DWord) (err : BitVec 16), s.tbase.st = 1 → s.tbase.marker = none → err.toInt < 20 → -20 < err.toInt →
    (s.tbase.accepted = 0 → ∃ t, exec (.referenceMarker m err true) s = .next t ∧ t.tbase.st = 1 ∧ t.tbase.accepted = 1 ∧
      t.tbase.terr = err ∧ t.tbase.marker = some m ∧ t.time = s.time) ∧
    (1 ≤ s.tbase.accepted → ∃ t, exec (.referenceMarker m err true) s = .next t ∧ t.tbase.st = 2 ∧ t.tbase.terr = err ∧ t.mem = s.mem)) ∧
  (∀ (s : State) (m : DWord) (err : BitVec 16), s.tbase.st = 2 → s.tbase.inrota = false → (s.tbase.marker = none ∨ s.tbase.marker = some (m - 81920)) →
    ∃ t, exec (.referenceMarker m err true) s = .next t ∧ t.tbase.st = 2 ∧
      (s.time.toNat < refTime s m → t.time = dw (refTime s m) ∧ t.tbase.ahead = 0) ∧
      (refTime s m ≤ s.time.toNat → t.time = s.time ∧ t.tbase.ahead = s.time.toNat - refTime s m)) ∧
  (∀ (s : State) (m : DWord) (err : BitVec 16), s.tbase.st = 1 → s.tbase.marker = none → err.toInt < 20 → -20 < err.toInt → 1 ≤ s.tbase.accepted →
    s.tbase.inrota = true → ∃ t, exec (.referenceMarker m err true) s = .next t ∧ t.time = s.time ∧ t.tbase.err = (s.time.toNat : Int) - refTime s m ∧
      (8 < ((s.time.toNat : Int) - refTime s m).natAbs → t.tbase.leaving.isSome = true)) ∧
  (∀ (s : State) (m : DWord) (err : BitVec 16) (good : Bool), s.tbase.st = 0 → Nothing (.referenceMarker m err good) s) ∧
  (∀ (s : State) (m : DWord) (err : BitVec 16), s.tbase.st = 2 → s.tbase.ignored = 1 → ∃ t, exec (.referenceMarker m err false) s = .next t ∧
    t.tbase.st = 3 ∧ t.tbase.losses = s.tbase.losses + 1 ∧ t.tbase.holdAt = s.time) ∧
  (∀ s : State, s.tbase.st = 2 → ∃ t, exec .referenceLoss s = .next t ∧ t.tbase.st = 3 ∧ t.tbase.losses = s.tbase.losses + 1 ∧
    t.tbase.holdAt = s.time ∧ t.tbase.inrota = s.tbase.inrota) ∧
  (∀ s : State, s.tbase.st = 3 → holdNs s = 0 → ∃ t, exec .holdoverExpiry s = .next t ∧ t.tbase.st = 0 ∧
    (s.tbase.inrota = true → t.tbase.leaving.isSome = true)) ∧
  (∀ s : State, holdNs s ≠ 0 → Nothing .holdoverExpiry s) ∧
  (∀ s : State, s.tbase.join = false → exec (.rotaJoinWrite true) s =
    .next { s with tbase := { s.tbase with join := true, joinAt := s.time } }) ∧
  (∀ s : State, ∃ t, exec (.rotaJoinWrite false) s = .next t ∧ t = { s with tbase := t.tbase } ∧ t.tbase.join = false ∧
    (s.tbase.inrota = true → t.tbase.leaving.isSome = true)) ∧
  (∀ s : State, s.tbase.join = true → s.tbase.inrota = false → s.tbase.st = 2 → s.lgpod ≠ 0 → s.tbase.origin.toNat ≤ s.time.toNat →
    (s.tbase.ahead ≠ 0 → Nothing .rotaEntry s) ∧
    (s.tbase.ahead = 0 → s.tbase.joinAt.toNat + 10000000 ≤ cycleStart s → ∃ t, exec .rotaEntry s = .next t ∧ t.tbase.inrota = true ∧ t.tbase.leaving = none ∧
      t.cur = s.cur ∧ t.mem = s.mem) ∧
    (cycleStart s < s.tbase.joinAt.toNat + 10000000 → Nothing .rotaEntry s)) ∧
  (∀ (s : State) (n : Nat), s.tbase.inrota = true → s.tbase.leaving = some n →
    (n < absSlot s → ∃ t, exec .rotaLeave s = .next t ∧ t.tbase.inrota = false ∧ (∀ e ∈ t.ports, e.2.txmap = 0) ∧ t.cur = s.cur) ∧
    (absSlot s ≤ n → Nothing .rotaLeave s))

/-! ### Events: queues and packets -/

/-- The current packet of a queue, of a kind, that starts now. -/
def Starts (s : State) (k kind : Nat) (p : Packet) : Prop :=
  (getQueue s k).cur = some p ∧ p.kind = kind ∧ startsNow s k p = true ∧ p.denied = false

/-- R324, R325: a slot whose first word is full is consumed: the packet is the queue's current one and cons rises; an empty one is waited for,
and for an index of the skip set a NOP is consumed, where the slot is not one that is still to be made empty. R405: once ABT reads 0 the queue goes on. R324, R433: a host fill that has been held for 1 µs is
dropped, and not before; in a queue's slot its index is skipped.

What the front end does at an absent page is the model's reading (log entry 54). -/
def Obligations.QueueConsumption : Prop :=
  (∀ (s : State) (c q va pa : Nat) (p : Packet), q < 64 → (getQueue s (queueKey c q)).cur = none → (getQueue s (queueKey c q)).live = true →
    (getQueue s (queueKey c q)).stopped = false → slotOwed (getQueue s (queueKey c q)) = false →
    (getQueue s (queueKey c q)).skip.contains (getQueue s (queueKey c q)).cons.toNat = false →
    frontPlace s c (slotAddr (getQueue s (queueKey c q)) (getQueue s (queueKey c q)).cons.toNat) .feWrite = .ok (va, .dev pa) →
    (readFe s 0 (.dev pa) = false → Nothing (.packetConsume c q) s) ∧
    (readFe s 0 (.dev pa) = true → isPoisoned s 0 (.dev pa) 64 = false →
      p = nextPacket s (queueKey c q) ((List.range 64).map (fun i => readByte s 0 (.dev pa) i)) → p.kind = 7 → packetLegal s c p = true →
      ∃ t, exec (.packetConsume c q) s = .next t ∧ (getQueue t (queueKey c q)).cur = some p ∧
        (getQueue t (queueKey c q)).cons = (getQueue s (queueKey c q)).cons + 1 ∧ t.gangNo = s.gangNo + 1)) ∧
  (∀ (s : State) (c q : Nat), q < 64 → (getQueue s (queueKey c q)).cur = none → (getQueue s (queueKey c q)).live = true →
    (getQueue s (queueKey c q)).stopped = false → slotOwed (getQueue s (queueKey c q)) = false →
    (getQueue s (queueKey c q)).skip.contains (getQueue s (queueKey c q)).cons.toNat = true →
    ∃ t p, exec (.packetConsume c q) s = .next t ∧ (getQueue t (queueKey c q)).cur = some p ∧ p.kind = 7 ∧ p.seq = s.gangNo ∧
      p.index = (getQueue s (queueKey c q)).cons.toNat ∧ t.gangNo = s.gangNo + 1 ∧
      (getQueue t (queueKey c q)).cons = (getQueue s (queueKey c q)).cons + 1) ∧
  (∀ (s : State) (c q b : Nat), readRecordField s (queueKey c q) 0x18 1 = some b → (getQueue s (queueKey c q)).abt = true →
    (b.testBit 2 = false → ∃ t, exec (.queueAbtPoll c q) s = .next t ∧ t = { s with queues := t.queues } ∧
      getQueue t (queueKey c q) = { getQueue s (queueKey c q) with abt := false }) ∧
    (b.testBit 2 = true → Nothing (.queueAbtPoll c q) s)) ∧
  (∀ (s : State) (n : Nat) (f : HostFill), s.fills[n]? = some f →
    (s.time.toNat < f.since.toNat + 1000 → Nothing (.hostFillTimeout n) s) ∧
    (f.since.toNat + 1000 ≤ s.time.toNat → slotIndexAt s f.pa = none →
      exec (.hostFillTimeout n) s = .next { s with fills := s.fills.eraseIdx n }) ∧
    (∀ k i, f.since.toNat + 1000 ≤ s.time.toNat → slotIndexAt s f.pa = some (k, i) → (getQueue s k).skip.length < 64 →
      ∃ t, exec (.hostFillTimeout n) s = .next t ∧ t.fills = s.fills.eraseIdx n ∧
        (getQueue t k).skip = (getQueue s k).skip ++ [(i + 2 ^ (getQueue s k).lgslots) % 2 ^ 64]))

/-- R326 to R330, R333: what the packets do once they start. A NOP completes, with its interrupt where it asks for one; a SIGNAL stores, or adds
to, its word; a WAITVAL waits until its condition holds, or until its time has run out; a QBARRIER completes once no earlier packet is open,
and a TIMESTAMP then stores SR_TIME; a COPY enters an engine operation and the queue goes on behind it; a LAUNCH makes a gang, which sends its
reservations when its turn comes.

What the packets do at words that they cannot use is the model's reading (log entries 54 to 56 and 84). -/
def Obligations.Packets : Prop :=
  (∀ (s : State) (c q : Nat) (p : Packet), q < 64 → Starts s (queueKey c q) 7 p → ∃ t, exec (.nopPacket c q) s = .next t ∧
    (getQueue t (queueKey c q)).cur = none ∧ t.mem = s.mem ∧
    t.out = s.out ++ (if p.irq then [.interrupt (c + 1) (getQueue s (queueKey c q)).vector] else [])) ∧
  (∀ (s s1 : State) (c q va pa : Nat) (p : Packet), Starts s (queueKey c q) 3 p →
    (fieldD (p.word 3) 0 3 = 0 → frontTarget c (p.word 1) .wr s = (.ok (va, .dev pa), s1) → ∃ t, exec (.signal c q) s = .next t ∧
      (getQueue t (queueKey c q)).cur = none ∧ readBytes t 0 (.dev pa) 8 = (p.word 2).toNat ∧
      ∀ a, (a < pa ∨ pa + 8 ≤ a) → readByte t 0 (.dev a) 0 = readByte s1 0 (.dev a) 0) ∧
    (fieldD (p.word 3) 0 3 = 2 → frontTarget c (p.word 1) .at s = (.ok (va, .dev pa), s1) → isPoisoned s1 0 (.dev pa) 8 = false →
      ∃ t, exec (.signal c q) s = .next t ∧ (getQueue t (queueKey c q)).cur = none ∧
        readBytes t 0 (.dev pa) 8 = (readBytes s1 0 (.dev pa) 8 + (p.word 2).toNat) % 2 ^ 64)) ∧
  (∀ (s : State) (c q va pa : Nat) (p : Packet), q < 64 → Starts s (queueKey c q) 4 p → fieldD (p.word 4) 0 3 < 4 →
    frontPlace s c (p.word 1) .rd = .ok (va, .dev pa) → isPoisoned s 0 (.dev pa) 8 = false →
    ∃ t, exec (.waitval c q) s = .next t ∧ (getQueue t (queueKey c q)).cur = none ∧ t.mem = s.mem ∧
      (getQueue t (queueKey c q)).busy =
        (if waitvalHolds p (dw (readBytes s 0 (.dev pa) 8)) (readFe s 0 (.dev pa)) then none else some { p with since := s.time })) ∧
  (∀ (s : State) (c q va pa : Nat) (p : Packet), q < 64 → waitingPacket s (queueKey c q) 4 = some p → fieldD (p.word 4) 0 3 < 4 →
    frontPlace s c (p.word 1) .rd = .ok (va, .dev pa) → isPoisoned s 0 (.dev pa) 8 = false →
    (waitvalHolds p (dw (readBytes s 0 (.dev pa) 8)) (readFe s 0 (.dev pa)) = true →
      ∃ t, exec (.waitvalPoll c q) s = .next t ∧ (getQueue t (queueKey c q)).busy = none) ∧
    (waitvalHolds p (dw (readBytes s 0 (.dev pa) 8)) (readFe s 0 (.dev pa)) = false → Nothing (.waitvalPoll c q) s)) ∧
  (∀ (s : State) (c q : Nat) (p : Packet), waitingPacket s (queueKey c q) 4 = some p →
    (s.time.toNat < p.since.toNat + 1000 * fieldD (p.word 4) 32 32 → Nothing (.waitvalTimeout c q) s) ∧
    (fieldD (p.word 4) 32 32 ≠ 0 → p.since.toNat + 1000 * fieldD (p.word 4) 32 32 ≤ s.time.toNat →
      ∀ s1, fillWord c (p.word 6) (errorValue 0x09) s = some s1 → ∃ t, exec (.waitvalTimeout c q) s = .next t ∧ t.mem = s1.mem ∧
        ∀ x, (getQueue t (queueKey c q)).busy = some x → x.index ≠ p.index)) ∧
  (∀ (s : State) (c q : Nat) (p : Packet), Starts s (queueKey c q) 5 p → ∃ t, exec (.qbarrier c q) s = .next t ∧
    (getQueue t (queueKey c q)).cur = none ∧ t.mem = s.mem ∧
    (getQueue t (queueKey c q)).busy =
      (if (getQueue s (queueKey c q)).open_.isEmpty then none else some { p with since := s.time })) ∧
  (∀ (s s1 s2 : State) (c q va pa : Nat) (p : Packet), Starts s (queueKey c q) 6 p → s1 = startBlocking (queueKey c q) 6 s →
    ((getQueue s (queueKey c q)).open_ = [] → frontTarget c (p.word 1) .wr s1 = (.ok (va, .dev pa), s2) →
      ∃ t, exec (.timestamp c q) s = .next t ∧ (getQueue t (queueKey c q)).busy = none ∧ readBytes t 0 (.dev pa) 8 = s.time.toNat) ∧
    ((getQueue s (queueKey c q)).open_ ≠ [] → ∃ t, exec (.timestamp c q) s = .next t ∧ t.mem = s.mem ∧
      (getQueue t (queueKey c q)).busy = some { p with since := s.time })) ∧
  (∀ (s : State) (c q : Nat) (p : Packet), Starts s (queueKey c q) 2 p → copyFar s p = none → ∃ t x, exec (.copyPacket c q) s = .next t ∧
    t.engines = s.engines ++ [x] ∧ (copyBreaks s (queueKey c q) p = none → x.fail = none) ∧ x.kind = .copy ∧ x.dst = p.word 1 ∧ x.src = p.word 2 ∧ x.size = fieldD (p.word 3) 0 41 ∧
    x.pkt = some (queueKey c q, p.index) ∧ (getQueue t (queueKey c q)).cur = none ∧
    (getQueue t (queueKey c q)).open_ = (getQueue s (queueKey c q)).open_ ++ [p] ∧ t.mem = s.mem) ∧
  (∀ (s : State) (c q : Nat) (p : Packet) (r : LaunchRec) (h : KHeader) (f : Option KHeader), q < 64 → (getQueue s (queueKey c q)).cur = some p → p.kind = 1 →
    p.gang = none → p.denied = false → readLaunch s c (p.word 1) = .ok (r, h, f) →
    noFit s (launchGang (queueKey c q) p r h f) = false →
    ∃ t, exec (.launch c q) s = .next t ∧ getGang t p.seq = launchGang (queueKey c q) p r h f ∧ t.mem = s.mem ∧
      (getQueue t (queueKey c q)).cur = some { p with gang := some p.seq, held := none }) ∧
  (∀ (s : State) (c q gid : Nat) (p : Packet), (getQueue s (queueKey c q)).cur = some p → p.kind = 1 → p.gang = some gid →
    (getGang s gid).status = .dep → headOfQueue s (getGang s gid) = true → depsDone s (getGang s gid) = true →
    (getGang s gid).rcd.teams ≠ 0 →
    (nextToReserve s gid = true → ∃ t, exec (.launch c q) s = .next t ∧ (getGang t gid).status = .reserving ∧ (getGang t gid).tried = s.time) ∧
    (nextToReserve s gid = false → Nothing (.launch c q) s))

/-! ### Events: gangs and teams -/

/-- R333 to R335, R337, R404: a reservation that every partition accepts commits the gang with a T0 on a window's start; one refusal sends it
back to wait, as does no answer within 10 µs; where the queue is held meanwhile the gang does not commit; a waiting gang is offered again when it is the next; a gang whose core fails before
its first team has started in time aborts with cause 0; a gang whose counter is zero completes.

Cause 0 and the choice of T0 under the ramp are the model's readings (log entries 58, 60 and 91), and so is the order of reservations
that are unanswered (log entry 16). -/
def Obligations.GangEvents : Prop :=
  (∀ (s s1 : State) (gid : Nat) (cores no : List Nat), s.time.toNat < 2 ^ 63 → (getGang s gid).status = .reserving → earlierReserving s gid = false →
    headOfQueue s (getGang s gid) = true → placeNeeded gid ((neededParts (getGang s gid)).zip (cores ++ List.replicate (neededParts (getGang s gid)).length 127)) s [] = (s1, no) →
    (no = [] → ∃ t, exec (.reservationAnswer gid cores) s = .next t ∧ (getGang t gid).status = .committed ∧ (getGang t gid).t0.toNat % 100 = 0 ∧
      (getGang t gid).places.map (fun p => (p.key, p.quarter, p.scrAt, p.scrAtF)) =
        (getGang s1 gid).places.map (fun p => (p.key, p.quarter, p.scrAt, p.scrAtF))) ∧
    (no ≠ [] → (getGang s gid).parent = none → ∃ t, exec (.reservationAnswer gid cores) s = .next t ∧ (getGang t gid).status = .waiting ∧
      (getGang t gid).places = [] ∧ (getGang t gid).refusals = (getGang s gid).refusals + 1)) ∧
  (∀ (s : State) (gid : Nat) (cores : List Nat), (getGang s gid).status = .reserving → earlierReserving s gid = false →
    headOfQueue s (getGang s gid) = false → ∃ t, exec (.reservationAnswer gid cores) s = .next t ∧ t = { s with gangs := t.gangs } ∧
      (getGang t gid).status = .dep ∧ (getGang t gid).places = []) ∧
  (∀ (s : State) (gid : Nat) (cores : List Nat), (getGang s gid).status ≠ .reserving → Nothing (.reservationAnswer gid cores) s) ∧
  (∀ (s : State) (gid : Nat), (getGang s gid).status = .reserving →
    ((getGang s gid).tried.toNat + 10000 ≤ s.time.toNat → ∃ t, exec (.reservationTimeout gid) s = .next t ∧ t = { s with gangs := t.gangs } ∧
      (getGang t gid).status = .waiting ∧ (getGang t gid).places = [] ∧ (getGang t gid).refusals = (getGang s gid).refusals + 1) ∧
    (s.time.toNat < (getGang s gid).tried.toNat + 10000 → Nothing (.reservationTimeout gid) s)) ∧
  (∀ (s : State) (gid : Nat), (getGang s gid).status = .waiting →
    (nextToReserve s gid = true → ∃ t, exec (.reservationRetry gid) s = .next t ∧ t = { s with gangs := t.gangs, rounds := t.rounds } ∧
      (getGang t gid).status = .reserving ∧ (getGang t gid).tried = s.time) ∧
    (nextToReserve s gid = false → Nothing (.reservationRetry gid) s)) ∧
  (∀ (s : State) (gid : Nat), (getGang s gid).status = .committed →
    (∀ p ∈ partsOf (getGang s gid), teamsBound (getGang s gid) p ≠ 0 → firstTeam (getGang s gid) p = true →
      firstDeadline s (getGang s gid) p < s.time.toNat → firstFailed s (getGang s gid) p = true →
      ∃ t, exec (.gangStartFailure gid) s = .next t ∧ (getGang t gid).status = .aborting ∧ (getGang t gid).cause = 0 ∧
        t.agenda = .gangAbort gid :: s.agenda) ∧
    ((∀ p ∈ partsOf (getGang s gid), s.time.toNat ≤ firstDeadline s (getGang s gid) p ∨ firstFailed s (getGang s gid) p = false) →
      Nothing (.gangStartFailure gid) s)) ∧
  (∀ (s s1 : State) (gid : Nat), gangDone s gid = true → releaseDone s gid (getGang s gid).rcd.rscope = true → (getGang s gid).parent = none →
    fillWord (getGang s gid).ctx (getGang s gid).rcd.done (getGang s gid).rcd.value s = some s1 →
    ∃ t, exec (.gangComplete gid) s = .next t ∧ getGang t gid = Gang.vacant ∧ t.mem = s1.mem) ∧
  (∀ (s : State) (gid : Nat), gangDone s gid = false → Nothing (.gangComplete gid) s)

/-- R29, R94, R243, R244, R335, R336, R364 to R366, R406: a team of a committed gang starts at its place, once the windows of its cores begin, with its
groups at the entry and their arguments in v0 and v1; until then its place is kept; a saved team is restored, where its header fits and no other work goes before it, and aborts PLACEMENT where none does; a save that is not complete
100 µs after the first PARK is cancelled; a carve-out grows for a waiting team, and shrinks to what its
teams need; an empty core goes idle; a core that fails goes out of
service, and its gangs abort.

Cores, carve-outs and the lines of L1 are the model's choices (log entries 17, 20, 36 and 98). -/
def Obligations.TeamEvents : Prop :=
  (∀ (s : State) (gid part core q : Nat) (p : Place) (r : State × Place), (getGang s gid).status = .committed →
    (firstTeam (getGang s gid) part = true ∨ quiescing s (getGang s gid).ctx = false) → part < 4 → q < 4 →
    (getGang s gid).next.getD part 0 < teamsBound (getGang s gid) part → (getGang s gid).t0.toNat ≤ s.time.toNat + 32 →
    teamPlace s gid part core q = some p → r = planPlace s (getGang s gid) part p →
    (startsNowAt r.1 (getGang s gid) part r.2 = false → ∃ t, exec (.teamStart gid part core q) s = .next t ∧ t.teams = s.teams ∧ t.mem = s.mem ∧
      groups t = groups s ∧ (getGang t gid).next = (getGang s gid).next ∧ ∃ x ∈ (getGang t gid).places, x.key = p.key ∧ x.quarter = p.quarter) ∧
    (startsNowAt r.1 (getGang s gid) part r.2 = true →
    ∃ t, exec (.teamStart gid part core q) s = .next t ∧ (getTeam t s.nextId).status = .running ∧ (getTeam t s.nextId).gang = gid ∧
      (getTeam t s.nextId).part = part ∧ (getTeam t s.nextId).core = core ∧
      (getTeam t s.nextId).index = wd ((getGang s gid).next.getD part 0) ∧
      (getGang t gid).next = (getGang s gid).next.set part ((getGang s gid).next.getD part 0 + 1) ∧ t.mem = s.mem ∧
      ∀ b ∈ startGroups (getGang s gid).hdr, ∃ g ∈ groups t, g.team = s.nextId ∧ g.base = b.1 ∧ g.lgw = b.2 ∧
        g.strand.pc = (getGang s gid).hdr.entry ∧ g.strand.mask = fullMask (2 ^ b.2) ∧
        readReg g 0 = .u (loHalf (getGang s gid).rcd.args) ∧ readReg g 1 = .u (hiHalf (getGang s gid).rcd.args))) ∧
  (∀ (s : State) (gid part core q : Nat), (getGang s gid).status ≠ .committed → Nothing (.teamStart gid part core q) s) ∧
  (∀ (s s0 s1 : State) (tid c q : Nat) (h : KHeader), (getTeam s tid).status = .saved → quiescing s (getTeam s tid).ctx = false →
    restoreWaits s (getTeam s tid) = false → restoreYields s (getTeam s tid) = false → restoreHeader s (getTeam s tid) = some h →
    ((getTeam s tid).booked = true → c = (getTeam s tid).core) → s0 = setTeam tid { getTeam s tid with booked := false } s →
    fitQuarter s0 (getTeam s tid).part c h (savedGroups (getTeam s tid)) = some q →
    activate (getTeam s tid).part c h s0 = .ready s1 →
    ∃ t, exec (.teamRestore tid (some c)) s = .next t ∧ (getTeam t tid).status = .running ∧ (getTeam t tid).core = c ∧
      (getTeam t tid).saves = [] ∧ (getTeam t tid).hdr = h ∧ t.mem = s.mem) ∧
  (∀ (s : State) (tid : Nat), (getTeam s tid).status = .saved → quiescing s (getTeam s tid).ctx = false →
    restoreWaits s (getTeam s tid) = false → restoreYields s (getTeam s tid) = false → restoreHeader s (getTeam s tid) = none →
    ∃ t, exec (.teamRestore tid none) s = .next t ∧ (getGang t (getTeam s tid).gang).status = .aborting ∧
      (getGang t (getTeam s tid).gang).cause = 0x1A) ∧
  (∀ (s : State) (tid : Nat) (t0 : DWord), (getTeam s tid).saveAt = some t0 → (getTeam s tid).status = .running →
    (t0.toNat + 100000 ≤ s.time.toNat → ∃ t, exec (.saveCancel tid) s = .next t ∧ (getTeam t tid).saves = [] ∧ (getTeam t tid).saveAt = none) ∧
    (s.time.toNat < t0.toNat + 100000 → Nothing (.saveCancel tid) s)) ∧
  (∀ (s : State) (part core c : Nat), c ≤ 5 → core < enabledCores s part →
    ((((getCore s part core).carve < c ∧ growthAdmits s part core c = true) ∨
        (c < (getCore s part core).carve ∧ residentNeed s part core = c ∧ ∀ a ∈ scrAreas s part core, a.1 + a.2 ≤ carveBytes c)) →
      ∃ t, exec (.carveOutChange part core c) s = .next t ∧
        t = { s with cores := t.cores, gangs := t.gangs } ∧ getCore t part core =
          { getCore s part core with carve := c, l1 := (getCore s part core).l1.filter (fun b => decide (scratchWays c ≤ b.way)) }) ∧
    ((∃ a ∈ scrAreas s part core, carveBytes c < a.1 + a.2) → c ≤ (getCore s part core).carve → Nothing (.carveOutChange part core c) s)) ∧
  (∀ (s : State) (part core : Nat), (getCore s part core).clocked = true →
    (coreHolds s part core = false → coreReserved s part core = false → windowCount s.downs part (windowNow s) < s.rampDn.toNat → ∃ t,
      exec (.rampDownIdle part core) s = .next t ∧ t = { s with cores := t.cores, downs := t.downs } ∧
      getCore t part core = { getCore s part core with clocked := false } ∧
      windowCount t.downs part (windowNow s) = windowCount s.downs part (windowNow s) + 1) ∧
    (coreHolds s part core = true → Nothing (.rampDownIdle part core) s)) ∧
  (∀ (s : State) (part core : Nat), core < enabledCores s part → (getCore s part core).service = true →
    ∃ t d, exec (.coreFail part core) s = .next t ∧ (getCore t part core).service = false ∧ (getCore t part core).retire = true ∧
      (∀ g ∈ gangsOnCore s part core, (getGang t g).status = .aborting) ∧ t.daybook.getLast? = some d ∧ d.kind = 0x08 ∧ d.part = part ∧
      d.core = core) ∧
  (∀ (s : State) (part core : Nat), (getCore s part core).service = false → Nothing (.coreFail part core) s)

/-! ### Events: management commands -/

/-- A command of a kind that the steward takes: no command before it is open, and the word of its status is not poisoned. -/
def Command (s : State) (m : MgmtPacket) (kind : Nat) : Prop :=
  mgmtKind m = kind ∧ s.fw.running = true ∧ mgmtStatusAt m % 8 = 0 ∧ mgmtOpen s = false ∧ isPoisoned s 0 (.dev (mgmtStatusAt m)) 8 = false

/-- A command of a kind for a context that exists. -/
def CtxCommand (s : State) (m : MgmtPacket) (kind : Nat) : Prop :=
  Command s m kind ∧ mgmtCtxOf m < 32 ∧ (getCtx s (mgmtCtxOf m)).live = true

/-- The status word of a command is full and holds a status, and vector 0 of the physical function has been raised (R347, R370, R371). -/
def Answered (pa code : Nat) (t : State) : Prop :=
  readBytes t 0 (.dev pa) 8 = code ∧ readFe t 0 (.dev pa) = true ∧ Output.interrupt 0 0 ∈ t.out

/-- Nothing has changed but contexts, the status word and what has been sent. -/
def OnlyCtxs (pa : Nat) (s t : State) : Prop :=
  t = { s with ctxs := t.ctxs, mem := t.mem, fe := t.fe, out := t.out } ∧
  ∀ a, (a < pa ∨ pa + 8 ≤ a) → readByte t 0 (.dev a) 0 = readByte s 0 (.dev a) 0

/-- The bytes of the bench that a context gets: the words of its table and their records (R248, R249). -/
def inBench (s : State) (m : MgmtPacket) (a : Nat) : Prop :=
  (ctxOf s m).bench ≤ a ∧ a < (ctxOf s m).bench + 2 ^ (ctxOf s m).lgbench / 8 * 9

/-- No peer's stream is held at a fault of a context. -/
def NoStreamHeld (s : State) (c : Nat) : Prop := ∀ e ∈ s.peers, ∀ d va, e.2.fault = some (d, va) → d ≠ c

/-- R347 to R349, R368: CTX_CREATE makes the context that its fields describe, its bench empty, and gives BUSY where there is one, NO_RESOURCE where
what it needs of device memory is in use; CTX_DESTROY and a Function Level Reset take a context down with its queues, copies, waits and remote
entries, but for what withdraws its waits elsewhere, and one of the physical function takes every context down; without a running steward nothing
happens, and behind a command that is still open a command waits.

R322, R343, R347, R429: QUEUE_REG makes a queue of its record, with its slots empty, a slot whose page is absent once that page is there,
and QUEUE_UNREG forgets it; HANDLE_NEW and HANDLE_FREE make and end a handle; COMMIT advances the rollback counter to the running image's
secver where its flag asks for it.

Commands without an aligned status word, the place of a bench, and some statuses are the model's (log entries 25, 26, 64, 72 and 77). -/
def Obligations.ContextsAndQueues : Prop :=
  ((∀ (s : State) (m : MgmtPacket), Command s m 0x80 → ctxLegal s m = true →
    ((getCtx s (fieldD m.w2 0 8)).live = false → memoryInUse s (reserveBase s (fieldD m.w2 0 8)) (2 ^ 27) = true →
      ∃ t, exec (.ctxCreate m) s = .next t ∧ Answered (mgmtStatusAt m) 3 t ∧ OnlyCtxs (mgmtStatusAt m) s t ∧ t.ctxs = s.ctxs) ∧
    ((getCtx s (fieldD m.w2 0 8)).live = false → memoryInUse s (reserveBase s (fieldD m.w2 0 8)) (2 ^ 27) = false → ∃ t, exec (.ctxCreate m) s = .next t ∧ Answered (mgmtStatusAt m) 0 t ∧
      t = { s with ctxs := t.ctxs, mem := t.mem, poison := t.poison, fe := t.fe, out := t.out } ∧
      (∀ a, (a < mgmtStatusAt m ∨ mgmtStatusAt m + 8 ≤ a) →
        (inBench s m a → readByte t 0 (.dev a) 0 = 0) ∧ (¬ inBench s m a → readByte t 0 (.dev a) 0 = readByte s 0 (.dev a) 0)) ∧
      getCtx t (fieldD m.w2 0 8) = ctxOf s m ∧ (ctxOf s m).root = m.w1.toNat ∧
      (ctxOf s m).share = fieldD m.w2 32 8 ∧ (ctxOf s m).expbase = m.w3 ∧ (ctxOf s m).explen = m.w4.toNat ∧
      (ctxOf s m).savebase = m.w5.toNat ∧ (ctxOf s m).savelen = m.w6.toNat ∧ (ctxOf s m).hwin = m.w7 ∧
      ∀ d, d ≠ fieldD m.w2 0 8 → getCtx t d = getCtx s d) ∧
    ((getCtx s (fieldD m.w2 0 8)).live = true → ∃ t, exec (.ctxCreate m) s = .next t ∧ Answered (mgmtStatusAt m) 2 t ∧
      OnlyCtxs (mgmtStatusAt m) s t ∧ t.ctxs = s.ctxs)) ∧
  (∀ (s : State) (m : MgmtPacket), Command s m 0x80 → ctxLegal s m = false → ∃ t, exec (.ctxCreate m) s = .next t ∧
    Answered (mgmtStatusAt m) 1 t ∧ OnlyCtxs (mgmtStatusAt m) s t ∧ t.ctxs = s.ctxs) ∧
  (∀ (s t : State) (m : MgmtPacket) (c : Nat) (i : Instr),
    ((i = .ctxDestroy m ∧ c = mgmtCtxOf m ∧ CtxCommand s m 0x81 ∧ mgmtClean m 0 = true ∧ fieldD m.w1 8 56 = 0) ∨
      (i = .functionLevelReset c ∧ c < 32 ∧ (getCtx s c).live = true)) → exec i s = .next t →
    (getCtx t c).live = false ∧ (NoStreamHeld s c → getCtx t c = Ctx.vacant ∧ (∀ q < 64, getQueue t (queueKey c q) = Queue.vacant) ∧
      (∀ x ∈ t.engines, x.ctx ≠ c) ∧ (∀ w ∈ t.waits, w.ctx ≠ c) ∧ (∀ b ∈ t.barrow, b.rcd.ctx ≠ c ∨ ∃ x, b.rcd.kind = .withdraw x))) ∧
  (∀ (s : State) (m : MgmtPacket), CtxCommand s m 0x81 → mgmtClean m 0 = true → fieldD m.w1 8 56 = 0 →
    ∃ t, exec (.ctxDestroy m) s = .next t ∧ Output.interrupt 0 0 ∈ t.out ∧
      (NoStreamHeld s (mgmtCtxOf m) → Answered (mgmtStatusAt m) 0 t)) ∧
  (∀ (s : State) (m : MgmtPacket), Command s m 0x81 → mgmtClean m 0 = true → fieldD m.w1 8 56 = 0 → (getCtx s (mgmtCtxOf m)).live = false →
    ∃ t, exec (.ctxDestroy m) s = .next t ∧ Answered (mgmtStatusAt m) 4 t ∧ OnlyCtxs (mgmtStatusAt m) s t ∧ t.ctxs = s.ctxs) ∧
  (∀ (s : State) (c : Nat), c < 32 →
    ((getCtx s c).live = true → ∃ t, exec (.functionLevelReset c) s = .next t ∧ (getCtx t c).live = false) ∧
    ((getCtx s c).live = false → Nothing (.functionLevelReset c) s)) ∧
  (∀ s : State, ∃ t, exec (.functionLevelReset 32) s = .next t ∧ ∀ c, (getCtx t c).live = false) ∧
  (∀ (s : State) (m : MgmtPacket) (i : Instr), mgmtInstr m = some i → s.fw.running = true → mgmtStatusAt m % 8 = 0 →
    mgmtOpen s = true → exec i s = .next { s with mgmtHeld := s.mgmtHeld ++ [i] }) ∧
  (∀ (s : State) (m : MgmtPacket), s.fw.running = false → ∀ i ∈ [Instr.ctxCreate m, .ctxDestroy m, .queueReg m, .queueUnreg m, .handleNew m,
    .handleFree m, .inval m, .migrate m, .pageout m, .faultReply m, .ckptFull m, .ckptIncremental m, .ckptRestore m [], .commit m], Nothing i s)) ∧
  ((∀ (s : State) (m : MgmtPacket) (k : Nat) (bs : List Byte), CtxCommand s m 0x82 → k = queueKey (mgmtCtxOf m) (mgmtByte9 m) →
    mgmtClean m 1 = true → fieldD m.w1 16 48 = 0 → mgmtByte9 m < 64 →
    ((getQueue s k).live = true → ∃ t, exec (.queueReg m) s = .next t ∧ Answered (mgmtStatusAt m) 2 t ∧ t.queues = s.queues) ∧
    ((getQueue s k).live = false → m.w2.toNat % 64 = 0 → frontBytes s (mgmtCtxOf m) m.w2 64 = .ok bs →
      (queueRecordLegal bs = true → ∃ t, exec (.queueReg m) s = .next t ∧ Answered (mgmtStatusAt m) 0 t) ∧
      (queueRecordLegal bs = true → s.waits = [] → s.fills = [] → ∃ t, exec (.queueReg m) s = .next t ∧
        getQueue t k = { Queue.vacant with live := true, rcd := m.w2, base := dw (fieldAt bs 0 8), lgslots := fieldAt bs 8 1,
                                           vector := fieldAt bs 0x0A 2, owed := (getQueue t k).owed, slots := (getQueue t k).slots } ∧
        (∀ j, j ≠ k → getQueue t j = getQueue s j) ∧
        ∀ i < 2 ^ fieldAt bs 8 1, ∀ va, addrForm s (slotAddr (getQueue t k) i) = .plain va →
          (∀ l pa, walk s (mgmtCtxOf m) va = .leaf l → placeOf (l.pa + (va - l.va)) l.mtype = .dev pa →
            pa / 8 ≠ mgmtStatusAt m / 8 → readFe t 0 (.dev pa) = false) ∧
          ((∀ l, walk s (mgmtCtxOf m) va ≠ .leaf l) → i ∈ (getQueue t k).slots)) ∧
      (queueRecordLegal bs = false → ∃ t, exec (.queueReg m) s = .next t ∧ Answered (mgmtStatusAt m) 1 t ∧ t.queues = s.queues))) ∧
  (∀ (s : State) (m : MgmtPacket), CtxCommand s m 0x82 → mgmtClean m 1 = true → fieldD m.w1 16 48 = 0 → 64 ≤ mgmtByte9 m →
    ∃ t, exec (.queueReg m) s = .next t ∧ t.queues = s.queues ∧ Answered (mgmtStatusAt m) (if queuesFull s (mgmtCtxOf m) then 2 else 1) t) ∧
  (∀ (s : State) (m : MgmtPacket) (k : Nat), CtxCommand s m 0x83 → k = queueKey (mgmtCtxOf m) (mgmtByte9 m) → mgmtClean m 0 = true →
    fieldD m.w1 16 48 = 0 → mgmtByte9 m < 64 →
    ((getQueue s k).live = true → ∃ t, exec (.queueUnreg m) s = .next t ∧ Answered (mgmtStatusAt m) 0 t ∧ getQueue t k = Queue.vacant ∧
      ∀ j, j ≠ k → getQueue t j = getQueue s j) ∧
    ((getQueue s k).live = false → ∃ t, exec (.queueUnreg m) s = .next t ∧ Answered (mgmtStatusAt m) 4 t ∧ t.queues = s.queues)) ∧
  (∀ (s : State) (m : MgmtPacket) (c : Ctx), CtxCommand s m 0x84 → c = getCtx s (mgmtCtxOf m) → mgmtClean m 3 = true → fieldD m.w1 8 24 = 0 →
    m.w2.toNat % 128 = 0 → m.w3.toNat % 128 = 0 → m.w4.toNat < 3 →
    ((∀ h ∈ c.handles, h.id ≠ mgmtId m) → c.handles.length < 65536 → ∃ t, exec (.handleNew m) s = .next t ∧ Answered (mgmtStatusAt m) 0 t ∧
      OnlyCtxs (mgmtStatusAt m) s t ∧ getCtx t (mgmtCtxOf m) = { c with handles := c.handles ++
        [{ id := mgmtId m, base := m.w2, len := m.w3.toNat, mtype := m.w4.toNat, writers := [], readers := [] }] }) ∧
    ((∃ h ∈ c.handles, h.id = mgmtId m) → ∃ t, exec (.handleNew m) s = .next t ∧ Answered (mgmtStatusAt m) 2 t ∧
      OnlyCtxs (mgmtStatusAt m) s t ∧ t.ctxs = s.ctxs)) ∧
  (∀ (s : State) (m : MgmtPacket) (c : Ctx), CtxCommand s m 0x85 → c = getCtx s (mgmtCtxOf m) → mgmtClean m 0 = true → fieldD m.w1 8 24 = 0 →
    ((∃ h ∈ c.handles, h.id = mgmtId m) → ∃ t, exec (.handleFree m) s = .next t ∧ Answered (mgmtStatusAt m) 0 t ∧
      OnlyCtxs (mgmtStatusAt m) s t ∧ (∀ h ∈ (getCtx t (mgmtCtxOf m)).handles, h.id ≠ mgmtId m) ∧
      ∀ h ∈ c.handles, h.id ≠ mgmtId m → h ∈ (getCtx t (mgmtCtxOf m)).handles) ∧
    ((∀ h ∈ c.handles, h.id ≠ mgmtId m) → ∃ t, exec (.handleFree m) s = .next t ∧ Answered (mgmtStatusAt m) 4 t ∧
      OnlyCtxs (mgmtStatusAt m) s t ∧ t.ctxs = s.ctxs)) ∧
  (∀ (s : State) (m : MgmtPacket) (g : FwImage), Command s m 0x8B → fieldD m.w0 8 8 = 0 → m.w1 = 0 → mgmtClean m 0 = true →
    s.fw.image = some g → ∃ t, exec (.commit m) s = .next t ∧ Answered (mgmtStatusAt m) 0 t ∧
      t.fw = { s.fw with counter := if (imageFlags g).testBit 0 then max s.fw.counter (imageSecver g) else s.fw.counter }))

/-- R355 to R362: INVAL drops the cached translations of its range, makes the translation registers stale, and completes once no operation that was
under way through them is; MIGRATE and PAGEOUT copy every line with accesses at the old frame, further rounds copy what was written, and the
freeze moves the unit once no range lock overlaps it; PAGE_IN brings a unit back from its slot; FAULT_REPLY takes the fault off the list, and its held strands execute again with action 0, or
trap PAGE with action 1.

What an access at a full/empty word does under INVAL, what marks a line of a moved unit and the place of new tables are the model's (log
entries 26, 65 and 66). -/
def Obligations.PagingCommands : Prop :=
  (∀ (s s1 : State) (m : MgmtPacket) (c : Nat), CtxCommand s m 0x86 → c = mgmtCtxOf m → mgmtClean m 2 = true → fieldD m.w1 8 56 = 0 →
    m.w2.toNat % 65536 = 0 → m.w3.toNat % 65536 = 0 → s1 = relocateWaits c (dropTranslations c m.w2.toNat m.w3.toNat s) →
    (∃ t, exec (.inval m) s = .next t ∧ (∀ e ∈ (getCtx t c).tlb, inRange m.w2.toNat m.w3.toNat e.va e.size = false) ∧
      (∀ e ∈ (getCtx s c).tlb, inRange m.w2.toNat m.w3.toNat e.va e.size = false → e ∈ (getCtx t c).tlb) ∧
      (∀ g ∈ groups t, g.ctx = c → ∀ k < 8, (readTReg g k).stale = true)) ∧
    (opsUnderWay s1 c m.w2.toNat m.w3.toNat = [] → ∃ t, exec (.inval m) s = .next t ∧ Answered (mgmtStatusAt m) 0 t) ∧
    (opsUnderWay s1 c m.w2.toNat m.w3.toNat ≠ [] → s1.mem = s.mem ∧ s1.fe = s.fe ∧ exec (.inval m) s = .next { s1 with
      invals := s1.invals ++ [{ ctx := c, base := m.w2.toNat, len := m.w3.toNat, status := mgmtStatusAt m,
                                ops := opsUnderWay s1 c m.w2.toNat m.w3.toNat }] })) ∧
  (∀ (s : State) (x : Inval), s.invals = [x] → isPoisoned s 0 (.dev x.status) 8 = false →
    (invalWaits s x = false → Answered x.status 0 (endInvals s) ∧ (endInvals s).invals = []) ∧ (invalWaits s x = true → endInvals s = s)) ∧
  (∀ (s : State) (m : MgmtPacket) (c : Nat) (x : Entry) (i : Instr) (host : Bool),
    (if host then CtxCommand s m 0x88 ∧ i = .pageout m ∧ m.w3.toNat % 4096 = 0
     else CtxCommand s m 0x87 ∧ i = .migrate m ∧ m.w3.toNat % 65536 = 0) →
    c = mgmtCtxOf m → mgmtClean m 2 = true → fieldD m.w1 8 56 = 0 → m.w2.toNat % 65536 = 0 → addrForm s m.w2 = .plain m.w2.toNat →
    (leafEntry s c m.w2.toNat = none → ∃ t, exec i s = .next t ∧ Answered (mgmtStatusAt m) 4 t ∧ t.ctxs = s.ctxs) ∧
    (leafEntry s c m.w2.toNat = some x → x.device = true →
      (host = false → frameLegal s m.w3.toNat = false →
        ∃ t, exec i s = .next t ∧ Answered (mgmtStatusAt m) 3 t ∧ t.ctxs = s.ctxs) ∧
      ((host = true ∨ frameLegal s m.w3.toNat = true) → x.level = 0 →
        ∃ t, exec i s = .next t ∧ getCtx t c = { getCtx s c with
          mig := some { va := m.w2, old := x.frame, frame := m.w3.toNat, toHost := host, status := mgmtStatusAt m, round := 1, last := 512,
                        marked := [] } } ∧ t.cur = s.cur ∧ t.out = s.out ∧
          (host = false → rangesMeet x.frame 65536 m.w3.toNat 65536 = false → ∀ i < 65536,
            readByte t 0 (.dev m.w3.toNat) i = readByte s 0 (.dev x.frame) i) ∧
          (host = true → t.mem = s.mem ∧ ∀ i < 65536, readByte t 0 (.host m.w3.toNat) i = readByte s 0 (.dev x.frame) i)))) ∧
  (∀ (s : State) (c : Nat) (m : Migration) (x : Entry), (getCtx s c).mig = some m → leafEntry s c m.va.toNat = some x →
    (m.more = true → ∃ t, exec (.migrateFreeze c) s = .next t ∧ t.ctxs = Sparse.set Ctx.vacant s.ctxs c { getCtx s c with
        mig := some { m with round := m.round + 1, last := m.marked.length, marked := [] } } ∧ t.out = s.out ∧
      ((∀ k ∈ m.marked, k < 512) → ∀ k ∈ m.marked, m.toHost = false → rangesMeet m.old 65536 m.frame 65536 = false → ∀ i < 128,
        readByte t 0 (.dev m.frame) (128 * k + i) = readByte s 0 (.dev m.old) (128 * k + i))) ∧
    (m.more = false → (unitLocked s c m.va.toNat = true → Nothing (.migrateFreeze c) s) ∧
    (unitLocked s c m.va.toNat = false → m.toHost = false → ∃ t, exec (.migrateFreeze c) s = .next t ∧ (getCtx t c).mig = none ∧
      (isPoisoned s 0 (.dev m.status) 8 = false → m.status % 8 = 0 → m.frame % 65536 = 0 → (∀ k ∈ m.marked, k < 512) →
        rangesMeet m.frame 65536 m.status 8 = false → Answered m.status 0 t) ∧
      (rangesMeet x.at_ 8 m.status 8 = false → readBytes t 0 (.dev x.at_) 8 = (x.e - bits x.e 8 44 * 256 + m.frame) % 2 ^ 64) ∧
      (rangesMeet m.frame 65536 x.at_ 8 = false → rangesMeet m.frame 65536 m.status 8 = false → m.frame % 65536 = 0 → m.old % 65536 = 0 →
        m.status % 8 = 0 → rangesMeet m.old 65536 m.frame 65536 = false → (∀ k ∈ m.marked, k < 512) → ∀ i < 65536,
        readByte t 0 (.dev m.frame) i = (if m.marked.contains (i / 128) then readByte s 0 (.dev m.old) i else readByte s 0 (.dev m.frame) i) ∧
        readFe t 0 (.dev (m.frame + i)) =
          (if m.marked.contains (i / 128) then readFe s 0 (.dev (m.old + i)) else readFe s 0 (.dev (m.frame + i))))) ∧
    (unitLocked s c m.va.toNat = false → groups s = [] → m.toHost = true → ∃ t, exec (.migrateFreeze c) s = .next t ∧
      (getCtx t c).mig = none ∧ (isPoisoned s 0 (.dev m.status) 8 = false → Answered m.status 0 t) ∧
      (rangesMeet x.at_ 8 m.status 8 = false → readBytes t 0 (.dev x.at_) 8 = (m.frame / 4096 * 4096 + 2) % 2 ^ 64) ∧
      (∀ i < 65536, m.marked.contains (i / 128) = true → readByte t 0 (.host m.frame) i = readByte s 0 (.dev m.old) i) ∧
      ∃ p ∈ (getCtx t c).pages, p.va = m.va ∧ p.poison = framePoison s m.old))) ∧
  (∀ (s : State) (c : Nat), (getCtx s c).mig = none → Nothing (.migrateFreeze c) s) ∧
  (∀ (s : State) (c va f unit : Nat) (p : PageRec) (x : Entry), unit = va / 65536 * 65536 → walk s c unit = .absent true →
    (getCtx s c).pages.find? (fun p => p.va == dw unit) = some p →
    (∀ w, freeFrame s = none → (getCtx s c).waiting.find? (fun w => w.1 && w.2.va == dw unit) = some w → (getCtx s c).faults.length < 4096 →
      ∃ t, exec (.pageIn c va none) s = .next t ∧
        (getCtx t c).faults = (getCtx s c).faults ++ [{ w.2 with id := (getCtx s c).faultNo }] ∧ (∀ x ∈ (getCtx t c).waiting, x.2.va ≠ w.2.va)) ∧
    (freeFrame s ≠ none ∨ (∀ w ∈ (getCtx s c).waiting, w.1 = true → w.2.va ≠ dw unit) → Nothing (.pageIn c va none) s) ∧
    (frameLegal s f = true → (ctxEntries s c).find? (fun x => x.va == unit && !x.e.testBit 0) = some x → groups s = [] → s.queues = [] → s.served = [] →
      s.peers = [] →
      ∃ t, exec (.pageIn c va (some f)) s = .next t ∧ readBytes t 0 (.dev x.at_) 8 = (p.leaf.toNat + f) % 2 ^ 64 ∧
        (∀ q ∈ (getCtx t c).pages, q.va ≠ p.va) ∧
        (rangesMeet f 65536 x.at_ 8 = false → ∀ i < 65536, readByte t 0 (.dev f) i = readByte s 0 (.host (x.e / 4096 * 4096)) i))) ∧
  (∀ (s : State) (c va : Nat) (f : Option Nat), walk s c (va / 65536 * 65536) ≠ .absent true → Nothing (.pageIn c va f) s) ∧
  (∀ (s : State) (m : MgmtPacket) (c : Nat) (f : FaultRec), CtxCommand s m 0x89 → c = mgmtCtxOf m → mgmtClean m 1 = true →
    fieldD m.w1 8 24 = 0 → m.w2.toNat ≤ 1 →
    ((getCtx s c).faults.find? (fun f => f.id == mgmtId m) = none →
      ∃ t, exec (.faultReply m) s = .next t ∧ Answered (mgmtStatusAt m) 4 t ∧ OnlyCtxs (mgmtStatusAt m) s t ∧ t.ctxs = s.ctxs) ∧
    ((getCtx s c).faults.find? (fun f => f.id == mgmtId m) = some f →
      (∃ t, exec (.faultReply m) s = .next t ∧ Output.interrupt 0 0 ∈ t.out ∧
        (s.peers = [] → s.served = [] → Answered (mgmtStatusAt m) 0 t)) ∧
      (s.served = [] → s.peers = [] → s.queues = [] → s.others = [] → s.cur.live = true → s.cur.ctx = c → s.cur.outs = [] → s.cur.rest = [] →
      s.cur.shelf = [] →
      ∀ b va, s.cur.strand.hold = .fault b va → va.toNat / 65536 = f.va.toNat / 65536 →
      (m.w2 = 0 → ∃ t, exec (.faultReply m) s = .next t ∧ ((getCtx s c).waiting = [] → ∀ x ∈ (getCtx t c).faults, x.id ≠ mgmtId m) ∧
          t.cur.strand = { s.cur.strand with hold := .none } ∧ t.cur.regs = s.cur.regs) ∧
      (m.w2 = 1 → (lowestLane s.cur.strand.mask).isSome = true →
        (∀ a, nextInstr s.cur.strand s.cur s ≠ some (.fork a)) → (∀ a b, nextInstr s.cur.strand s.cur s ≠ some (.spawn a b)) →
        s.cur.inTrap = false → s.cur.hdr.handler ≠ 0 → s.cur.restoring = none →
        s.teams = [] → s.prels = [] → s.engines = [] → s.hostHeld = [] →
        ∃ t, exec (.faultReply m) s = .next t ∧ Answered (mgmtStatusAt m) 0 t ∧ t.cur.tcause = tcauseOf (trapOf .page va) ∧ t.cur.tval = va ∧
          t.cur.tpc = s.cur.strand.pc &&& ~~~3#64 ∧ t.cur.inTrap = true))))

/-- R395, R409 to R412, R414: a checkpoint arms, or starts where its start time has come; each round sends the units that it copies; with no
more rounds its teams are marked, and once the context is drained it ends OK, or BUSY where a limit is missed; a restore loads the units that
the tier returns. A scrub changes no byte and records each poisoned unit; a row repair keeps every byte, bit and poison.

The number of rounds, what the tier holds and the quiesce of first teams, the tokens of the stewards' barrier and which bursts a scrub
corrects are the model's (log entries 32, 33, 74 and 99). -/
def Obligations.Checkpoints : Prop :=
  (∀ (s : State) (m : MgmtPacket) (c : Nat) (full : Bool) (i : Instr) (k : Ckpt), CtxCommand s m 0x8A → c = mgmtCtxOf m → ckptLegal m = true →
    (if full then mgmtByte9 m = 0 ∧ i = .ckptFull m else mgmtByte9 m = 1 ∧ i = .ckptIncremental m) →
    k = { phase := .armed, full := full, epoch := m.w2, start := m.w3, status := mgmtStatusAt m, round := 0, marked := 0 } →
    ((getCtx s c).dirtyOn = false ∨ (getCtx s c).ckpt.isSome = true → ∃ t, exec i s = .next t ∧ Answered (mgmtStatusAt m) 2 t ∧
      OnlyCtxs (mgmtStatusAt m) s t ∧ t.ctxs = s.ctxs) ∧
    ((getCtx s c).dirtyOn = true → (getCtx s c).ckpt = none →
      (s.time.toNat < m.w3.toNat → ∃ t, exec i s = .next t ∧ t = { s with ctxs := t.ctxs } ∧
        getCtx t c = { getCtx s c with ckpt := some k }) ∧
      (m.w3.toNat ≤ s.time.toNat → ∃ t, exec i s = .next t ∧ (getCtx t c).ckpt = some { k with phase := .rounds, round := 1 } ∧
        ∀ x ∈ roundEntries s c full, pagedEntry x = false → x.level = 0 → ∃ e ∈ (getPort t (32 + x.va / 65536 % 4)).tier,
          e.1.take 4 = [0x4B#8, 0x43#8, 0x51#8, 0x39#8] ∧ e.1.length = 66624 ∧
          ∀ i < 65536, (∀ y ∈ roundEntries s c full, rangesMeet y.at_ 8 (x.frame + i) 1 = false) →
            e.1.getD (64 + i) 0 = readByte s 0 (.dev x.frame) i))) ∧
  (∀ (s : State) (c : Nat) (k : Ckpt), (getCtx s c).ckpt = some k → isPoisoned s 0 (.dev k.status) 8 = false →
    (k.phase = .armed → k.units = none → k.start.toNat ≤ s.time.toNat → ∃ t, exec (.checkpointStart c) s = .next t ∧
      (getCtx t c).ckpt = some { k with phase := .rounds, round := 1 }) ∧
    ((k.phase ≠ .armed ∨ s.time.toNat < k.start.toNat) → Nothing (.checkpointStart c) s) ∧
    (k.phase = .rounds → moreRounds s c k.round = true → ∃ t, exec (.ckptQuiesce c) s = .next t ∧
      (getCtx t c).ckpt = some { k with round := k.round + 1 }) ∧
    (k.phase = .rounds → moreRounds s c k.round = false → ∃ t, exec (.ckptQuiesce c) s = .next t ∧
      (getCtx t c).ckpt = some { k with phase := .quiesce, marked := s.time }) ∧
    (k.phase = .quiesce → ∃ t, exec (.ckptQuiesce c) s = .next t ∧ (getCtx t c).ckpt = some k) ∧
    (k.phase ≠ .rounds → k.phase ≠ .quiesce → Nothing (.ckptQuiesce c) s) ∧
    (k.phase = .quiesce →
      ((residentTeams s c).any (missedLimit s k.marked) = true → ∃ t d, exec (.ckptQuiesceTimeout c) s = .next t ∧ (getCtx t c).ckpt = none ∧
        Answered k.status 2 t ∧ t.daybook.getLast? = some d ∧ d.kind = 0x0A ∧ d.ctx = c ∧ d.code = 2) ∧
      ((residentTeams s c).any (missedLimit s k.marked) = false → Nothing (.ckptQuiesceTimeout c) s) ∧
      (drained s c = true → haveMet (arriveMeet c k s) c = false → ∃ t, exec (.ckptDrainComplete c) s = .next t ∧
        (getCtx t c).ckpt = some { k with phase := .meet } ∧ t.mem = s.mem)) ∧
    (k.phase = .meet ∨ k.phase = .quiesce → drained s c = true → haveMet (if k.phase = .meet then s else arriveMeet c k s) c = true →
      ∃ t d, exec (.ckptDrainComplete c) s = .next t ∧ (getCtx t c).ckpt = none ∧ Answered k.status 0 t ∧
        t.daybook.getLast? = some d ∧ d.kind = 0x0A ∧ d.ctx = c ∧ d.code = 0 ∧ d.val = k.epoch) ∧
    (drained s c = false → Nothing (.ckptDrainComplete c) s)) ∧
  (∀ (s : State) (c : Nat) (k : Ckpt), podSize s = 1 → (∀ e ∈ s.episodes, e.ctx ≠ 32 + c) → haveMet (arriveMeet c k s) c = true) ∧
  (∀ (s : State) (m : MgmtPacket) (c : Nat) (units : List (Nat × List Byte × List Byte × List Bool)), CtxCommand s m 0x8A → c = mgmtCtxOf m →
    ckptLegal m = true → mgmtByte9 m = 2 →
    ((getCtx s c).dirtyOn = false ∨ (getCtx s c).ckpt.isSome = true ∨ residentTeams s c ≠ [] →
      ∃ t, exec (.ckptRestore m units) s = .next t ∧ Answered (mgmtStatusAt m) 2 t ∧ OnlyCtxs (mgmtStatusAt m) s t ∧ t.ctxs = s.ctxs) ∧
    ((getCtx s c).dirtyOn = true → (getCtx s c).ckpt = none → residentTeams s c = [] → s.time.toNat < m.w3.toNat →
      ∃ t, exec (.ckptRestore m units) s = .next t ∧ t = { s with ctxs := t.ctxs } ∧ getCtx t c = { getCtx s c with
        ckpt := some { phase := .armed, full := false, epoch := m.w2, start := m.w3, status := mgmtStatusAt m, round := 0, marked := 0,
                       units := some units } }) ∧
    ((getCtx s c).dirtyOn = true → (getCtx s c).ckpt = none → residentTeams s c = [] → m.w3.toNat ≤ s.time.toNat →
      (∃ t, exec (.ckptRestore m units) s = .next t ∧ Output.interrupt 0 0 ∈ t.out ∧ (units = [] → Answered (mgmtStatusAt m) 0 t)) ∧
      ∀ (x : Entry) (va : Nat) (data side : List Byte) (bad : List Bool), units = [(va, data, side, bad)] →
        (∀ y ∈ ctxEntries s c, y.va = va → pagedEntry y = false) → leafEntry (splitUnit c va s) c va = some x → x.device = true → data.length = 65536 → s.tier = [] → rangesMeet x.frame 65536 (mgmtStatusAt m) 8 = false →
        ∃ t, exec (.ckptRestore m units) s = .next t ∧ ∀ i < 65536, readByte t 0 (.dev x.frame) i = data.getD i 0)) ∧
  (∀ s : State, ∃ t, exec .hbmScrub s = .next t ∧ t = { s with daybook := t.daybook, dayIdx := t.dayIdx, eccAt := t.eccAt, scrubAt := s.time } ∧
    s.dayIdx + (s.poison.filter (fun e => e.2)).length ≤ t.dayIdx) ∧
  (∀ (s : State) (units : List Nat),
    (s.repairs.length < 256 → ∃ t, exec (.hbmRowRepair units) s = .next t ∧ t.mem = s.mem ∧ t.fe = s.fe ∧ t.poison = s.poison ∧
      t.repairs = s.repairs ++ [.row units]) ∧
    (256 ≤ s.repairs.length → exec (.hbmRowRepair units) s = .next { s with out := s.out ++ [.storeFull] }))

/-! ### Events: the pod -/

/-- R407, R408: a peer without an accepted header for four joined slots becomes recovering, and lost once the recovery bound has passed since;
a lost peer's stream starts anew, and the fabric manager writes an entry.

R281, R285, R287, R293, R374, R375, R377, R378, R379, R381: a slot that begins sets every port that faces a peer of a formed pair to its die's lane
map, with its flits still to come; as the payload begins a port with light sends lane markers and a header, its beats dealt over the live
wavelengths, with the slot, the cycle and the lane map: the one that was fixed for the slot, or one without tokens and acknowledgements; a header is
fixed once, from 64 ns before its slot on; a header that survives its checks sets the receiver's lane map, the peer's room and what has been
received, and one that does not is counted and noted as missed; those of a pair that is not formed are not taken.

Writes of other states, the bit that tells a missed header, the fibre delays and a header that was not fixed are the model's (log
entries 27, 31, 85 and 95). -/
def Obligations.HealthAndHeaders : Prop :=
  ((∀ (s : State) (p : Nat), isPeer s p = true →
    (Sparse.get 0 s.health p = 0 → 4 ≤ (getPeer s p).quiet → ∃ t d, exec (.peerRecovering p) s = .next t ∧ Sparse.get 0 t.health p = 1 ∧
      Sparse.get 0 t.recovAt p = s.time ∧ (∀ q, q ≠ p → Sparse.get 0 t.health q = Sparse.get 0 s.health q) ∧ t.mem = s.mem ∧
      t.daybook.getLast? = some d ∧ d.kind = 0x0C ∧ d.val = dw p ∧ d.aux = 1) ∧
    ((Sparse.get 0 s.health p ≠ 0 ∨ (getPeer s p).quiet < 4) → Nothing (.peerRecovering p) s) ∧
    (Sparse.get 0 s.health p = 1 → 1000000 * (s.recovb.toNat % 2 ^ 24) ≤ (s.time - Sparse.get 0 s.recovAt p).toNat →
      ∃ t, exec (.peerLost p) s = .next t ∧ Sparse.get 0 t.health p = 2 ∧ (s.barrow = [] → s.episodes = [] → getPeer t p = Peer.start)) ∧
    ((Sparse.get 0 s.health p ≠ 1 ∨ (s.time - Sparse.get 0 s.recovAt p).toNat < 1000000 * (s.recovb.toNat % 2 ^ 24)) →
      Nothing (.peerLost p) s) ∧
    (∃ t, exec (.podHealthWrite p 0) s = .next t ∧ Sparse.get 0 t.health p = 0 ∧ (getPeer t p).quiet = 0) ∧
    (Sparse.get 0 s.health p ≠ 2 →
      (∃ t, exec (.podHealthWrite p 1) s = .next t ∧ Sparse.get 0 t.health p = 1) ∧
      ∃ t, exec (.podHealthWrite p 2) s = .next t ∧ Sparse.get 0 t.health p = 2 ∧ (s.barrow = [] → s.episodes = [] → getPeer t p = Peer.start))) ∧
  (∀ (s : State) (p : Nat) (st : BitVec 2), isPeer s p = false →
    Nothing (.peerRecovering p) s ∧ Nothing (.peerLost p) s ∧ Nothing (.podHealthWrite p st) s)) ∧
  ((∀ (s : State) (brokers : List Nat), slotDue s = true →
    ∃ t, exec (.slotStart brokers) s = .next t ∧ t.slotAt = absSlot s + 1 ∧
      ((runningSlot s).isSome = true → ∀ e ∈ s.lateEvents, t.events.length < 1024 → e ∈ t.events) ∧
      ∀ p < 36, slotPeer s (absSlot s) p ≠ pkgId s → formed s (slotPeer s (absSlot s) p) = true →
        (getPort t p).txmap = dieMap s (absSlot s) (portDie p) ∧ (getPort t p).next = 0 ∧ (getPort t p).sent = 0 ∧ (getPort t p).head = true) ∧
  (∀ (s : State) (brokers : List Nat), slotDue s = false → Nothing (.slotStart brokers) s) ∧
  (∀ (s : State) (p slot q now : Nat), portRuns s p = some (slot, q) → payloadNow s slot = some now → (getPort s p).head = true →
    reachable s q = true → (getPort s p).txmap ≠ 0 → now < flitTime (getPort s p).txmap →
    ∃ h, Output.header p q (flitLanes (getPort s p).txmap 0) h ∈ (sendPort s p).out ∧ h.map = (getPort s p).txmap ∧
      h.crc = crc32 (headerBytes h) ∧
      (∀ h0, (getPort s p).header = some (slot, h0) → h = { h0 with map := h.map, seq := h.seq, crc := h.crc }) ∧
      Output.marker p ((List.range 16).filter (fun i => h.map.getLsbD i)) h.map h.slot (h.cycle % 2 ^ 20) ∈ (sendPort s p).out ∧
      ((∀ h0, (getPort s p).header ≠ some (slot, h0)) → h.slot = slot % slotsPerCycle s ∧
        h.cycle = slot / slotsPerCycle s % 2 ^ 48 ∧ h.tokens = [] ∧ h.acks = [])) ∧
  (∀ (s : State) (p n : Nat), n = ((s.time - s.tbase.origin).toNat + 64) / 512 → s.tbase.inrota = true → p < 36 →
    slotPeer s n p ≠ pkgId s → formed s (slotPeer s n p) = true → s.slotAt ≠ n + 1 →
    ((∀ h, (getPort s p).header ≠ some (n, h)) → ∃ t h, exec (.headerFix p) s = .next t ∧ (getPort t p).header = some (n, h) ∧
      h.slot = n % slotsPerCycle s ∧ h.map = (getPort s p).txmap ∧ h.tokens.length ≤ 10 ∧ h.acks.length ≤ 16 ∧ t.mem = s.mem) ∧
    ((∃ h, (getPort s p).header = some (n, h)) → Nothing (.headerFix p) s)) ∧
  (∀ (s : State) (q k : Nat) (h : HeaderFlit), facesPeer s q = true → formed s q = true → k = peerPort s q →
    (headerGood (h.marker.getD (getPort s k).rxmap) h = false →
      ∃ t, exec (.headerFlitReceive q h) s = .next t ∧ t = { s with peers := t.peers, ports := t.ports } ∧
        (∀ n, runningSlot s = some n → n ∈ (getPeer t q).missed) ∧ (getPort t k).rxbad = (getPort s k).rxbad + 1) ∧
    (headerGood (h.marker.getD (getPort s k).rxmap) h = true → h.tokens = [] → h.acks = [] →
      ((getPeer s q).unacked = [] → (getPeer s q).replay = [] →
        ∃ t, exec (.headerFlitReceive q h) s = .next t ∧ t = { s with peers := t.peers, ports := t.ports } ∧
          (getPort t k).rxmap = h.map ∧ (getPeer t q).heard = true ∧ (getPeer t q).room = h.room) ∧
      (∃ t, exec (.headerFlitReceive q h) s = .next t ∧ ∀ f ∈ (getPeer t q).unacked ++ (getPeer t q).replay, accounted h f.1 = false))) ∧
  (∀ (s : State) (q : Nat) (h : HeaderFlit), (facesPeer s q = false ∨ formed s q = false) → Nothing (.headerFlitReceive q h) s))

/-- R261, R274, R288, R291, R295, R296, R300, R373, R375, R376, R379, R383, R389: a data flit that fails its checks only counts; a duplicate is counted
and not applied again; the next in sequence is applied, and of a parcel that nothing of its group and its source precedes the words of the export
window that it carries whole are written; a served load's reply is queued with its data, once nothing stands before it.

The withheld acknowledgement, and what late flits do, are the model's readings (log entries 28, 69 and 70), and so is the order of
service (log entry 96). -/
def Obligations.FlitsAndService : Prop :=
  (∀ (s : State) (q : Nat) (f : DataFlit), (facesPeer s q = false ∨ formed s q = false) → Nothing (.dataFlitReceive q f) s) ∧
  (∀ (s : State) (q k : Nat) (f : DataFlit), facesPeer s q = true → formed s q = true → k = peerPort s q →
    (flitGood (judgeMap (getPort s k) f) f = false → ∃ t, exec (.dataFlitReceive q f) s = .next t ∧ t = { s with ports := t.ports } ∧
      (getPort t k).rxbad = (if (getPort s k).rxloss = [] then (getPort s k).rxbad + 1 else (getPort s k).rxbad) ∧
      (getPort t k).rxgood = (getPort s k).rxgood) ∧
    ((getPort s k).rxloss = [] → flitGood (getPort s k).rxmap f = true → f.ack = none → f.body ≠ .idle →
      duplicate (getPeer s q) (f.seq % 16384) = true →
      ∃ t, exec (.dataFlitReceive q f) s = .next t ∧ t = { s with ports := t.ports, peers := t.peers } ∧
        (getPort t k).rxgood = (getPort s k).rxgood + 1 ∧ (getPort t k).rxdup = (getPort s k).rxdup + 1 ∧
        (getPeer t q).rxnext = (getPeer s q).rxnext) ∧
    (∀ (p : ParcelFlit) (va pa : Nat) (s1 : State), (getPort s k).rxloss = [] → flitGood (getPort s k).rxmap f = true → f.ack = none →
      f.body = .parcel p → f.seq = (getPeer s q).rxnext → f.seq < 16384 → (getPeer s q).rxheld = [] → (getPeer s q).fault = none →
      p.src = q → p.pull = none → p.relayed = false → p.feMode = 0 → p.poison = [] → p.bytes ≠ [] → (getPeer s q).landed = [] →
      standsBehind s (parcelRecord p) s.served = false →
      s1 = modPeer q (fun x => { x with rxheld := [(f.seq, f.body)], owedAcks := oweAck x.owedAcks f.seq })
        (modPort k (fun x => { x with rxgood := x.rxgood + 1, rxpos := f.pos + 1 }) (countCodewords k f.words s)) →
      ((getCtx s p.ctx).expbase.toNat + p.off) % 65536 + p.bytes.length ≤ 65536 →
      (ingress p.ctx p.off p.bytes.length .wr s1).1 = .ok va (.dev pa) →
      ∃ t, exec (.dataFlitReceive q f) s = .next t ∧ (∀ i < p.bytes.length, va ≤ (va + i) / 8 * 8 → (va + i) / 8 * 8 + 8 ≤ va + p.bytes.length →
          readByte t 0 (.dev pa) i = p.bytes.getD i 0) ∧
        (getPeer t q).rxnext = (f.seq + 1) % 16384 ∧ (getPeer t q).rxheld = [] ∧ (getPort t k).rxgood = (getPort s k).rxgood + 1)) ∧
  (∀ (s : State) (k : Nat) (x : Served), s.served[k]? = some x →
    ((x.held ≠ none ∨ standsBehind s x.rcd (s.served.take k) = true) → Nothing (.remoteServiceComplete k) s) ∧
    (∀ (va pa : Nat) (s1 : State), x.held = none → x.parcel = none → standsBehind s x.rcd (s.served.take k) = false →
      x.rcd.src ≠ pkgId s → x.rcd.kind = .load →
      ingress x.rcd.ctx x.rcd.off x.rcd.size .rd { s with served := s.served.eraseIdx k } = (.ok va (.dev pa), s1) →
      isPoisoned s1 0 (.dev pa) x.rcd.size = false → ∃ t, exec (.remoteServiceComplete k) s = .next t ∧ t.served = s.served.eraseIdx k ∧
        t.mem = s1.mem ∧ (getPeer t x.rcd.src).replies = (getPeer s x.rcd.src).replies ++
          [{ tag := x.rcd.tag, lane := x.rcd.lane, data := BitVec.ofNat 512 (readBytes s1 0 (.dev pa) x.rcd.size), fail := none }])) ∧
  (∀ (s : State) (k : Nat), s.served[k]? = none → Nothing (.remoteServiceComplete k) s)

/-! ### Events: clocks, power and resets -/

/-- R421, R423, R424, R426: a droop stretches the pair's periods while it lasts, 64 cycles of it lower its target by one step, and 10 µs without one raise
it by one step up to its die's limit; the power runner keeps what it has measured, lowers the limits of hot dies, and at 115 °C makes the thermal
shutdown due, which takes power from the dies and destroys what they held; a runner that restarts is counted.

The amount by which a limit falls is a free value (log entry 12), and that device memory is lost is the model's reading (log entry 75). -/
def Obligations.ClocksAndPower : Prop :=
  (∀ (s : State) (p : Nat), p < 184 →
    ((getClock s p).stretch = false → ∃ t, exec (.droopDetect p) s = .next t ∧ t = { s with clocks := t.clocks } ∧
      getClock t p = { getClock s p with stretch := true, since := pairClk s p, lowered := false } ∧ ∀ q, q ≠ p → getClock t q = getClock s q) ∧
    ((getClock s p).stretch = true → ∃ t, exec (.droopDetect p) s = .next t ∧ t = { s with clocks := t.clocks } ∧
      getClock t p = { getClock s p with stretch := false, quiet := s.time } ∧ ∀ q, q ≠ p → getClock t q = getClock s q) ∧
    ((getClock s p).stretch = true → (getClock s p).lowered = false → 64 ≤ (pairClk s p - (getClock s p).since).toNat →
      ∃ t, exec (.droopStepDown p) s = .next t ∧ t = { s with clocks := t.clocks } ∧
        getClock t p = { getClock s p with steps := (getClock s p).steps - 1, lowered := true }) ∧
    (((getClock s p).stretch = false ∨ (getClock s p).lowered = true ∨ (pairClk s p - (getClock s p).since).toNat < 64) →
      Nothing (.droopStepDown p) s) ∧
    ((getClock s p).stretch = false → (getClock s p).steps < dieLimit s p → (getClock s p).quiet.toNat + 10000 ≤ s.time.toNat →
      ∃ t, exec (.droopStepUp p) s = .next t ∧ t = { s with clocks := t.clocks } ∧
        getClock t p = { getClock s p with steps := (getClock s p).steps + 1, quiet := s.time }) ∧
    (((getClock s p).stretch = true ∨ dieLimit s p ≤ (getClock s p).steps ∨ s.time.toNat < (getClock s p).quiet.toNat + 10000) →
      Nothing (.droopStepUp p) s)) ∧
  (∀ (s : State) (pnow : BitVec 16) (t0 t1 t2 t3 : BitVec 8), s.power.limits.length = 4 →
    ∃ t, exec (.powerControl pnow t0 t1 t2 t3) s = .next t ∧ t.power.pnow = pnow ∧
      ((s.power.off = true ∨ (t0.toNat < 115 ∧ t1.toNat < 115 ∧ t2.toNat < 115 ∧ t3.toNat < 115)) →
        t = { s with power := t.power, clocks := t.clocks }) ∧
      (s.power.off = false → (115 ≤ t0.toNat ∨ 115 ≤ t1.toNat ∨ 115 ≤ t2.toNat ∨ 115 ≤ t3.toNat) →
        t = { s with power := t.power, clocks := t.clocks, agenda := .thermalShutdown :: s.agenda }) ∧
      t.power.tmax.toNat = max t0.toNat (max t1.toNat (max t2.toNat t3.toNat)) ∧ t.power.plim = s.power.plim ∧
      (∀ n ∈ t.power.limits, n ≤ 32) ∧ t.power.limits.length = 4 ∧
      (100 < t0.toNat → 0 < s.power.limits.getD 0 0 → t.power.limits.getD 0 0 < s.power.limits.getD 0 0) ∧
      ∀ p < 184, (getClock t p).steps ≤ t.power.limits.getD (p / 46) 32) ∧
  (∀ s : State, ∃ t, exec .thermalShutdown s = .next t ∧ t.power.off = true ∧ t.fw.running = false ∧ groups t = [] ∧ t.tbase.inrota = false ∧
    t.mem = [] ∧ ∀ c, (getCtx t c).live = false) ∧
  (∀ (s : State) (r : Nat), r < 6 → ∃ t, exec (.runnerRestart r) s = .next t ∧ t = { s with fw := { s.fw with runners := t.fw.runners } } ∧
    Sparse.get 0 t.fw.runners r = Sparse.get 0 s.fw.runners r + 1)

/-- R15, R347, R350, R386, R414, R426 to R429: a warm reset destroys every context and group and leaves the rota, keeps the rollback counter, the image
and the reference delay, and loses no entry of the repair store; the steward registers the management queue again; a watchdog expiry of the steward is
one; a cold reset starts everything anew but the fuses, the repair store, RETIRE and LIMIT, and boots copy A where the ROM accepts it, else copy B, else
nothing; a package that runs nothing takes an accepted image through the window.

R10, R15, R29, R350, R386, R407, R419, R423: what reset leaves.

The values that the spec does not give are the model's choices (log entries 1 and 75). -/
def Obligations.ResetAndBoot : Prop :=
  ((∀ (s : State) (banks : List (Nat × Nat)), ∃ t, exec (.warmReset banks) s = .next t ∧ groups t = [] ∧ (∀ c, (getCtx t c).live = false) ∧
    (∀ k, k ≠ mgmtQueue → getQueue t k = Queue.vacant) ∧ (s.mgmtRec = 0 → t.ctxs = [] ∧ t.queues = []) ∧
    t.gangs = [] ∧ t.teams = [] ∧ t.tbase.inrota = false ∧ t.tbase.join = false ∧ t.tbase.refdly = s.tbase.refdly ∧ t.rampUp = 0x08 ∧
    t.rampDn = 0x08 ∧ t.relayq = 0x0580 ∧ t.recovb = 0x14002710 ∧ t.fw.counter = s.fw.counter ∧ t.fw.image = s.fw.image ∧
    t.code = s.code ∧ s.repairs.length ≤ t.repairs.length) ∧
  (∀ s : State, exec .stewardWatchdogExpiry s = exec (.warmReset []) s) ∧
  (∀ (s : State) (a b : FwImage) (code : BitVec 8) (lgpod pkg : Nat), ∃ t, exec (.coldReset a b code lgpod pkg) s = .next t ∧ groups t = [] ∧
    t.mem = [] ∧ t.time = 0 ∧ (∀ p c, (getCore t p c).clk = 0) ∧ t.ctxs = [] ∧ t.daybook = [] ∧ t.repairs = s.repairs ∧ t.fw.counter = s.fw.counter ∧
    (∀ n, (getSource t n).limit = (getSource s n).limit ∧ ((getSource s n).retire = true → (getSource t n).retire = true)) ∧
    (romAccepts s.fw a = true → t.fw.running = true ∧ t.fw.image = some a) ∧
    (romAccepts s.fw a = false → romAccepts s.fw b = true → t.fw.running = true ∧ t.fw.image = some b) ∧
    (romAccepts s.fw a = false → romAccepts s.fw b = false → t.fw.running = false ∧ t.fw.image = none) ∧
    (5 ≤ lgpod → lgpod ≤ 10 → pkg < 2 ^ lgpod → t.lgpod = lgpod ∧ t.pkg = pkg)) ∧
  (∀ (s : State) (k : ImageChecks) (i : FwImage), i = { header := windowHeader s, checks := k } →
    (s.fw.running = false → s.power.off = false → romAccepts s.fw i = true → 5632 + imageLength i ≤ 33554432 →
      exec (.recoveryImage k) s = .next { s with fw := bootImage i s.fw }) ∧
    (s.fw.running = true ∨ s.power.off = true ∨ romAccepts s.fw i = false ∨ 33554432 < 5632 + imageLength i → Nothing (.recoveryImage k) s)) ∧
  (∀ (f : Firmware) (i : FwImage), imageSecver i < f.counter → romAccepts f i = false)) ∧
  (groups State.reset = [] ∧ State.reset.time = 0 ∧ (∀ p c, (getCore State.reset p c).clk = 0) ∧ State.reset.mem = [] ∧ State.reset.ctxs = [] ∧
  State.reset.rampUp = 0x08 ∧ State.reset.rampDn = 0x08 ∧ State.reset.relayq = 0x0580 ∧ State.reset.recovb = 0x14002710 ∧
  State.reset.tbase.inrota = false ∧ State.reset.tbase.join = false ∧ State.reset.power.off = false ∧ State.reset.daybook = [] ∧
  State.reset.repairs = [] ∧ State.reset.fw.running = false ∧ (∀ n, getSource State.reset n = Source.start) ∧ (∀ p, getPort State.reset p = Port.start) ∧
  Source.start.limit = 0xFE0C ∧ Source.start.eol = 0xFFFFFFFF)

/-! ### The whole machine -/

/-- No instruction and no event stops the machine, from any state: each ends in a next state, the entry of an exception or of an abort among
them (R47, R77, R397, R404), so that a run of any length goes on.

That every instruction has an effect is the model's claim about the whole table (log entry 5 for what a step is). -/
def Obligations.EveryStepCompletes : Prop :=
  (∀ (i : Instr) (s : State), ∃ t, exec i s = .next t) ∧ (∀ s : State, stepSafe s) ∧ ∀ (n : Nat) (s : State), runSafe n s
end

