-- ==== Sys2Proof/Laws/Sparse.lean ====
section
/-! SUPPORT. Sparse maps and memory: what a read gives after a write, and that every write keeps the canonical form. -/

namespace Sys2Proof.Machine

/-! ### Sparse maps -/

theorem Sparse.get_erase {α : Type} (d : α) (k j : Nat) : ∀ l : List (Nat × α),
    Sparse.get d (Sparse.erase k l) j = if j = k then d else Sparse.get d l j
  | [] => by simp [Sparse.erase, Sparse.get]
  | (a, v) :: l => by
    have ih := Sparse.get_erase d k j l
    simp only [Sparse.erase, Sparse.get]
    split <;> split <;> simp_all [Sparse.get]
    omega

theorem Sparse.get_insert {α : Type} (d : α) (k j : Nat) (v : α) : ∀ l : List (Nat × α), (∀ e ∈ l, e.1 ≠ k) →
    Sparse.get d (Sparse.insert k v l) j = if j = k then v else Sparse.get d l j
  | [], _ => by simp [Sparse.insert, Sparse.get, eq_comm]
  | (a, u) :: l, h => by
    have ha : a ≠ k := h (a, u) (by simp)
    have ih := Sparse.get_insert d k j v l (fun e he => h e (by simp [he]))
    simp only [Sparse.insert]
    split
    · simp [Sparse.get, eq_comm]
    · simp only [Sparse.get]
      split
      · rw [if_neg (by omega)]
      · exact ih

theorem Sparse.erase_ne {α : Type} (k : Nat) : ∀ (l : List (Nat × α)), ∀ e ∈ Sparse.erase k l, e.1 ≠ k
  | [], e, h => by simp [Sparse.erase] at h
  | (a, v) :: l, e, h => by
    have ih := Sparse.erase_ne k l e
    simp only [Sparse.erase] at h
    split at h
    · exact ih h
    · rcases List.mem_cons.1 h with rfl | h
      · assumption
      · exact ih h

/-- A read after a write: the value at the key written, the old one at every other. -/
@[simp] theorem Sparse.get_set {α : Type} [DecidableEq α] (d v : α) (l : List (Nat × α)) (k j : Nat) :
    Sparse.get d (Sparse.set d l k v) j = if j = k then v else Sparse.get d l j := by
  unfold Sparse.set
  split
  · subst_vars; rw [Sparse.get_erase]
  · rw [Sparse.get_insert d k j v _ (Sparse.erase_ne k l), Sparse.get_erase]
    split <;> rfl

theorem Sparse.get_nil {α : Type} (d : α) (k : Nat) : Sparse.get d [] k = d := rfl

/-! ### The canonical form -/

theorem Memory.wf_erase (k : Nat) : ∀ m : List Host.Cell, Memory.wf m = true → Memory.wf (Sparse.erase k m) = true
  | [], _ => rfl
  | c :: m, h => by
    simp only [Memory.wf, Bool.and_eq_true] at h
    have ih := Memory.wf_erase k m h.2
    simp only [Sparse.erase]
    split
    · exact ih
    · simp only [Memory.wf, Bool.and_eq_true]
      refine ⟨⟨h.1.1, ?_⟩, ih⟩
      have sub : ∀ l : List Host.Cell, ∀ e ∈ Sparse.erase k l, e ∈ l := by
        intro l
        induction l with
        | nil => simp [Sparse.erase]
        | cons d l ihl =>
          intro e he
          simp only [Sparse.erase] at he
          split at he
          · exact List.mem_cons_of_mem _ (ihl e he)
          · rcases List.mem_cons.1 he with rfl | he
            · simp
            · exact List.mem_cons_of_mem _ (ihl e he)
      simp only [List.all_eq_true] at h ⊢
      exact fun e he => h.1.2 e (sub m e he)

theorem Memory.wf_insert (k : Nat) (v : Byte) (hv : v ≠ unwritten) : ∀ m : List Host.Cell, Memory.wf m = true → (∀ e ∈ m, e.1 ≠ k) →
    Memory.wf (Sparse.insert k v m) = true ∧ ∀ e ∈ Sparse.insert k v m, e.1 = k ∨ e ∈ m
  | [], _, _ => by simp [Sparse.insert, Memory.wf, hv]
  | c :: m, h, hk => by
    have h0 := h
    simp only [Memory.wf, Bool.and_eq_true, List.all_eq_true, decide_eq_true_eq] at h
    have ih := Memory.wf_insert k v hv m h.2 (fun e he => hk e (by simp [he]))
    have hc := hk c (by simp)
    simp only [Sparse.insert]
    split
    · rename_i hlt
      refine ⟨?_, ?_⟩
      · simp only [Memory.wf, Bool.and_eq_true, List.all_eq_true, decide_eq_true_eq, bne_iff_ne, ne_eq]
        refine ⟨⟨hv, ?_⟩, by simpa using h⟩
        intro e he
        rcases List.mem_cons.1 he with rfl | he
        · exact hlt
        · have := h.1.2 e he; omega
      · intro e he
        rcases List.mem_cons.1 he with rfl | he
        · exact .inl rfl
        · exact .inr he
    · rename_i hge
      refine ⟨?_, ?_⟩
      · simp only [Memory.wf, Bool.and_eq_true, List.all_eq_true, decide_eq_true_eq]
        refine ⟨⟨h.1.1, ?_⟩, ih.1⟩
        intro e he
        rcases ih.2 e he with he | he
        · omega
        · exact h.1.2 e he
      · intro e he
        rcases List.mem_cons.1 he with rfl | he
        · exact .inr (by simp)
        · rcases ih.2 e he with he | he
          · exact .inl he
          · exact .inr (by simp [he])

/-- The write of one byte keeps the canonical form. -/
theorem Memory.wf_set (m : List Host.Cell) (k : Nat) (v : Byte) (h : Memory.wf m = true) :
    Memory.wf (Sparse.set unwritten m k v) = true := by
  unfold Sparse.set
  split
  · exact Memory.wf_erase k m h
  · exact (Memory.wf_insert k v (by assumption) _ (Memory.wf_erase k m h) (Sparse.erase_ne k m)).1

/-- The write of a list of bytes keeps the canonical form. -/
theorem Memory.wf_writeCells (bs : List Byte) : ∀ (m : List Host.Cell) (a : Nat), Memory.wf m = true → Memory.wf (writeCells m a bs) = true := by
  induction bs with
  | nil => exact fun m a h => h
  | cons b bs ih => exact fun m a h => ih _ _ (Memory.wf_set m a b h)

/-- Reset memory has the canonical form. -/
theorem Memory.wf_reset : Memory.wf State.reset.mem = true ∧ Memory.wf State.reset.hostMem = true := ⟨rfl, rfl⟩

/-! ### Bytes -/

/-- A read after a write of bytes: the bytes written at their addresses, the old ones elsewhere. -/
@[simp] theorem get_writeCells (bs : List Byte) : ∀ (m : List Host.Cell) (a j : Nat),
    Sparse.get unwritten (writeCells m a bs) j =
      if a ≤ j ∧ j < a + bs.length then bs.getD (j - a) unwritten else Sparse.get unwritten m j := by
  induction bs with
  | nil => intro m a j; simp only [writeCells, List.length_nil]; rw [if_neg (by omega)]
  | cons b bs ih =>
    intro m a j
    simp only [writeCells, ih, Sparse.get_set, List.length_cons]
    by_cases h : j = a
    · subst h; rw [if_neg (by omega), if_pos rfl, if_pos (by omega)]; simp
    · by_cases h1 : a + 1 ≤ j ∧ j < a + 1 + bs.length
      · have e : j - a = (j - (a + 1)) + 1 := by omega
        rw [if_pos h1, if_pos (by omega), e, List.getD_cons_succ]
      · rw [if_neg h1, if_neg h, if_neg (by omega)]

theorem bytesLE_length (n v : Nat) : (bytesLE n v).length = n := by
  induction n generalizing v with
  | zero => rfl
  | succ n ih => simp [bytesLE, ih]

/-- Device memory after a write at a place of it. -/
theorem readByte_writeList_dev (s : State) (tm tm' pa a i : Nat) (bs : List Byte) :
    readByte (writeList tm (.dev pa) bs s) tm' (.dev a) i =
      if pa ≤ a + i ∧ a + i < pa + bs.length then bs.getD (a + i - pa) unwritten else readByte s tm' (.dev a) i := by
  simp [writeList, readByte]

/-- What every write of memory does to the canonical form of device memory. -/
theorem writeList_wf (tm : Nat) (l : Loc) (bs : List Byte) (s : State) (h : Memory.wf s.mem = true) :
    Memory.wf (writeList tm l bs s).mem = true := by
  cases l with
  | dev pa => exact Memory.wf_writeCells bs _ _ h
  | scr f off => exact h
  | host ha => exact h
  | pod p o => exact h

/-- What every write of memory does to the canonical form of the host's memory. -/
theorem writeList_hostWf (tm : Nat) (l : Loc) (bs : List Byte) (s : State) (h : Memory.wf s.hostMem = true) :
    Memory.wf (writeList tm l bs s).hostMem = true := by
  cases l with
  | host ha => exact Memory.wf_writeCells bs _ _ h
  | dev pa => exact h
  | scr f off => exact h
  | pod p o => exact h

end Sys2Proof.Machine
end

