-- ==== Sys2Proof/Laws/Caches.lean ====
section
/-! SUPPORT. What the operations on the caches can do (R239): they change the cores' L1 and the host lines of L2, and nothing else. -/

namespace Sys2Proof.Machine

/-- A fold of updates of the cores changes only the cores. -/
theorem foldl_cores {α : Type} (f : State → α → Sparse Core) (l : List α) : ∀ s : State,
    l.foldl (fun s e => { s with cores := f s e }) s = { s with cores := (l.foldl (fun s e => { s with cores := f s e }) s).cores } := by
  induction l with
  | nil => intro s; rfl
  | cons a l ih => intro s; rw [List.foldl_cons, ih]

/-- A change of one L1 changes only the cores. -/
theorem modL1_cores (part core : Nat) (f : Core → Core) (s : State) : modL1 part core f s = { s with cores := (modL1 part core f s).cores } := rfl

/-- A recall changes only the cores. -/
theorem recallLines_cores (but : Option Nat) (lo hi : Nat) (s : State) : recallLines but lo hi s = { s with cores := (recallLines but lo hi s).cores } :=
  foldl_cores _ _ s

/-- A service at the home slices changes only the cores. -/
theorem homeServes_cores (loc : Loc) (n : Nat) (s : State) : homeServes loc n s = { s with cores := (homeServes loc n s).cores } := by
  cases loc with
  | dev pa => exact recallLines_cores _ _ _ s
  | scr f o => rfl
  | host a => rfl
  | pod p o => rfl

/-- An acquire changes only the cores and the host lines. -/
theorem acquireAt_caches (scope : Nat) (g : Group) (s : State) :
    acquireAt scope g s = { s with cores := (acquireAt scope g s).cores, l2host := (acquireAt scope g s).l2host } := by
  unfold acquireAt
  by_cases h : 2 ≤ scope <;> by_cases k : scope = 4 <;> simp only [h, k, if_true, if_false] <;> rfl

/-- An acquire at device scope leaves a core the lines that it owns (R163). -/
theorem acquireAt_core (scope : Nat) (g : Group) (s : State) (h : 2 ≤ scope) :
    getCore (acquireAt scope g s) g.part g.core = keepLines (fun _ x => x.owned) (getCore s g.part g.core) := by
  unfold acquireAt
  by_cases k : scope = 4 <;> simp [h, k, modL1, setCore, getCore]

/-- A change of the L1 of the cores of partitions changes only the cores. -/
theorem mapL1_cores (p : BitVec 4) (f : Core → Core) (s : State) : mapL1 p f s = { s with cores := (mapL1 p f s).cores } := foldl_cores _ _ s

/-- Where only the cores change, and then the host lines, nothing else does. -/
theorem caches_of_cores {s t : State} (l : List HostLine) (h : t = { s with cores := t.cores }) :
    { t with l2host := l } = { s with cores := t.cores, l2host := l } := by rw [h]

/-- What a launch acquires changes only the cores and the host lines. -/
theorem launchAcquire_caches (r : LaunchRec) (hs : List Listed) (s : State) :
    launchAcquire r hs s = { s with cores := (launchAcquire r hs s).cores, l2host := (launchAcquire r hs s).l2host } := by
  unfold launchAcquire
  split
  · split <;> split
    · exact caches_of_cores _ (mapL1_cores _ _ s)
    · exact caches_of_cores (mapL1 r.parts _ s).l2host (mapL1_cores r.parts _ s)
    · rfl
    · rfl
  · exact caches_of_cores _ (mapL1_cores _ _ s)

/-- What a gang's completion releases changes only the cores. -/
theorem launchRelease_cores (gang : Nat) (r : LaunchRec) (hs : List Listed) (s : State) :
    launchRelease gang r hs s = { s with cores := (launchRelease gang r hs s).cores } := foldl_cores _ _ s

end Sys2Proof.Machine
end

