-- ==== Sys2Proof/Laws/PerInstr.lean ====
section
/-! SUPPORT. One lemma for each constructor: the word of an instruction has an assigned primary opcode (R74, R79), an event has no word, and only
an illegal word has an opcode that is not assigned. -/

namespace Sys2Proof.Laws.Opcode

/-- The upper bits of two strings of bits are the upper bits of the first. -/
theorem top_append {n m : Nat} (k : Nat) (x : BitVec n) (y : BitVec m) (h : m ≤ k) :
    (x ++ y).extractLsb' k 8 = x.extractLsb' (k - m) 8 := by
  apply BitVec.eq_of_getLsbD_eq
  intro i hi
  simp only [BitVec.getLsbD_extractLsb', BitVec.getLsbD_append, hi, decide_true, Bool.true_and]
  rw [if_neg (by omega), show k + i - m = k - m + i by omega]

/-- What the opcode of an instruction's word is. -/
def Statement (i : Instr) : Prop :=
  ∀ w, encode i = some w → wellFormed i = true → assignedOpcode (w.extractLsb' 24 8).toNat = true ∨ i = .illegalWord w

theorem event {i : Instr} (h : encode i = none) : Statement i := fun w hw _ => by rw [h] at hw; cases hw

theorem nop : Statement (.nop) :=
  fun _ h _ => .inl (by cases h; simp (disch := decide) only [top_append]; decide)
theorem br : ∀ n p o, Statement (.br n p o) :=
  fun _ _ _ => fun _ h _ => .inl (by cases h; simp (disch := decide) only [top_append]; decide)
theorem call : ∀ o, Statement (.call o) :=
  fun _ => fun _ h _ => .inl (by cases h; simp (disch := decide) only [top_append]; decide)
theorem jmpr : ∀ a, Statement (.jmpr a) :=
  fun _ => fun _ h _ => .inl (by cases h; simp (disch := decide) only [top_append]; decide)
theorem callr : ∀ a, Statement (.callr a) :=
  fun _ => fun _ h _ => .inl (by cases h; simp (disch := decide) only [top_append]; decide)
theorem exit : Statement (.exit) :=
  fun _ h _ => .inl (by cases h; simp (disch := decide) only [top_append]; decide)
theorem safe : ∀ i0, Statement (.safe i0) :=
  fun _ => fun _ h _ => .inl (by cases h; simp (disch := decide) only [top_append]; decide)
theorem idem : ∀ i0, Statement (.idem i0) :=
  fun _ => fun _ h _ => .inl (by cases h; simp (disch := decide) only [top_append]; decide)
theorem sigck : ∀ i0, Statement (.sigck i0) :=
  fun _ => fun _ h _ => .inl (by cases h; simp (disch := decide) only [top_append]; decide)
theorem trap : ∀ i0, Statement (.trap i0) :=
  fun _ => fun _ h _ => .inl (by cases h; simp (disch := decide) only [top_append]; decide)
theorem brk : ∀ c, Statement (.brk c) :=
  fun _ => fun _ h _ => .inl (by cases h; simp (disch := decide) only [top_append]; decide)
theorem rbegin : ∀ o, Statement (.rbegin o) :=
  fun _ => fun _ h _ => .inl (by cases h; simp (disch := decide) only [top_append]; decide)
theorem rcommit : Statement (.rcommit) :=
  fun _ h _ => .inl (by cases h; simp (disch := decide) only [top_append]; decide)
theorem cyld : ∀ o, Statement (.cyld o) :=
  fun _ => fun _ h _ => .inl (by cases h; simp (disch := decide) only [top_append]; decide)
theorem waitc : ∀ l s0 c t, Statement (.waitc l s0 c t) :=
  fun _ _ _ _ => fun _ h _ => .inl (by cases h; simp (disch := decide) only [top_append]; decide)
theorem gdiv : ∀ d, Statement (.gdiv d) :=
  fun _ => fun _ h _ => .inl (by cases h; simp (disch := decide) only [top_append]; decide)
theorem gfuse : ∀ d c, Statement (.gfuse d c) :=
  fun _ _ => fun _ h _ => .inl (by cases h; simp (disch := decide) only [top_append]; decide)
theorem kmask : ∀ n p, Statement (.kmask n p) :=
  fun _ _ => fun _ h _ => .inl (by cases h; simp (disch := decide) only [top_append]; decide)
theorem setm : ∀ s0 v, Statement (.setm s0 v) :=
  fun _ _ => fun _ h _ => .inl (by cases h; simp (disch := decide) only [top_append]; decide)
theorem getm : ∀ d, Statement (.getm d) :=
  fun _ => fun _ h _ => .inl (by cases h; simp (disch := decide) only [top_append]; decide)
theorem xset : ∀ a i0, Statement (.xset a i0) :=
  fun _ _ => fun _ h _ => .inl (by cases h; simp (disch := decide) only [top_append]; decide)
theorem txl : ∀ a t, Statement (.txl a t) :=
  fun _ _ => fun _ h _ => .inl (by cases h; simp (disch := decide) only [top_append]; decide)
theorem txi : ∀ t, Statement (.txi t) :=
  fun _ => fun _ h _ => .inl (by cases h; simp (disch := decide) only [top_append]; decide)
theorem bari : ∀ a b, Statement (.bari a b) :=
  fun _ _ => fun _ h _ => .inl (by cases h; simp (disch := decide) only [top_append]; decide)
theorem bara : ∀ d a, Statement (.bara d a) :=
  fun _ _ => fun _ h _ => .inl (by cases h; simp (disch := decide) only [top_append]; decide)
theorem barw : ∀ a b, Statement (.barw a b) :=
  fun _ _ => fun _ h _ => .inl (by cases h; simp (disch := decide) only [top_append]; decide)
theorem sleep : ∀ i0, Statement (.sleep i0) :=
  fun _ => fun _ h _ => .inl (by cases h; simp (disch := decide) only [top_append]; decide)
theorem elect : ∀ p, Statement (.elect p) :=
  fun _ => fun _ h _ => .inl (by cases h; simp (disch := decide) only [top_append]; decide)
theorem spawn : ∀ a b, Statement (.spawn a b) :=
  fun _ _ => fun _ h _ => .inl (by cases h; simp (disch := decide) only [top_append]; decide)
theorem fork : ∀ a, Statement (.fork a) :=
  fun _ => fun _ h _ => .inl (by cases h; simp (disch := decide) only [top_append]; decide)
theorem enq : ∀ a b, Statement (.enq a b) :=
  fun _ _ => fun _ h _ => .inl (by cases h; simp (disch := decide) only [top_append]; decide)
theorem add : ∀ d a b, Statement (.add d a b) :=
  fun _ _ _ => fun _ h _ => .inl (by cases h; simp (disch := decide) only [top_append]; decide)
theorem sub : ∀ d a b, Statement (.sub d a b) :=
  fun _ _ _ => fun _ h _ => .inl (by cases h; simp (disch := decide) only [top_append]; decide)
theorem mul : ∀ d a b, Statement (.mul d a b) :=
  fun _ _ _ => fun _ h _ => .inl (by cases h; simp (disch := decide) only [top_append]; decide)
theorem mulh : ∀ d a b, Statement (.mulh d a b) :=
  fun _ _ _ => fun _ h _ => .inl (by cases h; simp (disch := decide) only [top_append]; decide)
theorem mad : ∀ d a b, Statement (.mad d a b) :=
  fun _ _ _ => fun _ h _ => .inl (by cases h; simp (disch := decide) only [top_append]; decide)
theorem div : ∀ d a b, Statement (.div d a b) :=
  fun _ _ _ => fun _ h _ => .inl (by cases h; simp (disch := decide) only [top_append]; decide)
theorem rem : ∀ d a b, Statement (.rem d a b) :=
  fun _ _ _ => fun _ h _ => .inl (by cases h; simp (disch := decide) only [top_append]; decide)
theorem min : ∀ d a b, Statement (.min d a b) :=
  fun _ _ _ => fun _ h _ => .inl (by cases h; simp (disch := decide) only [top_append]; decide)
theorem max : ∀ d a b, Statement (.max d a b) :=
  fun _ _ _ => fun _ h _ => .inl (by cases h; simp (disch := decide) only [top_append]; decide)
theorem absd : ∀ d a b, Statement (.absd d a b) :=
  fun _ _ _ => fun _ h _ => .inl (by cases h; simp (disch := decide) only [top_append]; decide)
theorem and : ∀ d a b, Statement (.and d a b) :=
  fun _ _ _ => fun _ h _ => .inl (by cases h; simp (disch := decide) only [top_append]; decide)
theorem or : ∀ d a b, Statement (.or d a b) :=
  fun _ _ _ => fun _ h _ => .inl (by cases h; simp (disch := decide) only [top_append]; decide)
theorem xor : ∀ d a b, Statement (.xor d a b) :=
  fun _ _ _ => fun _ h _ => .inl (by cases h; simp (disch := decide) only [top_append]; decide)
theorem andn : ∀ d a b, Statement (.andn d a b) :=
  fun _ _ _ => fun _ h _ => .inl (by cases h; simp (disch := decide) only [top_append]; decide)
theorem shl : ∀ d a b, Statement (.shl d a b) :=
  fun _ _ _ => fun _ h _ => .inl (by cases h; simp (disch := decide) only [top_append]; decide)
theorem shr : ∀ d a b, Statement (.shr d a b) :=
  fun _ _ _ => fun _ h _ => .inl (by cases h; simp (disch := decide) only [top_append]; decide)
theorem rol : ∀ d a b, Statement (.rol d a b) :=
  fun _ _ _ => fun _ h _ => .inl (by cases h; simp (disch := decide) only [top_append]; decide)
theorem bfx : ∀ d a b, Statement (.bfx d a b) :=
  fun _ _ _ => fun _ h _ => .inl (by cases h; simp (disch := decide) only [top_append]; decide)
theorem bfi : ∀ d a b, Statement (.bfi d a b) :=
  fun _ _ _ => fun _ h _ => .inl (by cases h; simp (disch := decide) only [top_append]; decide)
theorem sel : ∀ d a b, Statement (.sel d a b) :=
  fun _ _ _ => fun _ h _ => .inl (by cases h; simp (disch := decide) only [top_append]; decide)
theorem cmp : ∀ c p a b, Statement (.cmp c p a b) :=
  fun _ _ _ _ => fun _ h _ => .inl (by cases h; simp (disch := decide) only [top_append]; decide)
theorem plog : ∀ f p q r, Statement (.plog f p q r) :=
  fun _ _ _ _ => fun _ h _ => .inl (by cases h; simp (disch := decide) only [top_append]; decide)
theorem li : ∀ d i0, Statement (.li d i0) :=
  fun _ _ => fun _ h _ => .inl (by cases h; simp (disch := decide) only [top_append]; decide)
theorem lih : ∀ d i0, Statement (.lih d i0) :=
  fun _ _ => fun _ h _ => .inl (by cases h; simp (disch := decide) only [top_append]; decide)
theorem addi : ∀ d a i0, Statement (.addi d a i0) :=
  fun _ _ _ => fun _ h _ => .inl (by cases h; simp (disch := decide) only [top_append]; decide)
theorem shli : ∀ d a i0, Statement (.shli d a i0) :=
  fun _ _ _ => fun _ h _ => .inl (by cases h; simp (disch := decide) only [top_append]; decide)
theorem shri : ∀ d a i0, Statement (.shri d a i0) :=
  fun _ _ _ => fun _ h _ => .inl (by cases h; simp (disch := decide) only [top_append]; decide)
theorem andi : ∀ d a i0, Statement (.andi d a i0) :=
  fun _ _ _ => fun _ h _ => .inl (by cases h; simp (disch := decide) only [top_append]; decide)
theorem popc : ∀ d a, Statement (.popc d a) :=
  fun _ _ => fun _ h _ => .inl (by cases h; simp (disch := decide) only [top_append]; decide)
theorem clz : ∀ d a, Statement (.clz d a) :=
  fun _ _ => fun _ h _ => .inl (by cases h; simp (disch := decide) only [top_append]; decide)
theorem brev : ∀ d a, Statement (.brev d a) :=
  fun _ _ => fun _ h _ => .inl (by cases h; simp (disch := decide) only [top_append]; decide)
theorem not : ∀ d a, Statement (.not d a) :=
  fun _ _ => fun _ h _ => .inl (by cases h; simp (disch := decide) only [top_append]; decide)
theorem neg : ∀ d a, Statement (.neg d a) :=
  fun _ _ => fun _ h _ => .inl (by cases h; simp (disch := decide) only [top_append]; decide)
theorem abs : ∀ d a, Statement (.abs d a) :=
  fun _ _ => fun _ h _ => .inl (by cases h; simp (disch := decide) only [top_append]; decide)
theorem mov : ∀ d a, Statement (.mov d a) :=
  fun _ _ => fun _ h _ => .inl (by cases h; simp (disch := decide) only [top_append]; decide)
theorem movpToRegister : ∀ d p, Statement (.movpToRegister d p) :=
  fun _ _ => fun _ h _ => .inl (by cases h; simp (disch := decide) only [top_append]; decide)
theorem movpToPredicate : ∀ p a, Statement (.movpToPredicate p a) :=
  fun _ _ => fun _ h _ => .inl (by cases h; simp (disch := decide) only [top_append]; decide)
theorem fadd : ∀ d a b, Statement (.fadd d a b) :=
  fun _ _ _ => fun _ h _ => .inl (by cases h; simp (disch := decide) only [top_append]; decide)
theorem fsub : ∀ d a b, Statement (.fsub d a b) :=
  fun _ _ _ => fun _ h _ => .inl (by cases h; simp (disch := decide) only [top_append]; decide)
theorem fmul : ∀ d a b, Statement (.fmul d a b) :=
  fun _ _ _ => fun _ h _ => .inl (by cases h; simp (disch := decide) only [top_append]; decide)
theorem fma : ∀ d a b, Statement (.fma d a b) :=
  fun _ _ _ => fun _ h _ => .inl (by cases h; simp (disch := decide) only [top_append]; decide)
theorem fms : ∀ d a b, Statement (.fms d a b) :=
  fun _ _ _ => fun _ h _ => .inl (by cases h; simp (disch := decide) only [top_append]; decide)
theorem fmin : ∀ d a b, Statement (.fmin d a b) :=
  fun _ _ _ => fun _ h _ => .inl (by cases h; simp (disch := decide) only [top_append]; decide)
theorem fmax : ∀ d a b, Statement (.fmax d a b) :=
  fun _ _ _ => fun _ h _ => .inl (by cases h; simp (disch := decide) only [top_append]; decide)
theorem fdiv : ∀ d a b, Statement (.fdiv d a b) :=
  fun _ _ _ => fun _ h _ => .inl (by cases h; simp (disch := decide) only [top_append]; decide)
theorem fsqrt : ∀ d a, Statement (.fsqrt d a) :=
  fun _ _ => fun _ h _ => .inl (by cases h; simp (disch := decide) only [top_append]; decide)
theorem frcp : ∀ d a, Statement (.frcp d a) :=
  fun _ _ => fun _ h _ => .inl (by cases h; simp (disch := decide) only [top_append]; decide)
theorem frsq : ∀ d a, Statement (.frsq d a) :=
  fun _ _ => fun _ h _ => .inl (by cases h; simp (disch := decide) only [top_append]; decide)
theorem fex2 : ∀ d a, Statement (.fex2 d a) :=
  fun _ _ => fun _ h _ => .inl (by cases h; simp (disch := decide) only [top_append]; decide)
theorem flg2 : ∀ d a, Statement (.flg2 d a) :=
  fun _ _ => fun _ h _ => .inl (by cases h; simp (disch := decide) only [top_append]; decide)
theorem fsin : ∀ d a, Statement (.fsin d a) :=
  fun _ _ => fun _ h _ => .inl (by cases h; simp (disch := decide) only [top_append]; decide)
theorem fcos : ∀ d a, Statement (.fcos d a) :=
  fun _ _ => fun _ h _ => .inl (by cases h; simp (disch := decide) only [top_append]; decide)
theorem fabs : ∀ d a, Statement (.fabs d a) :=
  fun _ _ => fun _ h _ => .inl (by cases h; simp (disch := decide) only [top_append]; decide)
theorem fneg : ∀ d a, Statement (.fneg d a) :=
  fun _ _ => fun _ h _ => .inl (by cases h; simp (disch := decide) only [top_append]; decide)
theorem frnd : ∀ d a, Statement (.frnd d a) :=
  fun _ _ => fun _ h _ => .inl (by cases h; simp (disch := decide) only [top_append]; decide)
theorem fcls : ∀ d a, Statement (.fcls d a) :=
  fun _ _ => fun _ h _ => .inl (by cases h; simp (disch := decide) only [top_append]; decide)
theorem cvt : ∀ d a x, Statement (.cvt d a x) :=
  fun _ _ _ => fun _ h _ => .inl (by cases h; simp (disch := decide) only [top_append]; decide)
theorem dot4 : ∀ d a b, Statement (.dot4 d a b) :=
  fun _ _ _ => fun _ h _ => .inl (by cases h; simp (disch := decide) only [top_append]; decide)
theorem fscl : ∀ d a b, Statement (.fscl d a b) :=
  fun _ _ _ => fun _ h _ => .inl (by cases h; simp (disch := decide) only [top_append]; decide)
theorem qnt8 : ∀ d a b, Statement (.qnt8 d a b) :=
  fun _ _ _ => fun _ h _ => .inl (by cases h; simp (disch := decide) only [top_append]; decide)
theorem dqn8 : ∀ d a b, Statement (.dqn8 d a b) :=
  fun _ _ _ => fun _ h _ => .inl (by cases h; simp (disch := decide) only [top_append]; decide)
theorem hadm : ∀ d a b, Statement (.hadm d a b) :=
  fun _ _ _ => fun _ h _ => .inl (by cases h; simp (disch := decide) only [top_append]; decide)
theorem shfl : ∀ d a b, Statement (.shfl d a b) :=
  fun _ _ _ => fun _ h _ => .inl (by cases h; simp (disch := decide) only [top_append]; decide)
theorem shfx : ∀ d a b, Statement (.shfx d a b) :=
  fun _ _ _ => fun _ h _ => .inl (by cases h; simp (disch := decide) only [top_append]; decide)
theorem qxch : ∀ d a s0, Statement (.qxch d a s0) :=
  fun _ _ _ => fun _ h _ => .inl (by cases h; simp (disch := decide) only [top_append]; decide)
theorem bcst : ∀ d a b, Statement (.bcst d a b) :=
  fun _ _ _ => fun _ h _ => .inl (by cases h; simp (disch := decide) only [top_append]; decide)
theorem ballot : ∀ d p, Statement (.ballot d p) :=
  fun _ _ => fun _ h _ => .inl (by cases h; simp (disch := decide) only [top_append]; decide)
theorem vote : ∀ k p q, Statement (.vote k p q) :=
  fun _ _ _ => fun _ h _ => .inl (by cases h; simp (disch := decide) only [top_append]; decide)
theorem gred : ∀ d a x, Statement (.gred d a x) :=
  fun _ _ _ => fun _ h _ => .inl (by cases h; simp (disch := decide) only [top_append]; decide)
theorem gscan : ∀ d a e x, Statement (.gscan d a e x) :=
  fun _ _ _ _ => fun _ h _ => .inl (by cases h; simp (disch := decide) only [top_append]; decide)
theorem ktop : ∀ d a b, Statement (.ktop d a b) :=
  fun _ _ _ => fun _ h _ => .inl (by cases h; simp (disch := decide) only [top_append]; decide)
theorem matchLanes : ∀ d a, Statement (.matchLanes d a) :=
  fun _ _ => fun _ h _ => .inl (by cases h; simp (disch := decide) only [top_append]; decide)
theorem ld1 : ∀ d a t i0, Statement (.ld1 d a t i0) :=
  fun _ _ _ _ => fun _ h _ => .inl (by cases h; simp (disch := decide) only [top_append]; decide)
theorem ld2 : ∀ d a t i0, Statement (.ld2 d a t i0) :=
  fun _ _ _ _ => fun _ h _ => .inl (by cases h; simp (disch := decide) only [top_append]; decide)
theorem ld4 : ∀ d a t i0, Statement (.ld4 d a t i0) :=
  fun _ _ _ _ => fun _ h _ => .inl (by cases h; simp (disch := decide) only [top_append]; decide)
theorem ld8 : ∀ d a t i0, Statement (.ld8 d a t i0) :=
  fun _ _ _ _ => fun _ h _ => .inl (by cases h; simp (disch := decide) only [top_append]; decide)
theorem ld16 : ∀ d a t i0, Statement (.ld16 d a t i0) :=
  fun _ _ _ _ => fun _ h _ => .inl (by cases h; simp (disch := decide) only [top_append]; decide)
theorem ld64 : ∀ d a t i0, Statement (.ld64 d a t i0) :=
  fun _ _ _ _ => fun _ h _ => .inl (by cases h; simp (disch := decide) only [top_append]; decide)
theorem ldaq : ∀ d a t i0, Statement (.ldaq d a t i0) :=
  fun _ _ _ _ => fun _ h _ => .inl (by cases h; simp (disch := decide) only [top_append]; decide)
theorem ldwt : ∀ d a t i0, Statement (.ldwt d a t i0) :=
  fun _ _ _ _ => fun _ h _ => .inl (by cases h; simp (disch := decide) only [top_append]; decide)
theorem ldcn : ∀ d a t i0, Statement (.ldcn d a t i0) :=
  fun _ _ _ _ => fun _ h _ => .inl (by cases h; simp (disch := decide) only [top_append]; decide)
theorem st1 : ∀ d a t i0, Statement (.st1 d a t i0) :=
  fun _ _ _ _ => fun _ h _ => .inl (by cases h; simp (disch := decide) only [top_append]; decide)
theorem st2 : ∀ d a t i0, Statement (.st2 d a t i0) :=
  fun _ _ _ _ => fun _ h _ => .inl (by cases h; simp (disch := decide) only [top_append]; decide)
theorem st4 : ∀ d a t i0, Statement (.st4 d a t i0) :=
  fun _ _ _ _ => fun _ h _ => .inl (by cases h; simp (disch := decide) only [top_append]; decide)
theorem st8 : ∀ d a t i0, Statement (.st8 d a t i0) :=
  fun _ _ _ _ => fun _ h _ => .inl (by cases h; simp (disch := decide) only [top_append]; decide)
theorem st16 : ∀ d a t i0, Statement (.st16 d a t i0) :=
  fun _ _ _ _ => fun _ h _ => .inl (by cases h; simp (disch := decide) only [top_append]; decide)
theorem st64 : ∀ d a t i0, Statement (.st64 d a t i0) :=
  fun _ _ _ _ => fun _ h _ => .inl (by cases h; simp (disch := decide) only [top_append]; decide)
theorem strl : ∀ d a t i0, Statement (.strl d a t i0) :=
  fun _ _ _ _ => fun _ h _ => .inl (by cases h; simp (disch := decide) only [top_append]; decide)
theorem stfl : ∀ d a t i0, Statement (.stfl d a t i0) :=
  fun _ _ _ _ => fun _ h _ => .inl (by cases h; simp (disch := decide) only [top_append]; decide)
theorem stfu : ∀ d a t i0, Statement (.stfu d a t i0) :=
  fun _ _ _ _ => fun _ h _ => .inl (by cases h; simp (disch := decide) only [top_append]; decide)
theorem fefull : ∀ a t i0, Statement (.fefull a t i0) :=
  fun _ _ _ => fun _ h _ => .inl (by cases h; simp (disch := decide) only [top_append]; decide)
theorem feempty : ∀ a t i0, Statement (.feempty a t i0) :=
  fun _ _ _ => fun _ h _ => .inl (by cases h; simp (disch := decide) only [top_append]; decide)
theorem fetest : ∀ p a t i0, Statement (.fetest p a t i0) :=
  fun _ _ _ _ => fun _ h _ => .inl (by cases h; simp (disch := decide) only [top_append]; decide)
theorem fence : ∀ k s0, Statement (.fence k s0) :=
  fun _ _ => fun _ h _ => .inl (by cases h; simp (disch := decide) only [top_append]; decide)
theorem aadd : ∀ d a t i0, Statement (.aadd d a t i0) :=
  fun _ _ _ _ => fun _ h _ => .inl (by cases h; simp (disch := decide) only [top_append]; decide)
theorem amin : ∀ d a t i0, Statement (.amin d a t i0) :=
  fun _ _ _ _ => fun _ h _ => .inl (by cases h; simp (disch := decide) only [top_append]; decide)
theorem amax : ∀ d a t i0, Statement (.amax d a t i0) :=
  fun _ _ _ _ => fun _ h _ => .inl (by cases h; simp (disch := decide) only [top_append]; decide)
theorem aand : ∀ d a t i0, Statement (.aand d a t i0) :=
  fun _ _ _ _ => fun _ h _ => .inl (by cases h; simp (disch := decide) only [top_append]; decide)
theorem aor : ∀ d a t i0, Statement (.aor d a t i0) :=
  fun _ _ _ _ => fun _ h _ => .inl (by cases h; simp (disch := decide) only [top_append]; decide)
theorem axor : ∀ d a t i0, Statement (.axor d a t i0) :=
  fun _ _ _ _ => fun _ h _ => .inl (by cases h; simp (disch := decide) only [top_append]; decide)
theorem aswp : ∀ d a t i0, Statement (.aswp d a t i0) :=
  fun _ _ _ _ => fun _ h _ => .inl (by cases h; simp (disch := decide) only [top_append]; decide)
theorem acas : ∀ d a t i0, Statement (.acas d a t i0) :=
  fun _ _ _ _ => fun _ h _ => .inl (by cases h; simp (disch := decide) only [top_append]; decide)
theorem ainc : ∀ d a t i0, Statement (.ainc d a t i0) :=
  fun _ _ _ _ => fun _ h _ => .inl (by cases h; simp (disch := decide) only [top_append]; decide)
theorem adec : ∀ d a t i0, Statement (.adec d a t i0) :=
  fun _ _ _ _ => fun _ h _ => .inl (by cases h; simp (disch := decide) only [top_append]; decide)
theorem xcp : ∀ d a b, Statement (.xcp d a b) :=
  fun _ _ _ => fun _ h _ => .inl (by cases h; simp (disch := decide) only [top_append]; decide)
theorem xfill : ∀ d a b, Statement (.xfill d a b) :=
  fun _ _ _ => fun _ h _ => .inl (by cases h; simp (disch := decide) only [top_append]; decide)
theorem xgath : ∀ d a b, Statement (.xgath d a b) :=
  fun _ _ _ => fun _ h _ => .inl (by cases h; simp (disch := decide) only [top_append]; decide)
theorem xpref : ∀ a b, Statement (.xpref a b) :=
  fun _ _ => fun _ h _ => .inl (by cases h; simp (disch := decide) only [top_append]; decide)
theorem popen : ∀ a, Statement (.popen a) :=
  fun _ => fun _ h _ => .inl (by cases h; simp (disch := decide) only [top_append]; decide)
theorem prel : ∀ d a t i0, Statement (.prel d a t i0) :=
  fun _ _ _ _ => fun _ h _ => .inl (by cases h; simp (disch := decide) only [top_append]; decide)
theorem pbar : ∀ a, Statement (.pbar a) :=
  fun _ => fun _ h _ => .inl (by cases h; simp (disch := decide) only [top_append]; decide)
theorem pdrain : Statement (.pdrain) :=
  fun _ h _ => .inl (by cases h; simp (disch := decide) only [top_append]; decide)
theorem tmm : ∀ d a b, Statement (.tmm d a b) :=
  fun _ _ _ => fun _ h _ => .inl (by cases h; simp (disch := decide) only [top_append]; decide)
theorem tmmr : ∀ d a b, Statement (.tmmr d a b) :=
  fun _ _ _ => fun _ h _ => .inl (by cases h; simp (disch := decide) only [top_append]; decide)
theorem tmmi : ∀ d a b, Statement (.tmmi d a b) :=
  fun _ _ _ => fun _ h _ => .inl (by cases h; simp (disch := decide) only [top_append]; decide)
theorem tmmir : ∀ d a b, Statement (.tmmir d a b) :=
  fun _ _ _ => fun _ h _ => .inl (by cases h; simp (disch := decide) only [top_append]; decide)
theorem tlda : ∀ d a, Statement (.tlda d a) :=
  fun _ _ => fun _ h _ => .inl (by cases h; simp (disch := decide) only [top_append]; decide)
theorem tsta : ∀ d a, Statement (.tsta d a) :=
  fun _ _ => fun _ h _ => .inl (by cases h; simp (disch := decide) only [top_append]; decide)
theorem tzra : ∀ t, Statement (.tzra t) :=
  fun _ => fun _ h _ => .inl (by cases h; simp (disch := decide) only [top_append]; decide)
theorem tcvt : ∀ d a b, Statement (.tcvt d a b) :=
  fun _ _ _ => fun _ h _ => .inl (by cases h; simp (disch := decide) only [top_append]; decide)
theorem tfen : ∀ d, Statement (.tfen d) :=
  fun _ => fun _ h _ => .inl (by cases h; simp (disch := decide) only [top_append]; decide)
theorem twt : ∀ a, Statement (.twt a) :=
  fun _ => fun _ h _ => .inl (by cases h; simp (disch := decide) only [top_append]; decide)
theorem acfg : ∀ d a, Statement (.acfg d a) :=
  fun _ _ => fun _ h _ => .inl (by cases h; simp (disch := decide) only [top_append]; decide)
theorem bid : ∀ d a b, Statement (.bid d a b) :=
  fun _ _ _ => fun _ h _ => .inl (by cases h; simp (disch := decide) only [top_append]; decide)
theorem aread : ∀ d a, Statement (.aread d a) :=
  fun _ _ => fun _ h _ => .inl (by cases h; simp (disch := decide) only [top_append]; decide)
theorem take : ∀ d a, Statement (.take d a) :=
  fun _ _ => fun _ h _ => .inl (by cases h; simp (disch := decide) only [top_append]; decide)
theorem srd : ∀ d n, Statement (.srd d n) :=
  fun _ _ => fun _ h _ => .inl (by cases h; simp (disch := decide) only [top_append]; decide)
theorem swr : ∀ d n, Statement (.swr d n) :=
  fun _ _ => fun _ h _ => .inl (by cases h; simp (disch := decide) only [top_append]; decide)
theorem rett : Statement (.rett) :=
  fun _ h _ => .inl (by cases h; simp (disch := decide) only [top_append]; decide)
theorem park : Statement (.park) :=
  fun _ h _ => .inl (by cases h; simp (disch := decide) only [top_append]; decide)
theorem illegalWord : ∀ w, Statement (.illegalWord w) := fun _ => fun _ h _ => .inr (by cases h; rfl)
theorem unassignedCodeWord : ∀ w, Statement (.unassignedCodeWord w) := fun _ => fun _ h hw => .inl (by cases h; simp only [wellFormed, Bool.and_eq_true] at hw; exact hw.1)
theorem loadReturn : ∀ g k, Statement (.loadReturn g k) := fun _ _ => event rfl
theorem storeAccept : ∀ g k, Statement (.storeAccept g k) := fun _ _ => event rfl
theorem commit : ∀ m, Statement (.commit m) := fun _ => event rfl
theorem feSpinRetry : ∀ k, Statement (.feSpinRetry k) := fun _ => event rfl
theorem feBucketRetry : ∀ k, Statement (.feBucketRetry k) := fun _ => event rfl
theorem feBudgetExpiry : ∀ k, Statement (.feBudgetExpiry k) := fun _ => event rfl
theorem engineBytesLand : ∀ e n, Statement (.engineBytesLand e n) := fun _ _ => event rfl
theorem engineLandingFill : ∀ e, Statement (.engineLandingFill e) := fun _ => event rfl
theorem engineComplete : ∀ e, Statement (.engineComplete e) := fun _ => event rfl
theorem engineFailure : ∀ e, Statement (.engineFailure e) := fun _ => event rfl
theorem tileOpStart : ∀ tm k, Statement (.tileOpStart tm k) := fun _ _ => event rfl
theorem tmmiCountRead : ∀ tm k, Statement (.tmmiCountRead tm k) := fun _ _ => event rfl
theorem tileOpRetire : ∀ tm k mismatch, Statement (.tileOpRetire tm k mismatch) := fun _ _ _ => event rfl
theorem groupRetire : ∀ g, Statement (.groupRetire g) := fun _ => event rfl
theorem strandMerge : ∀ g, Statement (.strandMerge g) := fun _ => event rfl
theorem strandRotation : ∀ g, Statement (.strandRotation g) := fun _ => event rfl
theorem strandAging : ∀ g, Statement (.strandAging g) := fun _ => event rfl
theorem groupStarved : ∀ g, Statement (.groupStarved g) := fun _ => event rfl
theorem sleepWake : ∀ g, Statement (.sleepWake g) := fun _ => event rfl
theorem gfuseTimeout : ∀ g, Statement (.gfuseTimeout g) := fun _ => event rfl
theorem binTimerExpiry : ∀ b, Statement (.binTimerExpiry b) := fun _ => event rfl
theorem spawnGroupPlace : ∀ b core quarter slot, Statement (.spawnGroupPlace b core quarter slot) := fun _ _ _ _ => event rfl
theorem enqTimeout : ∀ g, Statement (.enqTimeout g) := fun _ => event rfl
theorem prelPerform : ∀ k, Statement (.prelPerform k) := fun _ => event rfl
theorem regionRollback : ∀ g cause, Statement (.regionRollback g cause) := fun _ _ => event rfl
theorem idempotentRestart : ∀ g addr, Statement (.idempotentRestart g addr) := fun _ _ => event rfl
theorem watchdog : ∀ g, Statement (.watchdog g) := fun _ => event rfl
theorem gangAbort : ∀ g, Statement (.gangAbort g) := fun _ => event rfl
theorem hostPlainWrite : ∀ fn off bytes, Statement (.hostPlainWrite fn off bytes) := fun _ _ _ => event rfl
theorem hostFillWrite : ∀ fn off bytes, Statement (.hostFillWrite fn off bytes) := fun _ _ _ => event rfl
theorem hostRead : ∀ fn bar0 off n, Statement (.hostRead fn bar0 off n) := fun _ _ _ _ => event rfl
theorem hostAtomicop : ∀ fn fillAlias op z off val cmp, Statement (.hostAtomicop fn fillAlias op z off val cmp) := fun _ _ _ _ _ _ _ => event rfl
theorem peerRecovering : ∀ p, Statement (.peerRecovering p) := fun _ => event rfl
theorem peerLost : ∀ p, Statement (.peerLost p) := fun _ => event rfl
theorem sourceQualified : ∀ s0, Statement (.sourceQualified s0) := fun _ => event rfl
theorem checkpointStart : ∀ c, Statement (.checkpointStart c) := fun _ => event rfl
theorem rampDownIdle : ∀ part core, Statement (.rampDownIdle part core) := fun _ _ => event rfl
theorem slotStart : ∀ brokers, Statement (.slotStart brokers) := fun _ => event rfl
theorem headerFix : ∀ p, Statement (.headerFix p) := fun _ => event rfl
theorem droopStepDown : ∀ p, Statement (.droopStepDown p) := fun _ => event rfl
theorem droopStepUp : ∀ p, Statement (.droopStepUp p) := fun _ => event rfl
theorem remoteServiceComplete : ∀ k, Statement (.remoteServiceComplete k) := fun _ => event rfl
theorem packetConsume : ∀ c q, Statement (.packetConsume c q) := fun _ _ => event rfl
theorem launch : ∀ c q, Statement (.launch c q) := fun _ _ => event rfl
theorem copyPacket : ∀ c q, Statement (.copyPacket c q) := fun _ _ => event rfl
theorem signal : ∀ c q, Statement (.signal c q) := fun _ _ => event rfl
theorem waitval : ∀ c q, Statement (.waitval c q) := fun _ _ => event rfl
theorem waitvalPoll : ∀ c q, Statement (.waitvalPoll c q) := fun _ _ => event rfl
theorem waitvalTimeout : ∀ c q, Statement (.waitvalTimeout c q) := fun _ _ => event rfl
theorem qbarrier : ∀ c q, Statement (.qbarrier c q) := fun _ _ => event rfl
theorem timestamp : ∀ c q, Statement (.timestamp c q) := fun _ _ => event rfl
theorem nopPacket : ∀ c q, Statement (.nopPacket c q) := fun _ _ => event rfl
theorem reservationAnswer : ∀ g cores, Statement (.reservationAnswer g cores) := fun _ _ => event rfl
theorem reservationTimeout : ∀ g, Statement (.reservationTimeout g) := fun _ => event rfl
theorem reservationRetry : ∀ g, Statement (.reservationRetry g) := fun _ => event rfl
theorem teamStart : ∀ g part core quarter, Statement (.teamStart g part core quarter) := fun _ _ _ _ => event rfl
theorem gangStartFailure : ∀ g, Statement (.gangStartFailure g) := fun _ => event rfl
theorem gangComplete : ∀ g, Statement (.gangComplete g) := fun _ => event rfl
theorem queueAbtPoll : ∀ c q, Statement (.queueAbtPoll c q) := fun _ _ => event rfl
theorem hostFillTimeout : ∀ k, Statement (.hostFillTimeout k) := fun _ => event rfl
theorem carveOutChange : ∀ part core c, Statement (.carveOutChange part core c) := fun _ _ _ => event rfl
theorem saveCancel : ∀ tm, Statement (.saveCancel tm) := fun _ => event rfl
theorem teamRestore : ∀ tm core, Statement (.teamRestore tm core) := fun _ _ => event rfl
theorem ctxCreate : ∀ m, Statement (.ctxCreate m) := fun _ => event rfl
theorem ctxDestroy : ∀ m, Statement (.ctxDestroy m) := fun _ => event rfl
theorem queueReg : ∀ m, Statement (.queueReg m) := fun _ => event rfl
theorem queueUnreg : ∀ m, Statement (.queueUnreg m) := fun _ => event rfl
theorem handleNew : ∀ m, Statement (.handleNew m) := fun _ => event rfl
theorem handleFree : ∀ m, Statement (.handleFree m) := fun _ => event rfl
theorem inval : ∀ m, Statement (.inval m) := fun _ => event rfl
theorem migrate : ∀ m, Statement (.migrate m) := fun _ => event rfl
theorem migrateFreeze : ∀ c, Statement (.migrateFreeze c) := fun _ => event rfl
theorem pageout : ∀ m, Statement (.pageout m) := fun _ => event rfl
theorem pageIn : ∀ c va frame, Statement (.pageIn c va frame) := fun _ _ _ => event rfl
theorem faultReply : ∀ m, Statement (.faultReply m) := fun _ => event rfl
theorem ckptFull : ∀ m, Statement (.ckptFull m) := fun _ => event rfl
theorem ckptIncremental : ∀ m, Statement (.ckptIncremental m) := fun _ => event rfl
theorem ckptRestore : ∀ m units, Statement (.ckptRestore m units) := fun _ _ => event rfl
theorem ckptQuiesce : ∀ c, Statement (.ckptQuiesce c) := fun _ => event rfl
theorem ckptQuiesceTimeout : ∀ c, Statement (.ckptQuiesceTimeout c) := fun _ => event rfl
theorem ckptDrainComplete : ∀ c, Statement (.ckptDrainComplete c) := fun _ => event rfl
theorem hostAtomicopCompletion : ∀ g k supported, Statement (.hostAtomicopCompletion g k supported) := fun _ _ _ => event rfl
theorem functionLevelReset : ∀ c, Statement (.functionLevelReset c) := fun _ => event rfl
theorem registerWrite : ∀ steward r val, Statement (.registerWrite steward r val) := fun _ _ _ => event rfl
theorem hbmScrub : Statement (.hbmScrub) := event rfl
theorem coreFail : ∀ part core, Statement (.coreFail part core) := fun _ _ => event rfl
theorem hbmRowRepair : ∀ units, Statement (.hbmRowRepair units) := fun _ => event rfl
theorem podHealthWrite : ∀ p st, Statement (.podHealthWrite p st) := fun _ _ => event rfl
theorem sourceLoss : ∀ s0, Statement (.sourceLoss s0) := fun _ => event rfl
theorem rxLoss : ∀ p lost first count rstr, Statement (.rxLoss p lost first count rstr) := fun _ _ _ _ _ => event rfl
theorem sourceLightReturn : ∀ s0, Statement (.sourceLightReturn s0) := fun _ => event rfl
theorem sourceRetireWrite : ∀ s0 retire, Statement (.sourceRetireWrite s0 retire) := fun _ _ => event rfl
theorem sourceTelemetry : ∀ s0 t, Statement (.sourceTelemetry s0 t) := fun _ _ => event rfl
theorem sourceHourlyUpdate : ∀ s0 mean, Statement (.sourceHourlyUpdate s0 mean) := fun _ _ => event rfl
theorem portCounterClear : ∀ p, Statement (.portCounterClear p) := fun _ => event rfl
theorem quiperOffsetWrite : ∀ off, Statement (.quiperOffsetWrite off) := fun _ => event rfl
theorem quiperDataRead : ∀ n, Statement (.quiperDataRead n) := fun _ => event rfl
theorem quiperDataWrite : ∀ bytes, Statement (.quiperDataWrite bytes) := fun _ => event rfl
theorem entdaa : ∀ addr, Statement (.entdaa addr) := fun _ => event rfl
theorem getpid : Statement (.getpid) := event rfl
theorem getbcr : Statement (.getbcr) := event rfl
theorem getdcr : Statement (.getdcr) := event rfl
theorem getstatus : Statement (.getstatus) := event rfl
theorem getVersion : Statement (.getVersion) := event rfl
theorem getCapabilities : Statement (.getCapabilities) := event rfl
theorem negotiateAlgorithms : Statement (.negotiateAlgorithms) := event rfl
theorem getDigests : Statement (.getDigests) := event rfl
theorem getCertificate : ∀ slot, Statement (.getCertificate slot) := fun _ => event rfl
theorem challenge : ∀ nonce, Statement (.challenge nonce) := fun _ => event rfl
theorem getMeasurements : ∀ index signed nonce, Statement (.getMeasurements index signed nonce) := fun _ _ _ => event rfl
theorem referenceMarker : ∀ carried err good, Statement (.referenceMarker carried err good) := fun _ _ _ => event rfl
theorem referenceLoss : Statement (.referenceLoss) := event rfl
theorem holdoverExpiry : Statement (.holdoverExpiry) := event rfl
theorem rotaJoinWrite : ∀ join, Statement (.rotaJoinWrite join) := fun _ => event rfl
theorem rotaEntry : Statement (.rotaEntry) := event rfl
theorem rotaLeave : Statement (.rotaLeave) := event rfl
theorem droopDetect : ∀ p, Statement (.droopDetect p) := fun _ => event rfl
theorem dataFlitReceive : ∀ peer f, Statement (.dataFlitReceive peer f) := fun _ _ => event rfl
theorem headerFlitReceive : ∀ peer h, Statement (.headerFlitReceive peer h) := fun _ _ => event rfl
theorem powerControl : ∀ pnow t0 t1 t2 t3, Statement (.powerControl pnow t0 t1 t2 t3) := fun _ _ _ _ _ => event rfl
theorem thermalShutdown : Statement (.thermalShutdown) := event rfl
theorem runnerRestart : ∀ r, Statement (.runnerRestart r) := fun _ => event rfl
theorem stewardWatchdogExpiry : Statement (.stewardWatchdogExpiry) := event rfl
theorem warmReset : ∀ banks, Statement (.warmReset banks) := fun _ => event rfl
theorem coldReset : ∀ a b code lgpod pkg, Statement (.coldReset a b code lgpod pkg) := fun _ _ _ _ _ => event rfl
theorem recoveryImage : ∀ chk, Statement (.recoveryImage chk) := fun _ => event rfl
theorem referenceAcquire : Statement (.referenceAcquire) := event rfl

end Sys2Proof.Laws.Opcode
end

