-- ==== Sys2Proof/Laws/State.lean ====
section
/-! SUPPORT. Each update of the state, field by field: what it writes, and that it leaves the other fields; and what a read gives after a write
of a context, a team, a gang, a core, a queue, a peer, a port or a source. -/

namespace Sys2Proof.Machine

/-! ### modCur -/

@[simp] theorem modCur_agenda (f : Group → Group) (s : State) : (modCur f s).agenda = s.agenda := rfl
@[simp] theorem modCur_steps (f : Group → Group) (s : State) : (modCur f s).steps = s.steps := rfl
@[simp] theorem modCur_last (f : Group → Group) (s : State) : (modCur f s).last = s.last := rfl
@[simp] theorem modCur_time (f : Group → Group) (s : State) : (modCur f s).time = s.time := rfl
@[simp] theorem modCur_cur (f : Group → Group) (s : State) : (modCur f s).cur = f s.cur := rfl
@[simp] theorem modCur_others (f : Group → Group) (s : State) : (modCur f s).others = s.others := rfl
@[simp] theorem modCur_nextId (f : Group → Group) (s : State) : (modCur f s).nextId = s.nextId := rfl
@[simp] theorem modCur_mem (f : Group → Group) (s : State) : (modCur f s).mem = s.mem := rfl
@[simp] theorem modCur_fe (f : Group → Group) (s : State) : (modCur f s).fe = s.fe := rfl
@[simp] theorem modCur_poison (f : Group → Group) (s : State) : (modCur f s).poison = s.poison := rfl
@[simp] theorem modCur_hostMem (f : Group → Group) (s : State) : (modCur f s).hostMem = s.hostMem := rfl
@[simp] theorem modCur_teams (f : Group → Group) (s : State) : (modCur f s).teams = s.teams := rfl
@[simp] theorem modCur_gangs (f : Group → Group) (s : State) : (modCur f s).gangs = s.gangs := rfl
@[simp] theorem modCur_rounds (f : Group → Group) (s : State) : (modCur f s).rounds = s.rounds := rfl
@[simp] theorem modCur_gangNo (f : Group → Group) (s : State) : (modCur f s).gangNo = s.gangNo := rfl
@[simp] theorem modCur_cores (f : Group → Group) (s : State) : (modCur f s).cores = s.cores := rfl
@[simp] theorem modCur_rampUp (f : Group → Group) (s : State) : (modCur f s).rampUp = s.rampUp := rfl
@[simp] theorem modCur_rampDn (f : Group → Group) (s : State) : (modCur f s).rampDn = s.rampDn := rfl
@[simp] theorem modCur_ups (f : Group → Group) (s : State) : (modCur f s).ups = s.ups := rfl
@[simp] theorem modCur_downs (f : Group → Group) (s : State) : (modCur f s).downs = s.downs := rfl
@[simp] theorem modCur_engines (f : Group → Group) (s : State) : (modCur f s).engines = s.engines := rfl
@[simp] theorem modCur_locks (f : Group → Group) (s : State) : (modCur f s).locks = s.locks := rfl
@[simp] theorem modCur_auctions (f : Group → Group) (s : State) : (modCur f s).auctions = s.auctions := rfl
@[simp] theorem modCur_waits (f : Group → Group) (s : State) : (modCur f s).waits = s.waits := rfl
@[simp] theorem modCur_bins (f : Group → Group) (s : State) : (modCur f s).bins = s.bins := rfl
@[simp] theorem modCur_ctxs (f : Group → Group) (s : State) : (modCur f s).ctxs = s.ctxs := rfl
@[simp] theorem modCur_queues (f : Group → Group) (s : State) : (modCur f s).queues = s.queues := rfl
@[simp] theorem modCur_fills (f : Group → Group) (s : State) : (modCur f s).fills = s.fills := rfl
@[simp] theorem modCur_hostHeld (f : Group → Group) (s : State) : (modCur f s).hostHeld = s.hostHeld := rfl
@[simp] theorem modCur_invals (f : Group → Group) (s : State) : (modCur f s).invals = s.invals := rfl
@[simp] theorem modCur_tier (f : Group → Group) (s : State) : (modCur f s).tier = s.tier := rfl
@[simp] theorem modCur_code (f : Group → Group) (s : State) : (modCur f s).code = s.code := rfl
@[simp] theorem modCur_lgpod (f : Group → Group) (s : State) : (modCur f s).lgpod = s.lgpod := rfl
@[simp] theorem modCur_pkg (f : Group → Group) (s : State) : (modCur f s).pkg = s.pkg := rfl
@[simp] theorem modCur_relayq (f : Group → Group) (s : State) : (modCur f s).relayq = s.relayq := rfl
@[simp] theorem modCur_fwin (f : Group → Group) (s : State) : (modCur f s).fwin = s.fwin := rfl
@[simp] theorem modCur_barrow (f : Group → Group) (s : State) : (modCur f s).barrow = s.barrow := rfl
@[simp] theorem modCur_slotAt (f : Group → Group) (s : State) : (modCur f s).slotAt = s.slotAt := rfl
@[simp] theorem modCur_relay (f : Group → Group) (s : State) : (modCur f s).relay = s.relay := rfl
@[simp] theorem modCur_brokered (f : Group → Group) (s : State) : (modCur f s).brokered = s.brokered := rfl
@[simp] theorem modCur_split (f : Group → Group) (s : State) : (modCur f s).split = s.split := rfl
@[simp] theorem modCur_fibre (f : Group → Group) (s : State) : (modCur f s).fibre = s.fibre := rfl
@[simp] theorem modCur_l2host (f : Group → Group) (s : State) : (modCur f s).l2host = s.l2host := rfl
@[simp] theorem modCur_served (f : Group → Group) (s : State) : (modCur f s).served = s.served := rfl
@[simp] theorem modCur_prels (f : Group → Group) (s : State) : (modCur f s).prels = s.prels := rfl
@[simp] theorem modCur_arrivals (f : Group → Group) (s : State) : (modCur f s).arrivals = s.arrivals := rfl
@[simp] theorem modCur_episodes (f : Group → Group) (s : State) : (modCur f s).episodes = s.episodes := rfl
@[simp] theorem modCur_tokens (f : Group → Group) (s : State) : (modCur f s).tokens = s.tokens := rfl
@[simp] theorem modCur_health (f : Group → Group) (s : State) : (modCur f s).health = s.health := rfl
@[simp] theorem modCur_recovAt (f : Group → Group) (s : State) : (modCur f s).recovAt = s.recovAt := rfl
@[simp] theorem modCur_recovb (f : Group → Group) (s : State) : (modCur f s).recovb = s.recovb := rfl
@[simp] theorem modCur_sources (f : Group → Group) (s : State) : (modCur f s).sources = s.sources := rfl
@[simp] theorem modCur_ports (f : Group → Group) (s : State) : (modCur f s).ports = s.ports := rfl
@[simp] theorem modCur_peers (f : Group → Group) (s : State) : (modCur f s).peers = s.peers := rfl
@[simp] theorem modCur_events (f : Group → Group) (s : State) : (modCur f s).events = s.events := rfl
@[simp] theorem modCur_eventIdx (f : Group → Group) (s : State) : (modCur f s).eventIdx = s.eventIdx := rfl
@[simp] theorem modCur_lateEvents (f : Group → Group) (s : State) : (modCur f s).lateEvents = s.lateEvents := rfl
@[simp] theorem modCur_quiper (f : Group → Group) (s : State) : (modCur f s).quiper = s.quiper := rfl
@[simp] theorem modCur_i3cAddr (f : Group → Group) (s : State) : (modCur f s).i3cAddr = s.i3cAddr := rfl
@[simp] theorem modCur_daybook (f : Group → Group) (s : State) : (modCur f s).daybook = s.daybook := rfl
@[simp] theorem modCur_dayIdx (f : Group → Group) (s : State) : (modCur f s).dayIdx = s.dayIdx := rfl
@[simp] theorem modCur_eccAt (f : Group → Group) (s : State) : (modCur f s).eccAt = s.eccAt := rfl
@[simp] theorem modCur_scrubAt (f : Group → Group) (s : State) : (modCur f s).scrubAt = s.scrubAt := rfl
@[simp] theorem modCur_mirror (f : Group → Group) (s : State) : (modCur f s).mirror = s.mirror := rfl
@[simp] theorem modCur_repairs (f : Group → Group) (s : State) : (modCur f s).repairs = s.repairs := rfl
@[simp] theorem modCur_tbase (f : Group → Group) (s : State) : (modCur f s).tbase = s.tbase := rfl
@[simp] theorem modCur_power (f : Group → Group) (s : State) : (modCur f s).power = s.power := rfl
@[simp] theorem modCur_clocks (f : Group → Group) (s : State) : (modCur f s).clocks = s.clocks := rfl
@[simp] theorem modCur_bars (f : Group → Group) (s : State) : (modCur f s).bars = s.bars := rfl
@[simp] theorem modCur_fw (f : Group → Group) (s : State) : (modCur f s).fw = s.fw := rfl
@[simp] theorem modCur_apbase (f : Group → Group) (s : State) : (modCur f s).apbase = s.apbase := rfl
@[simp] theorem modCur_mgmtHeld (f : Group → Group) (s : State) : (modCur f s).mgmtHeld = s.mgmtHeld := rfl
@[simp] theorem modCur_mgmtRec (f : Group → Group) (s : State) : (modCur f s).mgmtRec = s.mgmtRec := rfl
@[simp] theorem modCur_out (f : Group → Group) (s : State) : (modCur f s).out = s.out := rfl

/-! ### emit -/

@[simp] theorem emit_agenda (o : Output) (s : State) : (emit o s).agenda = s.agenda := rfl
@[simp] theorem emit_steps (o : Output) (s : State) : (emit o s).steps = s.steps := rfl
@[simp] theorem emit_last (o : Output) (s : State) : (emit o s).last = s.last := rfl
@[simp] theorem emit_time (o : Output) (s : State) : (emit o s).time = s.time := rfl
@[simp] theorem emit_cur (o : Output) (s : State) : (emit o s).cur = s.cur := rfl
@[simp] theorem emit_others (o : Output) (s : State) : (emit o s).others = s.others := rfl
@[simp] theorem emit_nextId (o : Output) (s : State) : (emit o s).nextId = s.nextId := rfl
@[simp] theorem emit_mem (o : Output) (s : State) : (emit o s).mem = s.mem := rfl
@[simp] theorem emit_fe (o : Output) (s : State) : (emit o s).fe = s.fe := rfl
@[simp] theorem emit_poison (o : Output) (s : State) : (emit o s).poison = s.poison := rfl
@[simp] theorem emit_hostMem (o : Output) (s : State) : (emit o s).hostMem = s.hostMem := rfl
@[simp] theorem emit_teams (o : Output) (s : State) : (emit o s).teams = s.teams := rfl
@[simp] theorem emit_gangs (o : Output) (s : State) : (emit o s).gangs = s.gangs := rfl
@[simp] theorem emit_rounds (o : Output) (s : State) : (emit o s).rounds = s.rounds := rfl
@[simp] theorem emit_gangNo (o : Output) (s : State) : (emit o s).gangNo = s.gangNo := rfl
@[simp] theorem emit_cores (o : Output) (s : State) : (emit o s).cores = s.cores := rfl
@[simp] theorem emit_rampUp (o : Output) (s : State) : (emit o s).rampUp = s.rampUp := rfl
@[simp] theorem emit_rampDn (o : Output) (s : State) : (emit o s).rampDn = s.rampDn := rfl
@[simp] theorem emit_ups (o : Output) (s : State) : (emit o s).ups = s.ups := rfl
@[simp] theorem emit_downs (o : Output) (s : State) : (emit o s).downs = s.downs := rfl
@[simp] theorem emit_engines (o : Output) (s : State) : (emit o s).engines = s.engines := rfl
@[simp] theorem emit_locks (o : Output) (s : State) : (emit o s).locks = s.locks := rfl
@[simp] theorem emit_auctions (o : Output) (s : State) : (emit o s).auctions = s.auctions := rfl
@[simp] theorem emit_waits (o : Output) (s : State) : (emit o s).waits = s.waits := rfl
@[simp] theorem emit_bins (o : Output) (s : State) : (emit o s).bins = s.bins := rfl
@[simp] theorem emit_ctxs (o : Output) (s : State) : (emit o s).ctxs = s.ctxs := rfl
@[simp] theorem emit_queues (o : Output) (s : State) : (emit o s).queues = s.queues := rfl
@[simp] theorem emit_fills (o : Output) (s : State) : (emit o s).fills = s.fills := rfl
@[simp] theorem emit_hostHeld (o : Output) (s : State) : (emit o s).hostHeld = s.hostHeld := rfl
@[simp] theorem emit_invals (o : Output) (s : State) : (emit o s).invals = s.invals := rfl
@[simp] theorem emit_tier (o : Output) (s : State) : (emit o s).tier = s.tier := rfl
@[simp] theorem emit_code (o : Output) (s : State) : (emit o s).code = s.code := rfl
@[simp] theorem emit_lgpod (o : Output) (s : State) : (emit o s).lgpod = s.lgpod := rfl
@[simp] theorem emit_pkg (o : Output) (s : State) : (emit o s).pkg = s.pkg := rfl
@[simp] theorem emit_relayq (o : Output) (s : State) : (emit o s).relayq = s.relayq := rfl
@[simp] theorem emit_fwin (o : Output) (s : State) : (emit o s).fwin = s.fwin := rfl
@[simp] theorem emit_barrow (o : Output) (s : State) : (emit o s).barrow = s.barrow := rfl
@[simp] theorem emit_slotAt (o : Output) (s : State) : (emit o s).slotAt = s.slotAt := rfl
@[simp] theorem emit_relay (o : Output) (s : State) : (emit o s).relay = s.relay := rfl
@[simp] theorem emit_brokered (o : Output) (s : State) : (emit o s).brokered = s.brokered := rfl
@[simp] theorem emit_split (o : Output) (s : State) : (emit o s).split = s.split := rfl
@[simp] theorem emit_fibre (o : Output) (s : State) : (emit o s).fibre = s.fibre := rfl
@[simp] theorem emit_l2host (o : Output) (s : State) : (emit o s).l2host = s.l2host := rfl
@[simp] theorem emit_served (o : Output) (s : State) : (emit o s).served = s.served := rfl
@[simp] theorem emit_prels (o : Output) (s : State) : (emit o s).prels = s.prels := rfl
@[simp] theorem emit_arrivals (o : Output) (s : State) : (emit o s).arrivals = s.arrivals := rfl
@[simp] theorem emit_episodes (o : Output) (s : State) : (emit o s).episodes = s.episodes := rfl
@[simp] theorem emit_tokens (o : Output) (s : State) : (emit o s).tokens = s.tokens := rfl
@[simp] theorem emit_health (o : Output) (s : State) : (emit o s).health = s.health := rfl
@[simp] theorem emit_recovAt (o : Output) (s : State) : (emit o s).recovAt = s.recovAt := rfl
@[simp] theorem emit_recovb (o : Output) (s : State) : (emit o s).recovb = s.recovb := rfl
@[simp] theorem emit_sources (o : Output) (s : State) : (emit o s).sources = s.sources := rfl
@[simp] theorem emit_ports (o : Output) (s : State) : (emit o s).ports = s.ports := rfl
@[simp] theorem emit_peers (o : Output) (s : State) : (emit o s).peers = s.peers := rfl
@[simp] theorem emit_events (o : Output) (s : State) : (emit o s).events = s.events := rfl
@[simp] theorem emit_eventIdx (o : Output) (s : State) : (emit o s).eventIdx = s.eventIdx := rfl
@[simp] theorem emit_lateEvents (o : Output) (s : State) : (emit o s).lateEvents = s.lateEvents := rfl
@[simp] theorem emit_quiper (o : Output) (s : State) : (emit o s).quiper = s.quiper := rfl
@[simp] theorem emit_i3cAddr (o : Output) (s : State) : (emit o s).i3cAddr = s.i3cAddr := rfl
@[simp] theorem emit_daybook (o : Output) (s : State) : (emit o s).daybook = s.daybook := rfl
@[simp] theorem emit_dayIdx (o : Output) (s : State) : (emit o s).dayIdx = s.dayIdx := rfl
@[simp] theorem emit_eccAt (o : Output) (s : State) : (emit o s).eccAt = s.eccAt := rfl
@[simp] theorem emit_scrubAt (o : Output) (s : State) : (emit o s).scrubAt = s.scrubAt := rfl
@[simp] theorem emit_mirror (o : Output) (s : State) : (emit o s).mirror = s.mirror := rfl
@[simp] theorem emit_repairs (o : Output) (s : State) : (emit o s).repairs = s.repairs := rfl
@[simp] theorem emit_tbase (o : Output) (s : State) : (emit o s).tbase = s.tbase := rfl
@[simp] theorem emit_power (o : Output) (s : State) : (emit o s).power = s.power := rfl
@[simp] theorem emit_clocks (o : Output) (s : State) : (emit o s).clocks = s.clocks := rfl
@[simp] theorem emit_bars (o : Output) (s : State) : (emit o s).bars = s.bars := rfl
@[simp] theorem emit_fw (o : Output) (s : State) : (emit o s).fw = s.fw := rfl
@[simp] theorem emit_apbase (o : Output) (s : State) : (emit o s).apbase = s.apbase := rfl
@[simp] theorem emit_mgmtHeld (o : Output) (s : State) : (emit o s).mgmtHeld = s.mgmtHeld := rfl
@[simp] theorem emit_mgmtRec (o : Output) (s : State) : (emit o s).mgmtRec = s.mgmtRec := rfl
@[simp] theorem emit_out (o : Output) (s : State) : (emit o s).out = s.out ++ [o] := rfl

/-! ### due -/

@[simp] theorem due_agenda (i : Instr) (s : State) : (due i s).agenda = i :: s.agenda := rfl
@[simp] theorem due_steps (i : Instr) (s : State) : (due i s).steps = s.steps := rfl
@[simp] theorem due_last (i : Instr) (s : State) : (due i s).last = s.last := rfl
@[simp] theorem due_time (i : Instr) (s : State) : (due i s).time = s.time := rfl
@[simp] theorem due_cur (i : Instr) (s : State) : (due i s).cur = s.cur := rfl
@[simp] theorem due_others (i : Instr) (s : State) : (due i s).others = s.others := rfl
@[simp] theorem due_nextId (i : Instr) (s : State) : (due i s).nextId = s.nextId := rfl
@[simp] theorem due_mem (i : Instr) (s : State) : (due i s).mem = s.mem := rfl
@[simp] theorem due_fe (i : Instr) (s : State) : (due i s).fe = s.fe := rfl
@[simp] theorem due_poison (i : Instr) (s : State) : (due i s).poison = s.poison := rfl
@[simp] theorem due_hostMem (i : Instr) (s : State) : (due i s).hostMem = s.hostMem := rfl
@[simp] theorem due_teams (i : Instr) (s : State) : (due i s).teams = s.teams := rfl
@[simp] theorem due_gangs (i : Instr) (s : State) : (due i s).gangs = s.gangs := rfl
@[simp] theorem due_rounds (i : Instr) (s : State) : (due i s).rounds = s.rounds := rfl
@[simp] theorem due_gangNo (i : Instr) (s : State) : (due i s).gangNo = s.gangNo := rfl
@[simp] theorem due_cores (i : Instr) (s : State) : (due i s).cores = s.cores := rfl
@[simp] theorem due_rampUp (i : Instr) (s : State) : (due i s).rampUp = s.rampUp := rfl
@[simp] theorem due_rampDn (i : Instr) (s : State) : (due i s).rampDn = s.rampDn := rfl
@[simp] theorem due_ups (i : Instr) (s : State) : (due i s).ups = s.ups := rfl
@[simp] theorem due_downs (i : Instr) (s : State) : (due i s).downs = s.downs := rfl
@[simp] theorem due_engines (i : Instr) (s : State) : (due i s).engines = s.engines := rfl
@[simp] theorem due_locks (i : Instr) (s : State) : (due i s).locks = s.locks := rfl
@[simp] theorem due_auctions (i : Instr) (s : State) : (due i s).auctions = s.auctions := rfl
@[simp] theorem due_waits (i : Instr) (s : State) : (due i s).waits = s.waits := rfl
@[simp] theorem due_bins (i : Instr) (s : State) : (due i s).bins = s.bins := rfl
@[simp] theorem due_ctxs (i : Instr) (s : State) : (due i s).ctxs = s.ctxs := rfl
@[simp] theorem due_queues (i : Instr) (s : State) : (due i s).queues = s.queues := rfl
@[simp] theorem due_fills (i : Instr) (s : State) : (due i s).fills = s.fills := rfl
@[simp] theorem due_hostHeld (i : Instr) (s : State) : (due i s).hostHeld = s.hostHeld := rfl
@[simp] theorem due_invals (i : Instr) (s : State) : (due i s).invals = s.invals := rfl
@[simp] theorem due_tier (i : Instr) (s : State) : (due i s).tier = s.tier := rfl
@[simp] theorem due_code (i : Instr) (s : State) : (due i s).code = s.code := rfl
@[simp] theorem due_lgpod (i : Instr) (s : State) : (due i s).lgpod = s.lgpod := rfl
@[simp] theorem due_pkg (i : Instr) (s : State) : (due i s).pkg = s.pkg := rfl
@[simp] theorem due_relayq (i : Instr) (s : State) : (due i s).relayq = s.relayq := rfl
@[simp] theorem due_fwin (i : Instr) (s : State) : (due i s).fwin = s.fwin := rfl
@[simp] theorem due_barrow (i : Instr) (s : State) : (due i s).barrow = s.barrow := rfl
@[simp] theorem due_slotAt (i : Instr) (s : State) : (due i s).slotAt = s.slotAt := rfl
@[simp] theorem due_relay (i : Instr) (s : State) : (due i s).relay = s.relay := rfl
@[simp] theorem due_brokered (i : Instr) (s : State) : (due i s).brokered = s.brokered := rfl
@[simp] theorem due_split (i : Instr) (s : State) : (due i s).split = s.split := rfl
@[simp] theorem due_fibre (i : Instr) (s : State) : (due i s).fibre = s.fibre := rfl
@[simp] theorem due_l2host (i : Instr) (s : State) : (due i s).l2host = s.l2host := rfl
@[simp] theorem due_served (i : Instr) (s : State) : (due i s).served = s.served := rfl
@[simp] theorem due_prels (i : Instr) (s : State) : (due i s).prels = s.prels := rfl
@[simp] theorem due_arrivals (i : Instr) (s : State) : (due i s).arrivals = s.arrivals := rfl
@[simp] theorem due_episodes (i : Instr) (s : State) : (due i s).episodes = s.episodes := rfl
@[simp] theorem due_tokens (i : Instr) (s : State) : (due i s).tokens = s.tokens := rfl
@[simp] theorem due_health (i : Instr) (s : State) : (due i s).health = s.health := rfl
@[simp] theorem due_recovAt (i : Instr) (s : State) : (due i s).recovAt = s.recovAt := rfl
@[simp] theorem due_recovb (i : Instr) (s : State) : (due i s).recovb = s.recovb := rfl
@[simp] theorem due_sources (i : Instr) (s : State) : (due i s).sources = s.sources := rfl
@[simp] theorem due_ports (i : Instr) (s : State) : (due i s).ports = s.ports := rfl
@[simp] theorem due_peers (i : Instr) (s : State) : (due i s).peers = s.peers := rfl
@[simp] theorem due_events (i : Instr) (s : State) : (due i s).events = s.events := rfl
@[simp] theorem due_eventIdx (i : Instr) (s : State) : (due i s).eventIdx = s.eventIdx := rfl
@[simp] theorem due_lateEvents (i : Instr) (s : State) : (due i s).lateEvents = s.lateEvents := rfl
@[simp] theorem due_quiper (i : Instr) (s : State) : (due i s).quiper = s.quiper := rfl
@[simp] theorem due_i3cAddr (i : Instr) (s : State) : (due i s).i3cAddr = s.i3cAddr := rfl
@[simp] theorem due_daybook (i : Instr) (s : State) : (due i s).daybook = s.daybook := rfl
@[simp] theorem due_dayIdx (i : Instr) (s : State) : (due i s).dayIdx = s.dayIdx := rfl
@[simp] theorem due_eccAt (i : Instr) (s : State) : (due i s).eccAt = s.eccAt := rfl
@[simp] theorem due_scrubAt (i : Instr) (s : State) : (due i s).scrubAt = s.scrubAt := rfl
@[simp] theorem due_mirror (i : Instr) (s : State) : (due i s).mirror = s.mirror := rfl
@[simp] theorem due_repairs (i : Instr) (s : State) : (due i s).repairs = s.repairs := rfl
@[simp] theorem due_tbase (i : Instr) (s : State) : (due i s).tbase = s.tbase := rfl
@[simp] theorem due_power (i : Instr) (s : State) : (due i s).power = s.power := rfl
@[simp] theorem due_clocks (i : Instr) (s : State) : (due i s).clocks = s.clocks := rfl
@[simp] theorem due_bars (i : Instr) (s : State) : (due i s).bars = s.bars := rfl
@[simp] theorem due_fw (i : Instr) (s : State) : (due i s).fw = s.fw := rfl
@[simp] theorem due_apbase (i : Instr) (s : State) : (due i s).apbase = s.apbase := rfl
@[simp] theorem due_mgmtHeld (i : Instr) (s : State) : (due i s).mgmtHeld = s.mgmtHeld := rfl
@[simp] theorem due_mgmtRec (i : Instr) (s : State) : (due i s).mgmtRec = s.mgmtRec := rfl
@[simp] theorem due_out (i : Instr) (s : State) : (due i s).out = s.out := rfl

/-! ### setCtx -/

@[simp] theorem setCtx_agenda (k : Nat) (v : Ctx) (s : State) : (setCtx k v s).agenda = s.agenda := rfl
@[simp] theorem setCtx_steps (k : Nat) (v : Ctx) (s : State) : (setCtx k v s).steps = s.steps := rfl
@[simp] theorem setCtx_last (k : Nat) (v : Ctx) (s : State) : (setCtx k v s).last = s.last := rfl
@[simp] theorem setCtx_time (k : Nat) (v : Ctx) (s : State) : (setCtx k v s).time = s.time := rfl
@[simp] theorem setCtx_cur (k : Nat) (v : Ctx) (s : State) : (setCtx k v s).cur = s.cur := rfl
@[simp] theorem setCtx_others (k : Nat) (v : Ctx) (s : State) : (setCtx k v s).others = s.others := rfl
@[simp] theorem setCtx_nextId (k : Nat) (v : Ctx) (s : State) : (setCtx k v s).nextId = s.nextId := rfl
@[simp] theorem setCtx_mem (k : Nat) (v : Ctx) (s : State) : (setCtx k v s).mem = s.mem := rfl
@[simp] theorem setCtx_fe (k : Nat) (v : Ctx) (s : State) : (setCtx k v s).fe = s.fe := rfl
@[simp] theorem setCtx_poison (k : Nat) (v : Ctx) (s : State) : (setCtx k v s).poison = s.poison := rfl
@[simp] theorem setCtx_hostMem (k : Nat) (v : Ctx) (s : State) : (setCtx k v s).hostMem = s.hostMem := rfl
@[simp] theorem setCtx_teams (k : Nat) (v : Ctx) (s : State) : (setCtx k v s).teams = s.teams := rfl
@[simp] theorem setCtx_gangs (k : Nat) (v : Ctx) (s : State) : (setCtx k v s).gangs = s.gangs := rfl
@[simp] theorem setCtx_rounds (k : Nat) (v : Ctx) (s : State) : (setCtx k v s).rounds = s.rounds := rfl
@[simp] theorem setCtx_gangNo (k : Nat) (v : Ctx) (s : State) : (setCtx k v s).gangNo = s.gangNo := rfl
@[simp] theorem setCtx_cores (k : Nat) (v : Ctx) (s : State) : (setCtx k v s).cores = s.cores := rfl
@[simp] theorem setCtx_rampUp (k : Nat) (v : Ctx) (s : State) : (setCtx k v s).rampUp = s.rampUp := rfl
@[simp] theorem setCtx_rampDn (k : Nat) (v : Ctx) (s : State) : (setCtx k v s).rampDn = s.rampDn := rfl
@[simp] theorem setCtx_ups (k : Nat) (v : Ctx) (s : State) : (setCtx k v s).ups = s.ups := rfl
@[simp] theorem setCtx_downs (k : Nat) (v : Ctx) (s : State) : (setCtx k v s).downs = s.downs := rfl
@[simp] theorem setCtx_engines (k : Nat) (v : Ctx) (s : State) : (setCtx k v s).engines = s.engines := rfl
@[simp] theorem setCtx_locks (k : Nat) (v : Ctx) (s : State) : (setCtx k v s).locks = s.locks := rfl
@[simp] theorem setCtx_auctions (k : Nat) (v : Ctx) (s : State) : (setCtx k v s).auctions = s.auctions := rfl
@[simp] theorem setCtx_waits (k : Nat) (v : Ctx) (s : State) : (setCtx k v s).waits = s.waits := rfl
@[simp] theorem setCtx_bins (k : Nat) (v : Ctx) (s : State) : (setCtx k v s).bins = s.bins := rfl
@[simp] theorem setCtx_ctxs (k : Nat) (v : Ctx) (s : State) : (setCtx k v s).ctxs = Sparse.set Ctx.vacant s.ctxs k v := rfl
@[simp] theorem setCtx_queues (k : Nat) (v : Ctx) (s : State) : (setCtx k v s).queues = s.queues := rfl
@[simp] theorem setCtx_fills (k : Nat) (v : Ctx) (s : State) : (setCtx k v s).fills = s.fills := rfl
@[simp] theorem setCtx_hostHeld (k : Nat) (v : Ctx) (s : State) : (setCtx k v s).hostHeld = s.hostHeld := rfl
@[simp] theorem setCtx_invals (k : Nat) (v : Ctx) (s : State) : (setCtx k v s).invals = s.invals := rfl
@[simp] theorem setCtx_tier (k : Nat) (v : Ctx) (s : State) : (setCtx k v s).tier = s.tier := rfl
@[simp] theorem setCtx_code (k : Nat) (v : Ctx) (s : State) : (setCtx k v s).code = s.code := rfl
@[simp] theorem setCtx_lgpod (k : Nat) (v : Ctx) (s : State) : (setCtx k v s).lgpod = s.lgpod := rfl
@[simp] theorem setCtx_pkg (k : Nat) (v : Ctx) (s : State) : (setCtx k v s).pkg = s.pkg := rfl
@[simp] theorem setCtx_relayq (k : Nat) (v : Ctx) (s : State) : (setCtx k v s).relayq = s.relayq := rfl
@[simp] theorem setCtx_fwin (k : Nat) (v : Ctx) (s : State) : (setCtx k v s).fwin = s.fwin := rfl
@[simp] theorem setCtx_barrow (k : Nat) (v : Ctx) (s : State) : (setCtx k v s).barrow = s.barrow := rfl
@[simp] theorem setCtx_slotAt (k : Nat) (v : Ctx) (s : State) : (setCtx k v s).slotAt = s.slotAt := rfl
@[simp] theorem setCtx_relay (k : Nat) (v : Ctx) (s : State) : (setCtx k v s).relay = s.relay := rfl
@[simp] theorem setCtx_brokered (k : Nat) (v : Ctx) (s : State) : (setCtx k v s).brokered = s.brokered := rfl
@[simp] theorem setCtx_split (k : Nat) (v : Ctx) (s : State) : (setCtx k v s).split = s.split := rfl
@[simp] theorem setCtx_fibre (k : Nat) (v : Ctx) (s : State) : (setCtx k v s).fibre = s.fibre := rfl
@[simp] theorem setCtx_l2host (k : Nat) (v : Ctx) (s : State) : (setCtx k v s).l2host = s.l2host := rfl
@[simp] theorem setCtx_served (k : Nat) (v : Ctx) (s : State) : (setCtx k v s).served = s.served := rfl
@[simp] theorem setCtx_prels (k : Nat) (v : Ctx) (s : State) : (setCtx k v s).prels = s.prels := rfl
@[simp] theorem setCtx_arrivals (k : Nat) (v : Ctx) (s : State) : (setCtx k v s).arrivals = s.arrivals := rfl
@[simp] theorem setCtx_episodes (k : Nat) (v : Ctx) (s : State) : (setCtx k v s).episodes = s.episodes := rfl
@[simp] theorem setCtx_tokens (k : Nat) (v : Ctx) (s : State) : (setCtx k v s).tokens = s.tokens := rfl
@[simp] theorem setCtx_health (k : Nat) (v : Ctx) (s : State) : (setCtx k v s).health = s.health := rfl
@[simp] theorem setCtx_recovAt (k : Nat) (v : Ctx) (s : State) : (setCtx k v s).recovAt = s.recovAt := rfl
@[simp] theorem setCtx_recovb (k : Nat) (v : Ctx) (s : State) : (setCtx k v s).recovb = s.recovb := rfl
@[simp] theorem setCtx_sources (k : Nat) (v : Ctx) (s : State) : (setCtx k v s).sources = s.sources := rfl
@[simp] theorem setCtx_ports (k : Nat) (v : Ctx) (s : State) : (setCtx k v s).ports = s.ports := rfl
@[simp] theorem setCtx_peers (k : Nat) (v : Ctx) (s : State) : (setCtx k v s).peers = s.peers := rfl
@[simp] theorem setCtx_events (k : Nat) (v : Ctx) (s : State) : (setCtx k v s).events = s.events := rfl
@[simp] theorem setCtx_eventIdx (k : Nat) (v : Ctx) (s : State) : (setCtx k v s).eventIdx = s.eventIdx := rfl
@[simp] theorem setCtx_lateEvents (k : Nat) (v : Ctx) (s : State) : (setCtx k v s).lateEvents = s.lateEvents := rfl
@[simp] theorem setCtx_quiper (k : Nat) (v : Ctx) (s : State) : (setCtx k v s).quiper = s.quiper := rfl
@[simp] theorem setCtx_i3cAddr (k : Nat) (v : Ctx) (s : State) : (setCtx k v s).i3cAddr = s.i3cAddr := rfl
@[simp] theorem setCtx_daybook (k : Nat) (v : Ctx) (s : State) : (setCtx k v s).daybook = s.daybook := rfl
@[simp] theorem setCtx_dayIdx (k : Nat) (v : Ctx) (s : State) : (setCtx k v s).dayIdx = s.dayIdx := rfl
@[simp] theorem setCtx_eccAt (k : Nat) (v : Ctx) (s : State) : (setCtx k v s).eccAt = s.eccAt := rfl
@[simp] theorem setCtx_scrubAt (k : Nat) (v : Ctx) (s : State) : (setCtx k v s).scrubAt = s.scrubAt := rfl
@[simp] theorem setCtx_mirror (k : Nat) (v : Ctx) (s : State) : (setCtx k v s).mirror = s.mirror := rfl
@[simp] theorem setCtx_repairs (k : Nat) (v : Ctx) (s : State) : (setCtx k v s).repairs = s.repairs := rfl
@[simp] theorem setCtx_tbase (k : Nat) (v : Ctx) (s : State) : (setCtx k v s).tbase = s.tbase := rfl
@[simp] theorem setCtx_power (k : Nat) (v : Ctx) (s : State) : (setCtx k v s).power = s.power := rfl
@[simp] theorem setCtx_clocks (k : Nat) (v : Ctx) (s : State) : (setCtx k v s).clocks = s.clocks := rfl
@[simp] theorem setCtx_bars (k : Nat) (v : Ctx) (s : State) : (setCtx k v s).bars = s.bars := rfl
@[simp] theorem setCtx_fw (k : Nat) (v : Ctx) (s : State) : (setCtx k v s).fw = s.fw := rfl
@[simp] theorem setCtx_apbase (k : Nat) (v : Ctx) (s : State) : (setCtx k v s).apbase = s.apbase := rfl
@[simp] theorem setCtx_mgmtHeld (k : Nat) (v : Ctx) (s : State) : (setCtx k v s).mgmtHeld = s.mgmtHeld := rfl
@[simp] theorem setCtx_mgmtRec (k : Nat) (v : Ctx) (s : State) : (setCtx k v s).mgmtRec = s.mgmtRec := rfl
@[simp] theorem setCtx_out (k : Nat) (v : Ctx) (s : State) : (setCtx k v s).out = s.out := rfl

/-! ### setTeam -/

@[simp] theorem setTeam_agenda (k : Nat) (v : Team) (s : State) : (setTeam k v s).agenda = s.agenda := rfl
@[simp] theorem setTeam_steps (k : Nat) (v : Team) (s : State) : (setTeam k v s).steps = s.steps := rfl
@[simp] theorem setTeam_last (k : Nat) (v : Team) (s : State) : (setTeam k v s).last = s.last := rfl
@[simp] theorem setTeam_time (k : Nat) (v : Team) (s : State) : (setTeam k v s).time = s.time := rfl
@[simp] theorem setTeam_cur (k : Nat) (v : Team) (s : State) : (setTeam k v s).cur = s.cur := rfl
@[simp] theorem setTeam_others (k : Nat) (v : Team) (s : State) : (setTeam k v s).others = s.others := rfl
@[simp] theorem setTeam_nextId (k : Nat) (v : Team) (s : State) : (setTeam k v s).nextId = s.nextId := rfl
@[simp] theorem setTeam_mem (k : Nat) (v : Team) (s : State) : (setTeam k v s).mem = s.mem := rfl
@[simp] theorem setTeam_fe (k : Nat) (v : Team) (s : State) : (setTeam k v s).fe = s.fe := rfl
@[simp] theorem setTeam_poison (k : Nat) (v : Team) (s : State) : (setTeam k v s).poison = s.poison := rfl
@[simp] theorem setTeam_hostMem (k : Nat) (v : Team) (s : State) : (setTeam k v s).hostMem = s.hostMem := rfl
@[simp] theorem setTeam_teams (k : Nat) (v : Team) (s : State) : (setTeam k v s).teams = Sparse.set Team.vacant s.teams k v := rfl
@[simp] theorem setTeam_gangs (k : Nat) (v : Team) (s : State) : (setTeam k v s).gangs = s.gangs := rfl
@[simp] theorem setTeam_rounds (k : Nat) (v : Team) (s : State) : (setTeam k v s).rounds = s.rounds := rfl
@[simp] theorem setTeam_gangNo (k : Nat) (v : Team) (s : State) : (setTeam k v s).gangNo = s.gangNo := rfl
@[simp] theorem setTeam_cores (k : Nat) (v : Team) (s : State) : (setTeam k v s).cores = s.cores := rfl
@[simp] theorem setTeam_rampUp (k : Nat) (v : Team) (s : State) : (setTeam k v s).rampUp = s.rampUp := rfl
@[simp] theorem setTeam_rampDn (k : Nat) (v : Team) (s : State) : (setTeam k v s).rampDn = s.rampDn := rfl
@[simp] theorem setTeam_ups (k : Nat) (v : Team) (s : State) : (setTeam k v s).ups = s.ups := rfl
@[simp] theorem setTeam_downs (k : Nat) (v : Team) (s : State) : (setTeam k v s).downs = s.downs := rfl
@[simp] theorem setTeam_engines (k : Nat) (v : Team) (s : State) : (setTeam k v s).engines = s.engines := rfl
@[simp] theorem setTeam_locks (k : Nat) (v : Team) (s : State) : (setTeam k v s).locks = s.locks := rfl
@[simp] theorem setTeam_auctions (k : Nat) (v : Team) (s : State) : (setTeam k v s).auctions = s.auctions := rfl
@[simp] theorem setTeam_waits (k : Nat) (v : Team) (s : State) : (setTeam k v s).waits = s.waits := rfl
@[simp] theorem setTeam_bins (k : Nat) (v : Team) (s : State) : (setTeam k v s).bins = s.bins := rfl
@[simp] theorem setTeam_ctxs (k : Nat) (v : Team) (s : State) : (setTeam k v s).ctxs = s.ctxs := rfl
@[simp] theorem setTeam_queues (k : Nat) (v : Team) (s : State) : (setTeam k v s).queues = s.queues := rfl
@[simp] theorem setTeam_fills (k : Nat) (v : Team) (s : State) : (setTeam k v s).fills = s.fills := rfl
@[simp] theorem setTeam_hostHeld (k : Nat) (v : Team) (s : State) : (setTeam k v s).hostHeld = s.hostHeld := rfl
@[simp] theorem setTeam_invals (k : Nat) (v : Team) (s : State) : (setTeam k v s).invals = s.invals := rfl
@[simp] theorem setTeam_tier (k : Nat) (v : Team) (s : State) : (setTeam k v s).tier = s.tier := rfl
@[simp] theorem setTeam_code (k : Nat) (v : Team) (s : State) : (setTeam k v s).code = s.code := rfl
@[simp] theorem setTeam_lgpod (k : Nat) (v : Team) (s : State) : (setTeam k v s).lgpod = s.lgpod := rfl
@[simp] theorem setTeam_pkg (k : Nat) (v : Team) (s : State) : (setTeam k v s).pkg = s.pkg := rfl
@[simp] theorem setTeam_relayq (k : Nat) (v : Team) (s : State) : (setTeam k v s).relayq = s.relayq := rfl
@[simp] theorem setTeam_fwin (k : Nat) (v : Team) (s : State) : (setTeam k v s).fwin = s.fwin := rfl
@[simp] theorem setTeam_barrow (k : Nat) (v : Team) (s : State) : (setTeam k v s).barrow = s.barrow := rfl
@[simp] theorem setTeam_slotAt (k : Nat) (v : Team) (s : State) : (setTeam k v s).slotAt = s.slotAt := rfl
@[simp] theorem setTeam_relay (k : Nat) (v : Team) (s : State) : (setTeam k v s).relay = s.relay := rfl
@[simp] theorem setTeam_brokered (k : Nat) (v : Team) (s : State) : (setTeam k v s).brokered = s.brokered := rfl
@[simp] theorem setTeam_split (k : Nat) (v : Team) (s : State) : (setTeam k v s).split = s.split := rfl
@[simp] theorem setTeam_fibre (k : Nat) (v : Team) (s : State) : (setTeam k v s).fibre = s.fibre := rfl
@[simp] theorem setTeam_l2host (k : Nat) (v : Team) (s : State) : (setTeam k v s).l2host = s.l2host := rfl
@[simp] theorem setTeam_served (k : Nat) (v : Team) (s : State) : (setTeam k v s).served = s.served := rfl
@[simp] theorem setTeam_prels (k : Nat) (v : Team) (s : State) : (setTeam k v s).prels = s.prels := rfl
@[simp] theorem setTeam_arrivals (k : Nat) (v : Team) (s : State) : (setTeam k v s).arrivals = s.arrivals := rfl
@[simp] theorem setTeam_episodes (k : Nat) (v : Team) (s : State) : (setTeam k v s).episodes = s.episodes := rfl
@[simp] theorem setTeam_tokens (k : Nat) (v : Team) (s : State) : (setTeam k v s).tokens = s.tokens := rfl
@[simp] theorem setTeam_health (k : Nat) (v : Team) (s : State) : (setTeam k v s).health = s.health := rfl
@[simp] theorem setTeam_recovAt (k : Nat) (v : Team) (s : State) : (setTeam k v s).recovAt = s.recovAt := rfl
@[simp] theorem setTeam_recovb (k : Nat) (v : Team) (s : State) : (setTeam k v s).recovb = s.recovb := rfl
@[simp] theorem setTeam_sources (k : Nat) (v : Team) (s : State) : (setTeam k v s).sources = s.sources := rfl
@[simp] theorem setTeam_ports (k : Nat) (v : Team) (s : State) : (setTeam k v s).ports = s.ports := rfl
@[simp] theorem setTeam_peers (k : Nat) (v : Team) (s : State) : (setTeam k v s).peers = s.peers := rfl
@[simp] theorem setTeam_events (k : Nat) (v : Team) (s : State) : (setTeam k v s).events = s.events := rfl
@[simp] theorem setTeam_eventIdx (k : Nat) (v : Team) (s : State) : (setTeam k v s).eventIdx = s.eventIdx := rfl
@[simp] theorem setTeam_lateEvents (k : Nat) (v : Team) (s : State) : (setTeam k v s).lateEvents = s.lateEvents := rfl
@[simp] theorem setTeam_quiper (k : Nat) (v : Team) (s : State) : (setTeam k v s).quiper = s.quiper := rfl
@[simp] theorem setTeam_i3cAddr (k : Nat) (v : Team) (s : State) : (setTeam k v s).i3cAddr = s.i3cAddr := rfl
@[simp] theorem setTeam_daybook (k : Nat) (v : Team) (s : State) : (setTeam k v s).daybook = s.daybook := rfl
@[simp] theorem setTeam_dayIdx (k : Nat) (v : Team) (s : State) : (setTeam k v s).dayIdx = s.dayIdx := rfl
@[simp] theorem setTeam_eccAt (k : Nat) (v : Team) (s : State) : (setTeam k v s).eccAt = s.eccAt := rfl
@[simp] theorem setTeam_scrubAt (k : Nat) (v : Team) (s : State) : (setTeam k v s).scrubAt = s.scrubAt := rfl
@[simp] theorem setTeam_mirror (k : Nat) (v : Team) (s : State) : (setTeam k v s).mirror = s.mirror := rfl
@[simp] theorem setTeam_repairs (k : Nat) (v : Team) (s : State) : (setTeam k v s).repairs = s.repairs := rfl
@[simp] theorem setTeam_tbase (k : Nat) (v : Team) (s : State) : (setTeam k v s).tbase = s.tbase := rfl
@[simp] theorem setTeam_power (k : Nat) (v : Team) (s : State) : (setTeam k v s).power = s.power := rfl
@[simp] theorem setTeam_clocks (k : Nat) (v : Team) (s : State) : (setTeam k v s).clocks = s.clocks := rfl
@[simp] theorem setTeam_bars (k : Nat) (v : Team) (s : State) : (setTeam k v s).bars = s.bars := rfl
@[simp] theorem setTeam_fw (k : Nat) (v : Team) (s : State) : (setTeam k v s).fw = s.fw := rfl
@[simp] theorem setTeam_apbase (k : Nat) (v : Team) (s : State) : (setTeam k v s).apbase = s.apbase := rfl
@[simp] theorem setTeam_mgmtHeld (k : Nat) (v : Team) (s : State) : (setTeam k v s).mgmtHeld = s.mgmtHeld := rfl
@[simp] theorem setTeam_mgmtRec (k : Nat) (v : Team) (s : State) : (setTeam k v s).mgmtRec = s.mgmtRec := rfl
@[simp] theorem setTeam_out (k : Nat) (v : Team) (s : State) : (setTeam k v s).out = s.out := rfl

/-! ### setGang -/

@[simp] theorem setGang_agenda (k : Nat) (v : Gang) (s : State) : (setGang k v s).agenda = s.agenda := rfl
@[simp] theorem setGang_steps (k : Nat) (v : Gang) (s : State) : (setGang k v s).steps = s.steps := rfl
@[simp] theorem setGang_last (k : Nat) (v : Gang) (s : State) : (setGang k v s).last = s.last := rfl
@[simp] theorem setGang_time (k : Nat) (v : Gang) (s : State) : (setGang k v s).time = s.time := rfl
@[simp] theorem setGang_cur (k : Nat) (v : Gang) (s : State) : (setGang k v s).cur = s.cur := rfl
@[simp] theorem setGang_others (k : Nat) (v : Gang) (s : State) : (setGang k v s).others = s.others := rfl
@[simp] theorem setGang_nextId (k : Nat) (v : Gang) (s : State) : (setGang k v s).nextId = s.nextId := rfl
@[simp] theorem setGang_mem (k : Nat) (v : Gang) (s : State) : (setGang k v s).mem = s.mem := rfl
@[simp] theorem setGang_fe (k : Nat) (v : Gang) (s : State) : (setGang k v s).fe = s.fe := rfl
@[simp] theorem setGang_poison (k : Nat) (v : Gang) (s : State) : (setGang k v s).poison = s.poison := rfl
@[simp] theorem setGang_hostMem (k : Nat) (v : Gang) (s : State) : (setGang k v s).hostMem = s.hostMem := rfl
@[simp] theorem setGang_teams (k : Nat) (v : Gang) (s : State) : (setGang k v s).teams = s.teams := rfl
@[simp] theorem setGang_gangs (k : Nat) (v : Gang) (s : State) : (setGang k v s).gangs = Sparse.set Gang.vacant s.gangs k v := rfl
@[simp] theorem setGang_rounds (k : Nat) (v : Gang) (s : State) : (setGang k v s).rounds = s.rounds := rfl
@[simp] theorem setGang_gangNo (k : Nat) (v : Gang) (s : State) : (setGang k v s).gangNo = s.gangNo := rfl
@[simp] theorem setGang_cores (k : Nat) (v : Gang) (s : State) : (setGang k v s).cores = s.cores := rfl
@[simp] theorem setGang_rampUp (k : Nat) (v : Gang) (s : State) : (setGang k v s).rampUp = s.rampUp := rfl
@[simp] theorem setGang_rampDn (k : Nat) (v : Gang) (s : State) : (setGang k v s).rampDn = s.rampDn := rfl
@[simp] theorem setGang_ups (k : Nat) (v : Gang) (s : State) : (setGang k v s).ups = s.ups := rfl
@[simp] theorem setGang_downs (k : Nat) (v : Gang) (s : State) : (setGang k v s).downs = s.downs := rfl
@[simp] theorem setGang_engines (k : Nat) (v : Gang) (s : State) : (setGang k v s).engines = s.engines := rfl
@[simp] theorem setGang_locks (k : Nat) (v : Gang) (s : State) : (setGang k v s).locks = s.locks := rfl
@[simp] theorem setGang_auctions (k : Nat) (v : Gang) (s : State) : (setGang k v s).auctions = s.auctions := rfl
@[simp] theorem setGang_waits (k : Nat) (v : Gang) (s : State) : (setGang k v s).waits = s.waits := rfl
@[simp] theorem setGang_bins (k : Nat) (v : Gang) (s : State) : (setGang k v s).bins = s.bins := rfl
@[simp] theorem setGang_ctxs (k : Nat) (v : Gang) (s : State) : (setGang k v s).ctxs = s.ctxs := rfl
@[simp] theorem setGang_queues (k : Nat) (v : Gang) (s : State) : (setGang k v s).queues = s.queues := rfl
@[simp] theorem setGang_fills (k : Nat) (v : Gang) (s : State) : (setGang k v s).fills = s.fills := rfl
@[simp] theorem setGang_hostHeld (k : Nat) (v : Gang) (s : State) : (setGang k v s).hostHeld = s.hostHeld := rfl
@[simp] theorem setGang_invals (k : Nat) (v : Gang) (s : State) : (setGang k v s).invals = s.invals := rfl
@[simp] theorem setGang_tier (k : Nat) (v : Gang) (s : State) : (setGang k v s).tier = s.tier := rfl
@[simp] theorem setGang_code (k : Nat) (v : Gang) (s : State) : (setGang k v s).code = s.code := rfl
@[simp] theorem setGang_lgpod (k : Nat) (v : Gang) (s : State) : (setGang k v s).lgpod = s.lgpod := rfl
@[simp] theorem setGang_pkg (k : Nat) (v : Gang) (s : State) : (setGang k v s).pkg = s.pkg := rfl
@[simp] theorem setGang_relayq (k : Nat) (v : Gang) (s : State) : (setGang k v s).relayq = s.relayq := rfl
@[simp] theorem setGang_fwin (k : Nat) (v : Gang) (s : State) : (setGang k v s).fwin = s.fwin := rfl
@[simp] theorem setGang_barrow (k : Nat) (v : Gang) (s : State) : (setGang k v s).barrow = s.barrow := rfl
@[simp] theorem setGang_slotAt (k : Nat) (v : Gang) (s : State) : (setGang k v s).slotAt = s.slotAt := rfl
@[simp] theorem setGang_relay (k : Nat) (v : Gang) (s : State) : (setGang k v s).relay = s.relay := rfl
@[simp] theorem setGang_brokered (k : Nat) (v : Gang) (s : State) : (setGang k v s).brokered = s.brokered := rfl
@[simp] theorem setGang_split (k : Nat) (v : Gang) (s : State) : (setGang k v s).split = s.split := rfl
@[simp] theorem setGang_fibre (k : Nat) (v : Gang) (s : State) : (setGang k v s).fibre = s.fibre := rfl
@[simp] theorem setGang_l2host (k : Nat) (v : Gang) (s : State) : (setGang k v s).l2host = s.l2host := rfl
@[simp] theorem setGang_served (k : Nat) (v : Gang) (s : State) : (setGang k v s).served = s.served := rfl
@[simp] theorem setGang_prels (k : Nat) (v : Gang) (s : State) : (setGang k v s).prels = s.prels := rfl
@[simp] theorem setGang_arrivals (k : Nat) (v : Gang) (s : State) : (setGang k v s).arrivals = s.arrivals := rfl
@[simp] theorem setGang_episodes (k : Nat) (v : Gang) (s : State) : (setGang k v s).episodes = s.episodes := rfl
@[simp] theorem setGang_tokens (k : Nat) (v : Gang) (s : State) : (setGang k v s).tokens = s.tokens := rfl
@[simp] theorem setGang_health (k : Nat) (v : Gang) (s : State) : (setGang k v s).health = s.health := rfl
@[simp] theorem setGang_recovAt (k : Nat) (v : Gang) (s : State) : (setGang k v s).recovAt = s.recovAt := rfl
@[simp] theorem setGang_recovb (k : Nat) (v : Gang) (s : State) : (setGang k v s).recovb = s.recovb := rfl
@[simp] theorem setGang_sources (k : Nat) (v : Gang) (s : State) : (setGang k v s).sources = s.sources := rfl
@[simp] theorem setGang_ports (k : Nat) (v : Gang) (s : State) : (setGang k v s).ports = s.ports := rfl
@[simp] theorem setGang_peers (k : Nat) (v : Gang) (s : State) : (setGang k v s).peers = s.peers := rfl
@[simp] theorem setGang_events (k : Nat) (v : Gang) (s : State) : (setGang k v s).events = s.events := rfl
@[simp] theorem setGang_eventIdx (k : Nat) (v : Gang) (s : State) : (setGang k v s).eventIdx = s.eventIdx := rfl
@[simp] theorem setGang_lateEvents (k : Nat) (v : Gang) (s : State) : (setGang k v s).lateEvents = s.lateEvents := rfl
@[simp] theorem setGang_quiper (k : Nat) (v : Gang) (s : State) : (setGang k v s).quiper = s.quiper := rfl
@[simp] theorem setGang_i3cAddr (k : Nat) (v : Gang) (s : State) : (setGang k v s).i3cAddr = s.i3cAddr := rfl
@[simp] theorem setGang_daybook (k : Nat) (v : Gang) (s : State) : (setGang k v s).daybook = s.daybook := rfl
@[simp] theorem setGang_dayIdx (k : Nat) (v : Gang) (s : State) : (setGang k v s).dayIdx = s.dayIdx := rfl
@[simp] theorem setGang_eccAt (k : Nat) (v : Gang) (s : State) : (setGang k v s).eccAt = s.eccAt := rfl
@[simp] theorem setGang_scrubAt (k : Nat) (v : Gang) (s : State) : (setGang k v s).scrubAt = s.scrubAt := rfl
@[simp] theorem setGang_mirror (k : Nat) (v : Gang) (s : State) : (setGang k v s).mirror = s.mirror := rfl
@[simp] theorem setGang_repairs (k : Nat) (v : Gang) (s : State) : (setGang k v s).repairs = s.repairs := rfl
@[simp] theorem setGang_tbase (k : Nat) (v : Gang) (s : State) : (setGang k v s).tbase = s.tbase := rfl
@[simp] theorem setGang_power (k : Nat) (v : Gang) (s : State) : (setGang k v s).power = s.power := rfl
@[simp] theorem setGang_clocks (k : Nat) (v : Gang) (s : State) : (setGang k v s).clocks = s.clocks := rfl
@[simp] theorem setGang_bars (k : Nat) (v : Gang) (s : State) : (setGang k v s).bars = s.bars := rfl
@[simp] theorem setGang_fw (k : Nat) (v : Gang) (s : State) : (setGang k v s).fw = s.fw := rfl
@[simp] theorem setGang_apbase (k : Nat) (v : Gang) (s : State) : (setGang k v s).apbase = s.apbase := rfl
@[simp] theorem setGang_mgmtHeld (k : Nat) (v : Gang) (s : State) : (setGang k v s).mgmtHeld = s.mgmtHeld := rfl
@[simp] theorem setGang_mgmtRec (k : Nat) (v : Gang) (s : State) : (setGang k v s).mgmtRec = s.mgmtRec := rfl
@[simp] theorem setGang_out (k : Nat) (v : Gang) (s : State) : (setGang k v s).out = s.out := rfl

/-! ### setCore -/

@[simp] theorem setCore_agenda (p k : Nat) (v : Core) (s : State) : (setCore p k v s).agenda = s.agenda := rfl
@[simp] theorem setCore_steps (p k : Nat) (v : Core) (s : State) : (setCore p k v s).steps = s.steps := rfl
@[simp] theorem setCore_last (p k : Nat) (v : Core) (s : State) : (setCore p k v s).last = s.last := rfl
@[simp] theorem setCore_time (p k : Nat) (v : Core) (s : State) : (setCore p k v s).time = s.time := rfl
@[simp] theorem setCore_cur (p k : Nat) (v : Core) (s : State) : (setCore p k v s).cur = s.cur := rfl
@[simp] theorem setCore_others (p k : Nat) (v : Core) (s : State) : (setCore p k v s).others = s.others := rfl
@[simp] theorem setCore_nextId (p k : Nat) (v : Core) (s : State) : (setCore p k v s).nextId = s.nextId := rfl
@[simp] theorem setCore_mem (p k : Nat) (v : Core) (s : State) : (setCore p k v s).mem = s.mem := rfl
@[simp] theorem setCore_fe (p k : Nat) (v : Core) (s : State) : (setCore p k v s).fe = s.fe := rfl
@[simp] theorem setCore_poison (p k : Nat) (v : Core) (s : State) : (setCore p k v s).poison = s.poison := rfl
@[simp] theorem setCore_hostMem (p k : Nat) (v : Core) (s : State) : (setCore p k v s).hostMem = s.hostMem := rfl
@[simp] theorem setCore_teams (p k : Nat) (v : Core) (s : State) : (setCore p k v s).teams = s.teams := rfl
@[simp] theorem setCore_gangs (p k : Nat) (v : Core) (s : State) : (setCore p k v s).gangs = s.gangs := rfl
@[simp] theorem setCore_rounds (p k : Nat) (v : Core) (s : State) : (setCore p k v s).rounds = s.rounds := rfl
@[simp] theorem setCore_gangNo (p k : Nat) (v : Core) (s : State) : (setCore p k v s).gangNo = s.gangNo := rfl
@[simp] theorem setCore_cores (p k : Nat) (v : Core) (s : State) : (setCore p k v s).cores = Sparse.set Core.start s.cores (coreKey p k) v := rfl
@[simp] theorem setCore_rampUp (p k : Nat) (v : Core) (s : State) : (setCore p k v s).rampUp = s.rampUp := rfl
@[simp] theorem setCore_rampDn (p k : Nat) (v : Core) (s : State) : (setCore p k v s).rampDn = s.rampDn := rfl
@[simp] theorem setCore_ups (p k : Nat) (v : Core) (s : State) : (setCore p k v s).ups = s.ups := rfl
@[simp] theorem setCore_downs (p k : Nat) (v : Core) (s : State) : (setCore p k v s).downs = s.downs := rfl
@[simp] theorem setCore_engines (p k : Nat) (v : Core) (s : State) : (setCore p k v s).engines = s.engines := rfl
@[simp] theorem setCore_locks (p k : Nat) (v : Core) (s : State) : (setCore p k v s).locks = s.locks := rfl
@[simp] theorem setCore_auctions (p k : Nat) (v : Core) (s : State) : (setCore p k v s).auctions = s.auctions := rfl
@[simp] theorem setCore_waits (p k : Nat) (v : Core) (s : State) : (setCore p k v s).waits = s.waits := rfl
@[simp] theorem setCore_bins (p k : Nat) (v : Core) (s : State) : (setCore p k v s).bins = s.bins := rfl
@[simp] theorem setCore_ctxs (p k : Nat) (v : Core) (s : State) : (setCore p k v s).ctxs = s.ctxs := rfl
@[simp] theorem setCore_queues (p k : Nat) (v : Core) (s : State) : (setCore p k v s).queues = s.queues := rfl
@[simp] theorem setCore_fills (p k : Nat) (v : Core) (s : State) : (setCore p k v s).fills = s.fills := rfl
@[simp] theorem setCore_hostHeld (p k : Nat) (v : Core) (s : State) : (setCore p k v s).hostHeld = s.hostHeld := rfl
@[simp] theorem setCore_invals (p k : Nat) (v : Core) (s : State) : (setCore p k v s).invals = s.invals := rfl
@[simp] theorem setCore_tier (p k : Nat) (v : Core) (s : State) : (setCore p k v s).tier = s.tier := rfl
@[simp] theorem setCore_code (p k : Nat) (v : Core) (s : State) : (setCore p k v s).code = s.code := rfl
@[simp] theorem setCore_lgpod (p k : Nat) (v : Core) (s : State) : (setCore p k v s).lgpod = s.lgpod := rfl
@[simp] theorem setCore_pkg (p k : Nat) (v : Core) (s : State) : (setCore p k v s).pkg = s.pkg := rfl
@[simp] theorem setCore_relayq (p k : Nat) (v : Core) (s : State) : (setCore p k v s).relayq = s.relayq := rfl
@[simp] theorem setCore_fwin (p k : Nat) (v : Core) (s : State) : (setCore p k v s).fwin = s.fwin := rfl
@[simp] theorem setCore_barrow (p k : Nat) (v : Core) (s : State) : (setCore p k v s).barrow = s.barrow := rfl
@[simp] theorem setCore_slotAt (p k : Nat) (v : Core) (s : State) : (setCore p k v s).slotAt = s.slotAt := rfl
@[simp] theorem setCore_relay (p k : Nat) (v : Core) (s : State) : (setCore p k v s).relay = s.relay := rfl
@[simp] theorem setCore_brokered (p k : Nat) (v : Core) (s : State) : (setCore p k v s).brokered = s.brokered := rfl
@[simp] theorem setCore_split (p k : Nat) (v : Core) (s : State) : (setCore p k v s).split = s.split := rfl
@[simp] theorem setCore_fibre (p k : Nat) (v : Core) (s : State) : (setCore p k v s).fibre = s.fibre := rfl
@[simp] theorem setCore_l2host (p k : Nat) (v : Core) (s : State) : (setCore p k v s).l2host = s.l2host := rfl
@[simp] theorem setCore_served (p k : Nat) (v : Core) (s : State) : (setCore p k v s).served = s.served := rfl
@[simp] theorem setCore_prels (p k : Nat) (v : Core) (s : State) : (setCore p k v s).prels = s.prels := rfl
@[simp] theorem setCore_arrivals (p k : Nat) (v : Core) (s : State) : (setCore p k v s).arrivals = s.arrivals := rfl
@[simp] theorem setCore_episodes (p k : Nat) (v : Core) (s : State) : (setCore p k v s).episodes = s.episodes := rfl
@[simp] theorem setCore_tokens (p k : Nat) (v : Core) (s : State) : (setCore p k v s).tokens = s.tokens := rfl
@[simp] theorem setCore_health (p k : Nat) (v : Core) (s : State) : (setCore p k v s).health = s.health := rfl
@[simp] theorem setCore_recovAt (p k : Nat) (v : Core) (s : State) : (setCore p k v s).recovAt = s.recovAt := rfl
@[simp] theorem setCore_recovb (p k : Nat) (v : Core) (s : State) : (setCore p k v s).recovb = s.recovb := rfl
@[simp] theorem setCore_sources (p k : Nat) (v : Core) (s : State) : (setCore p k v s).sources = s.sources := rfl
@[simp] theorem setCore_ports (p k : Nat) (v : Core) (s : State) : (setCore p k v s).ports = s.ports := rfl
@[simp] theorem setCore_peers (p k : Nat) (v : Core) (s : State) : (setCore p k v s).peers = s.peers := rfl
@[simp] theorem setCore_events (p k : Nat) (v : Core) (s : State) : (setCore p k v s).events = s.events := rfl
@[simp] theorem setCore_eventIdx (p k : Nat) (v : Core) (s : State) : (setCore p k v s).eventIdx = s.eventIdx := rfl
@[simp] theorem setCore_lateEvents (p k : Nat) (v : Core) (s : State) : (setCore p k v s).lateEvents = s.lateEvents := rfl
@[simp] theorem setCore_quiper (p k : Nat) (v : Core) (s : State) : (setCore p k v s).quiper = s.quiper := rfl
@[simp] theorem setCore_i3cAddr (p k : Nat) (v : Core) (s : State) : (setCore p k v s).i3cAddr = s.i3cAddr := rfl
@[simp] theorem setCore_daybook (p k : Nat) (v : Core) (s : State) : (setCore p k v s).daybook = s.daybook := rfl
@[simp] theorem setCore_dayIdx (p k : Nat) (v : Core) (s : State) : (setCore p k v s).dayIdx = s.dayIdx := rfl
@[simp] theorem setCore_eccAt (p k : Nat) (v : Core) (s : State) : (setCore p k v s).eccAt = s.eccAt := rfl
@[simp] theorem setCore_scrubAt (p k : Nat) (v : Core) (s : State) : (setCore p k v s).scrubAt = s.scrubAt := rfl
@[simp] theorem setCore_mirror (p k : Nat) (v : Core) (s : State) : (setCore p k v s).mirror = s.mirror := rfl
@[simp] theorem setCore_repairs (p k : Nat) (v : Core) (s : State) : (setCore p k v s).repairs = s.repairs := rfl
@[simp] theorem setCore_tbase (p k : Nat) (v : Core) (s : State) : (setCore p k v s).tbase = s.tbase := rfl
@[simp] theorem setCore_power (p k : Nat) (v : Core) (s : State) : (setCore p k v s).power = s.power := rfl
@[simp] theorem setCore_clocks (p k : Nat) (v : Core) (s : State) : (setCore p k v s).clocks = s.clocks := rfl
@[simp] theorem setCore_bars (p k : Nat) (v : Core) (s : State) : (setCore p k v s).bars = s.bars := rfl
@[simp] theorem setCore_fw (p k : Nat) (v : Core) (s : State) : (setCore p k v s).fw = s.fw := rfl
@[simp] theorem setCore_apbase (p k : Nat) (v : Core) (s : State) : (setCore p k v s).apbase = s.apbase := rfl
@[simp] theorem setCore_mgmtHeld (p k : Nat) (v : Core) (s : State) : (setCore p k v s).mgmtHeld = s.mgmtHeld := rfl
@[simp] theorem setCore_mgmtRec (p k : Nat) (v : Core) (s : State) : (setCore p k v s).mgmtRec = s.mgmtRec := rfl
@[simp] theorem setCore_out (p k : Nat) (v : Core) (s : State) : (setCore p k v s).out = s.out := rfl

/-! ### setQueue -/

@[simp] theorem setQueue_agenda (k : Nat) (v : Queue) (s : State) : (setQueue k v s).agenda = s.agenda := rfl
@[simp] theorem setQueue_steps (k : Nat) (v : Queue) (s : State) : (setQueue k v s).steps = s.steps := rfl
@[simp] theorem setQueue_last (k : Nat) (v : Queue) (s : State) : (setQueue k v s).last = s.last := rfl
@[simp] theorem setQueue_time (k : Nat) (v : Queue) (s : State) : (setQueue k v s).time = s.time := rfl
@[simp] theorem setQueue_cur (k : Nat) (v : Queue) (s : State) : (setQueue k v s).cur = s.cur := rfl
@[simp] theorem setQueue_others (k : Nat) (v : Queue) (s : State) : (setQueue k v s).others = s.others := rfl
@[simp] theorem setQueue_nextId (k : Nat) (v : Queue) (s : State) : (setQueue k v s).nextId = s.nextId := rfl
@[simp] theorem setQueue_mem (k : Nat) (v : Queue) (s : State) : (setQueue k v s).mem = s.mem := rfl
@[simp] theorem setQueue_fe (k : Nat) (v : Queue) (s : State) : (setQueue k v s).fe = s.fe := rfl
@[simp] theorem setQueue_poison (k : Nat) (v : Queue) (s : State) : (setQueue k v s).poison = s.poison := rfl
@[simp] theorem setQueue_hostMem (k : Nat) (v : Queue) (s : State) : (setQueue k v s).hostMem = s.hostMem := rfl
@[simp] theorem setQueue_teams (k : Nat) (v : Queue) (s : State) : (setQueue k v s).teams = s.teams := rfl
@[simp] theorem setQueue_gangs (k : Nat) (v : Queue) (s : State) : (setQueue k v s).gangs = s.gangs := rfl
@[simp] theorem setQueue_rounds (k : Nat) (v : Queue) (s : State) : (setQueue k v s).rounds = s.rounds := rfl
@[simp] theorem setQueue_gangNo (k : Nat) (v : Queue) (s : State) : (setQueue k v s).gangNo = s.gangNo := rfl
@[simp] theorem setQueue_cores (k : Nat) (v : Queue) (s : State) : (setQueue k v s).cores = s.cores := rfl
@[simp] theorem setQueue_rampUp (k : Nat) (v : Queue) (s : State) : (setQueue k v s).rampUp = s.rampUp := rfl
@[simp] theorem setQueue_rampDn (k : Nat) (v : Queue) (s : State) : (setQueue k v s).rampDn = s.rampDn := rfl
@[simp] theorem setQueue_ups (k : Nat) (v : Queue) (s : State) : (setQueue k v s).ups = s.ups := rfl
@[simp] theorem setQueue_downs (k : Nat) (v : Queue) (s : State) : (setQueue k v s).downs = s.downs := rfl
@[simp] theorem setQueue_engines (k : Nat) (v : Queue) (s : State) : (setQueue k v s).engines = s.engines := rfl
@[simp] theorem setQueue_locks (k : Nat) (v : Queue) (s : State) : (setQueue k v s).locks = s.locks := rfl
@[simp] theorem setQueue_auctions (k : Nat) (v : Queue) (s : State) : (setQueue k v s).auctions = s.auctions := rfl
@[simp] theorem setQueue_waits (k : Nat) (v : Queue) (s : State) : (setQueue k v s).waits = s.waits := rfl
@[simp] theorem setQueue_bins (k : Nat) (v : Queue) (s : State) : (setQueue k v s).bins = s.bins := rfl
@[simp] theorem setQueue_ctxs (k : Nat) (v : Queue) (s : State) : (setQueue k v s).ctxs = s.ctxs := rfl
@[simp] theorem setQueue_queues (k : Nat) (v : Queue) (s : State) : (setQueue k v s).queues = Sparse.set Queue.vacant s.queues k v := rfl
@[simp] theorem setQueue_fills (k : Nat) (v : Queue) (s : State) : (setQueue k v s).fills = s.fills := rfl
@[simp] theorem setQueue_hostHeld (k : Nat) (v : Queue) (s : State) : (setQueue k v s).hostHeld = s.hostHeld := rfl
@[simp] theorem setQueue_invals (k : Nat) (v : Queue) (s : State) : (setQueue k v s).invals = s.invals := rfl
@[simp] theorem setQueue_tier (k : Nat) (v : Queue) (s : State) : (setQueue k v s).tier = s.tier := rfl
@[simp] theorem setQueue_code (k : Nat) (v : Queue) (s : State) : (setQueue k v s).code = s.code := rfl
@[simp] theorem setQueue_lgpod (k : Nat) (v : Queue) (s : State) : (setQueue k v s).lgpod = s.lgpod := rfl
@[simp] theorem setQueue_pkg (k : Nat) (v : Queue) (s : State) : (setQueue k v s).pkg = s.pkg := rfl
@[simp] theorem setQueue_relayq (k : Nat) (v : Queue) (s : State) : (setQueue k v s).relayq = s.relayq := rfl
@[simp] theorem setQueue_fwin (k : Nat) (v : Queue) (s : State) : (setQueue k v s).fwin = s.fwin := rfl
@[simp] theorem setQueue_barrow (k : Nat) (v : Queue) (s : State) : (setQueue k v s).barrow = s.barrow := rfl
@[simp] theorem setQueue_slotAt (k : Nat) (v : Queue) (s : State) : (setQueue k v s).slotAt = s.slotAt := rfl
@[simp] theorem setQueue_relay (k : Nat) (v : Queue) (s : State) : (setQueue k v s).relay = s.relay := rfl
@[simp] theorem setQueue_brokered (k : Nat) (v : Queue) (s : State) : (setQueue k v s).brokered = s.brokered := rfl
@[simp] theorem setQueue_split (k : Nat) (v : Queue) (s : State) : (setQueue k v s).split = s.split := rfl
@[simp] theorem setQueue_fibre (k : Nat) (v : Queue) (s : State) : (setQueue k v s).fibre = s.fibre := rfl
@[simp] theorem setQueue_l2host (k : Nat) (v : Queue) (s : State) : (setQueue k v s).l2host = s.l2host := rfl
@[simp] theorem setQueue_served (k : Nat) (v : Queue) (s : State) : (setQueue k v s).served = s.served := rfl
@[simp] theorem setQueue_prels (k : Nat) (v : Queue) (s : State) : (setQueue k v s).prels = s.prels := rfl
@[simp] theorem setQueue_arrivals (k : Nat) (v : Queue) (s : State) : (setQueue k v s).arrivals = s.arrivals := rfl
@[simp] theorem setQueue_episodes (k : Nat) (v : Queue) (s : State) : (setQueue k v s).episodes = s.episodes := rfl
@[simp] theorem setQueue_tokens (k : Nat) (v : Queue) (s : State) : (setQueue k v s).tokens = s.tokens := rfl
@[simp] theorem setQueue_health (k : Nat) (v : Queue) (s : State) : (setQueue k v s).health = s.health := rfl
@[simp] theorem setQueue_recovAt (k : Nat) (v : Queue) (s : State) : (setQueue k v s).recovAt = s.recovAt := rfl
@[simp] theorem setQueue_recovb (k : Nat) (v : Queue) (s : State) : (setQueue k v s).recovb = s.recovb := rfl
@[simp] theorem setQueue_sources (k : Nat) (v : Queue) (s : State) : (setQueue k v s).sources = s.sources := rfl
@[simp] theorem setQueue_ports (k : Nat) (v : Queue) (s : State) : (setQueue k v s).ports = s.ports := rfl
@[simp] theorem setQueue_peers (k : Nat) (v : Queue) (s : State) : (setQueue k v s).peers = s.peers := rfl
@[simp] theorem setQueue_events (k : Nat) (v : Queue) (s : State) : (setQueue k v s).events = s.events := rfl
@[simp] theorem setQueue_eventIdx (k : Nat) (v : Queue) (s : State) : (setQueue k v s).eventIdx = s.eventIdx := rfl
@[simp] theorem setQueue_lateEvents (k : Nat) (v : Queue) (s : State) : (setQueue k v s).lateEvents = s.lateEvents := rfl
@[simp] theorem setQueue_quiper (k : Nat) (v : Queue) (s : State) : (setQueue k v s).quiper = s.quiper := rfl
@[simp] theorem setQueue_i3cAddr (k : Nat) (v : Queue) (s : State) : (setQueue k v s).i3cAddr = s.i3cAddr := rfl
@[simp] theorem setQueue_daybook (k : Nat) (v : Queue) (s : State) : (setQueue k v s).daybook = s.daybook := rfl
@[simp] theorem setQueue_dayIdx (k : Nat) (v : Queue) (s : State) : (setQueue k v s).dayIdx = s.dayIdx := rfl
@[simp] theorem setQueue_eccAt (k : Nat) (v : Queue) (s : State) : (setQueue k v s).eccAt = s.eccAt := rfl
@[simp] theorem setQueue_scrubAt (k : Nat) (v : Queue) (s : State) : (setQueue k v s).scrubAt = s.scrubAt := rfl
@[simp] theorem setQueue_mirror (k : Nat) (v : Queue) (s : State) : (setQueue k v s).mirror = s.mirror := rfl
@[simp] theorem setQueue_repairs (k : Nat) (v : Queue) (s : State) : (setQueue k v s).repairs = s.repairs := rfl
@[simp] theorem setQueue_tbase (k : Nat) (v : Queue) (s : State) : (setQueue k v s).tbase = s.tbase := rfl
@[simp] theorem setQueue_power (k : Nat) (v : Queue) (s : State) : (setQueue k v s).power = s.power := rfl
@[simp] theorem setQueue_clocks (k : Nat) (v : Queue) (s : State) : (setQueue k v s).clocks = s.clocks := rfl
@[simp] theorem setQueue_bars (k : Nat) (v : Queue) (s : State) : (setQueue k v s).bars = s.bars := rfl
@[simp] theorem setQueue_fw (k : Nat) (v : Queue) (s : State) : (setQueue k v s).fw = s.fw := rfl
@[simp] theorem setQueue_apbase (k : Nat) (v : Queue) (s : State) : (setQueue k v s).apbase = s.apbase := rfl
@[simp] theorem setQueue_mgmtHeld (k : Nat) (v : Queue) (s : State) : (setQueue k v s).mgmtHeld = s.mgmtHeld := rfl
@[simp] theorem setQueue_mgmtRec (k : Nat) (v : Queue) (s : State) : (setQueue k v s).mgmtRec = s.mgmtRec := rfl
@[simp] theorem setQueue_out (k : Nat) (v : Queue) (s : State) : (setQueue k v s).out = s.out := rfl

/-! ### setPeer -/

@[simp] theorem setPeer_agenda (k : Nat) (v : Peer) (s : State) : (setPeer k v s).agenda = s.agenda := rfl
@[simp] theorem setPeer_steps (k : Nat) (v : Peer) (s : State) : (setPeer k v s).steps = s.steps := rfl
@[simp] theorem setPeer_last (k : Nat) (v : Peer) (s : State) : (setPeer k v s).last = s.last := rfl
@[simp] theorem setPeer_time (k : Nat) (v : Peer) (s : State) : (setPeer k v s).time = s.time := rfl
@[simp] theorem setPeer_cur (k : Nat) (v : Peer) (s : State) : (setPeer k v s).cur = s.cur := rfl
@[simp] theorem setPeer_others (k : Nat) (v : Peer) (s : State) : (setPeer k v s).others = s.others := rfl
@[simp] theorem setPeer_nextId (k : Nat) (v : Peer) (s : State) : (setPeer k v s).nextId = s.nextId := rfl
@[simp] theorem setPeer_mem (k : Nat) (v : Peer) (s : State) : (setPeer k v s).mem = s.mem := rfl
@[simp] theorem setPeer_fe (k : Nat) (v : Peer) (s : State) : (setPeer k v s).fe = s.fe := rfl
@[simp] theorem setPeer_poison (k : Nat) (v : Peer) (s : State) : (setPeer k v s).poison = s.poison := rfl
@[simp] theorem setPeer_hostMem (k : Nat) (v : Peer) (s : State) : (setPeer k v s).hostMem = s.hostMem := rfl
@[simp] theorem setPeer_teams (k : Nat) (v : Peer) (s : State) : (setPeer k v s).teams = s.teams := rfl
@[simp] theorem setPeer_gangs (k : Nat) (v : Peer) (s : State) : (setPeer k v s).gangs = s.gangs := rfl
@[simp] theorem setPeer_rounds (k : Nat) (v : Peer) (s : State) : (setPeer k v s).rounds = s.rounds := rfl
@[simp] theorem setPeer_gangNo (k : Nat) (v : Peer) (s : State) : (setPeer k v s).gangNo = s.gangNo := rfl
@[simp] theorem setPeer_cores (k : Nat) (v : Peer) (s : State) : (setPeer k v s).cores = s.cores := rfl
@[simp] theorem setPeer_rampUp (k : Nat) (v : Peer) (s : State) : (setPeer k v s).rampUp = s.rampUp := rfl
@[simp] theorem setPeer_rampDn (k : Nat) (v : Peer) (s : State) : (setPeer k v s).rampDn = s.rampDn := rfl
@[simp] theorem setPeer_ups (k : Nat) (v : Peer) (s : State) : (setPeer k v s).ups = s.ups := rfl
@[simp] theorem setPeer_downs (k : Nat) (v : Peer) (s : State) : (setPeer k v s).downs = s.downs := rfl
@[simp] theorem setPeer_engines (k : Nat) (v : Peer) (s : State) : (setPeer k v s).engines = s.engines := rfl
@[simp] theorem setPeer_locks (k : Nat) (v : Peer) (s : State) : (setPeer k v s).locks = s.locks := rfl
@[simp] theorem setPeer_auctions (k : Nat) (v : Peer) (s : State) : (setPeer k v s).auctions = s.auctions := rfl
@[simp] theorem setPeer_waits (k : Nat) (v : Peer) (s : State) : (setPeer k v s).waits = s.waits := rfl
@[simp] theorem setPeer_bins (k : Nat) (v : Peer) (s : State) : (setPeer k v s).bins = s.bins := rfl
@[simp] theorem setPeer_ctxs (k : Nat) (v : Peer) (s : State) : (setPeer k v s).ctxs = s.ctxs := rfl
@[simp] theorem setPeer_queues (k : Nat) (v : Peer) (s : State) : (setPeer k v s).queues = s.queues := rfl
@[simp] theorem setPeer_fills (k : Nat) (v : Peer) (s : State) : (setPeer k v s).fills = s.fills := rfl
@[simp] theorem setPeer_hostHeld (k : Nat) (v : Peer) (s : State) : (setPeer k v s).hostHeld = s.hostHeld := rfl
@[simp] theorem setPeer_invals (k : Nat) (v : Peer) (s : State) : (setPeer k v s).invals = s.invals := rfl
@[simp] theorem setPeer_tier (k : Nat) (v : Peer) (s : State) : (setPeer k v s).tier = s.tier := rfl
@[simp] theorem setPeer_code (k : Nat) (v : Peer) (s : State) : (setPeer k v s).code = s.code := rfl
@[simp] theorem setPeer_lgpod (k : Nat) (v : Peer) (s : State) : (setPeer k v s).lgpod = s.lgpod := rfl
@[simp] theorem setPeer_pkg (k : Nat) (v : Peer) (s : State) : (setPeer k v s).pkg = s.pkg := rfl
@[simp] theorem setPeer_relayq (k : Nat) (v : Peer) (s : State) : (setPeer k v s).relayq = s.relayq := rfl
@[simp] theorem setPeer_fwin (k : Nat) (v : Peer) (s : State) : (setPeer k v s).fwin = s.fwin := rfl
@[simp] theorem setPeer_barrow (k : Nat) (v : Peer) (s : State) : (setPeer k v s).barrow = s.barrow := rfl
@[simp] theorem setPeer_slotAt (k : Nat) (v : Peer) (s : State) : (setPeer k v s).slotAt = s.slotAt := rfl
@[simp] theorem setPeer_relay (k : Nat) (v : Peer) (s : State) : (setPeer k v s).relay = s.relay := rfl
@[simp] theorem setPeer_brokered (k : Nat) (v : Peer) (s : State) : (setPeer k v s).brokered = s.brokered := rfl
@[simp] theorem setPeer_split (k : Nat) (v : Peer) (s : State) : (setPeer k v s).split = s.split := rfl
@[simp] theorem setPeer_fibre (k : Nat) (v : Peer) (s : State) : (setPeer k v s).fibre = s.fibre := rfl
@[simp] theorem setPeer_l2host (k : Nat) (v : Peer) (s : State) : (setPeer k v s).l2host = s.l2host := rfl
@[simp] theorem setPeer_served (k : Nat) (v : Peer) (s : State) : (setPeer k v s).served = s.served := rfl
@[simp] theorem setPeer_prels (k : Nat) (v : Peer) (s : State) : (setPeer k v s).prels = s.prels := rfl
@[simp] theorem setPeer_arrivals (k : Nat) (v : Peer) (s : State) : (setPeer k v s).arrivals = s.arrivals := rfl
@[simp] theorem setPeer_episodes (k : Nat) (v : Peer) (s : State) : (setPeer k v s).episodes = s.episodes := rfl
@[simp] theorem setPeer_tokens (k : Nat) (v : Peer) (s : State) : (setPeer k v s).tokens = s.tokens := rfl
@[simp] theorem setPeer_health (k : Nat) (v : Peer) (s : State) : (setPeer k v s).health = s.health := rfl
@[simp] theorem setPeer_recovAt (k : Nat) (v : Peer) (s : State) : (setPeer k v s).recovAt = s.recovAt := rfl
@[simp] theorem setPeer_recovb (k : Nat) (v : Peer) (s : State) : (setPeer k v s).recovb = s.recovb := rfl
@[simp] theorem setPeer_sources (k : Nat) (v : Peer) (s : State) : (setPeer k v s).sources = s.sources := rfl
@[simp] theorem setPeer_ports (k : Nat) (v : Peer) (s : State) : (setPeer k v s).ports = s.ports := rfl
@[simp] theorem setPeer_peers (k : Nat) (v : Peer) (s : State) : (setPeer k v s).peers = Sparse.set Peer.start s.peers k v := rfl
@[simp] theorem setPeer_events (k : Nat) (v : Peer) (s : State) : (setPeer k v s).events = s.events := rfl
@[simp] theorem setPeer_eventIdx (k : Nat) (v : Peer) (s : State) : (setPeer k v s).eventIdx = s.eventIdx := rfl
@[simp] theorem setPeer_lateEvents (k : Nat) (v : Peer) (s : State) : (setPeer k v s).lateEvents = s.lateEvents := rfl
@[simp] theorem setPeer_quiper (k : Nat) (v : Peer) (s : State) : (setPeer k v s).quiper = s.quiper := rfl
@[simp] theorem setPeer_i3cAddr (k : Nat) (v : Peer) (s : State) : (setPeer k v s).i3cAddr = s.i3cAddr := rfl
@[simp] theorem setPeer_daybook (k : Nat) (v : Peer) (s : State) : (setPeer k v s).daybook = s.daybook := rfl
@[simp] theorem setPeer_dayIdx (k : Nat) (v : Peer) (s : State) : (setPeer k v s).dayIdx = s.dayIdx := rfl
@[simp] theorem setPeer_eccAt (k : Nat) (v : Peer) (s : State) : (setPeer k v s).eccAt = s.eccAt := rfl
@[simp] theorem setPeer_scrubAt (k : Nat) (v : Peer) (s : State) : (setPeer k v s).scrubAt = s.scrubAt := rfl
@[simp] theorem setPeer_mirror (k : Nat) (v : Peer) (s : State) : (setPeer k v s).mirror = s.mirror := rfl
@[simp] theorem setPeer_repairs (k : Nat) (v : Peer) (s : State) : (setPeer k v s).repairs = s.repairs := rfl
@[simp] theorem setPeer_tbase (k : Nat) (v : Peer) (s : State) : (setPeer k v s).tbase = s.tbase := rfl
@[simp] theorem setPeer_power (k : Nat) (v : Peer) (s : State) : (setPeer k v s).power = s.power := rfl
@[simp] theorem setPeer_clocks (k : Nat) (v : Peer) (s : State) : (setPeer k v s).clocks = s.clocks := rfl
@[simp] theorem setPeer_bars (k : Nat) (v : Peer) (s : State) : (setPeer k v s).bars = s.bars := rfl
@[simp] theorem setPeer_fw (k : Nat) (v : Peer) (s : State) : (setPeer k v s).fw = s.fw := rfl
@[simp] theorem setPeer_apbase (k : Nat) (v : Peer) (s : State) : (setPeer k v s).apbase = s.apbase := rfl
@[simp] theorem setPeer_mgmtHeld (k : Nat) (v : Peer) (s : State) : (setPeer k v s).mgmtHeld = s.mgmtHeld := rfl
@[simp] theorem setPeer_mgmtRec (k : Nat) (v : Peer) (s : State) : (setPeer k v s).mgmtRec = s.mgmtRec := rfl
@[simp] theorem setPeer_out (k : Nat) (v : Peer) (s : State) : (setPeer k v s).out = s.out := rfl

/-! ### setPort -/

@[simp] theorem setPort_agenda (k : Nat) (v : Port) (s : State) : (setPort k v s).agenda = s.agenda := rfl
@[simp] theorem setPort_steps (k : Nat) (v : Port) (s : State) : (setPort k v s).steps = s.steps := rfl
@[simp] theorem setPort_last (k : Nat) (v : Port) (s : State) : (setPort k v s).last = s.last := rfl
@[simp] theorem setPort_time (k : Nat) (v : Port) (s : State) : (setPort k v s).time = s.time := rfl
@[simp] theorem setPort_cur (k : Nat) (v : Port) (s : State) : (setPort k v s).cur = s.cur := rfl
@[simp] theorem setPort_others (k : Nat) (v : Port) (s : State) : (setPort k v s).others = s.others := rfl
@[simp] theorem setPort_nextId (k : Nat) (v : Port) (s : State) : (setPort k v s).nextId = s.nextId := rfl
@[simp] theorem setPort_mem (k : Nat) (v : Port) (s : State) : (setPort k v s).mem = s.mem := rfl
@[simp] theorem setPort_fe (k : Nat) (v : Port) (s : State) : (setPort k v s).fe = s.fe := rfl
@[simp] theorem setPort_poison (k : Nat) (v : Port) (s : State) : (setPort k v s).poison = s.poison := rfl
@[simp] theorem setPort_hostMem (k : Nat) (v : Port) (s : State) : (setPort k v s).hostMem = s.hostMem := rfl
@[simp] theorem setPort_teams (k : Nat) (v : Port) (s : State) : (setPort k v s).teams = s.teams := rfl
@[simp] theorem setPort_gangs (k : Nat) (v : Port) (s : State) : (setPort k v s).gangs = s.gangs := rfl
@[simp] theorem setPort_rounds (k : Nat) (v : Port) (s : State) : (setPort k v s).rounds = s.rounds := rfl
@[simp] theorem setPort_gangNo (k : Nat) (v : Port) (s : State) : (setPort k v s).gangNo = s.gangNo := rfl
@[simp] theorem setPort_cores (k : Nat) (v : Port) (s : State) : (setPort k v s).cores = s.cores := rfl
@[simp] theorem setPort_rampUp (k : Nat) (v : Port) (s : State) : (setPort k v s).rampUp = s.rampUp := rfl
@[simp] theorem setPort_rampDn (k : Nat) (v : Port) (s : State) : (setPort k v s).rampDn = s.rampDn := rfl
@[simp] theorem setPort_ups (k : Nat) (v : Port) (s : State) : (setPort k v s).ups = s.ups := rfl
@[simp] theorem setPort_downs (k : Nat) (v : Port) (s : State) : (setPort k v s).downs = s.downs := rfl
@[simp] theorem setPort_engines (k : Nat) (v : Port) (s : State) : (setPort k v s).engines = s.engines := rfl
@[simp] theorem setPort_locks (k : Nat) (v : Port) (s : State) : (setPort k v s).locks = s.locks := rfl
@[simp] theorem setPort_auctions (k : Nat) (v : Port) (s : State) : (setPort k v s).auctions = s.auctions := rfl
@[simp] theorem setPort_waits (k : Nat) (v : Port) (s : State) : (setPort k v s).waits = s.waits := rfl
@[simp] theorem setPort_bins (k : Nat) (v : Port) (s : State) : (setPort k v s).bins = s.bins := rfl
@[simp] theorem setPort_ctxs (k : Nat) (v : Port) (s : State) : (setPort k v s).ctxs = s.ctxs := rfl
@[simp] theorem setPort_queues (k : Nat) (v : Port) (s : State) : (setPort k v s).queues = s.queues := rfl
@[simp] theorem setPort_fills (k : Nat) (v : Port) (s : State) : (setPort k v s).fills = s.fills := rfl
@[simp] theorem setPort_hostHeld (k : Nat) (v : Port) (s : State) : (setPort k v s).hostHeld = s.hostHeld := rfl
@[simp] theorem setPort_invals (k : Nat) (v : Port) (s : State) : (setPort k v s).invals = s.invals := rfl
@[simp] theorem setPort_tier (k : Nat) (v : Port) (s : State) : (setPort k v s).tier = s.tier := rfl
@[simp] theorem setPort_code (k : Nat) (v : Port) (s : State) : (setPort k v s).code = s.code := rfl
@[simp] theorem setPort_lgpod (k : Nat) (v : Port) (s : State) : (setPort k v s).lgpod = s.lgpod := rfl
@[simp] theorem setPort_pkg (k : Nat) (v : Port) (s : State) : (setPort k v s).pkg = s.pkg := rfl
@[simp] theorem setPort_relayq (k : Nat) (v : Port) (s : State) : (setPort k v s).relayq = s.relayq := rfl
@[simp] theorem setPort_fwin (k : Nat) (v : Port) (s : State) : (setPort k v s).fwin = s.fwin := rfl
@[simp] theorem setPort_barrow (k : Nat) (v : Port) (s : State) : (setPort k v s).barrow = s.barrow := rfl
@[simp] theorem setPort_slotAt (k : Nat) (v : Port) (s : State) : (setPort k v s).slotAt = s.slotAt := rfl
@[simp] theorem setPort_relay (k : Nat) (v : Port) (s : State) : (setPort k v s).relay = s.relay := rfl
@[simp] theorem setPort_brokered (k : Nat) (v : Port) (s : State) : (setPort k v s).brokered = s.brokered := rfl
@[simp] theorem setPort_split (k : Nat) (v : Port) (s : State) : (setPort k v s).split = s.split := rfl
@[simp] theorem setPort_fibre (k : Nat) (v : Port) (s : State) : (setPort k v s).fibre = s.fibre := rfl
@[simp] theorem setPort_l2host (k : Nat) (v : Port) (s : State) : (setPort k v s).l2host = s.l2host := rfl
@[simp] theorem setPort_served (k : Nat) (v : Port) (s : State) : (setPort k v s).served = s.served := rfl
@[simp] theorem setPort_prels (k : Nat) (v : Port) (s : State) : (setPort k v s).prels = s.prels := rfl
@[simp] theorem setPort_arrivals (k : Nat) (v : Port) (s : State) : (setPort k v s).arrivals = s.arrivals := rfl
@[simp] theorem setPort_episodes (k : Nat) (v : Port) (s : State) : (setPort k v s).episodes = s.episodes := rfl
@[simp] theorem setPort_tokens (k : Nat) (v : Port) (s : State) : (setPort k v s).tokens = s.tokens := rfl
@[simp] theorem setPort_health (k : Nat) (v : Port) (s : State) : (setPort k v s).health = s.health := rfl
@[simp] theorem setPort_recovAt (k : Nat) (v : Port) (s : State) : (setPort k v s).recovAt = s.recovAt := rfl
@[simp] theorem setPort_recovb (k : Nat) (v : Port) (s : State) : (setPort k v s).recovb = s.recovb := rfl
@[simp] theorem setPort_sources (k : Nat) (v : Port) (s : State) : (setPort k v s).sources = s.sources := rfl
@[simp] theorem setPort_ports (k : Nat) (v : Port) (s : State) : (setPort k v s).ports = Sparse.set Port.start s.ports k v := rfl
@[simp] theorem setPort_peers (k : Nat) (v : Port) (s : State) : (setPort k v s).peers = s.peers := rfl
@[simp] theorem setPort_events (k : Nat) (v : Port) (s : State) : (setPort k v s).events = s.events := rfl
@[simp] theorem setPort_eventIdx (k : Nat) (v : Port) (s : State) : (setPort k v s).eventIdx = s.eventIdx := rfl
@[simp] theorem setPort_lateEvents (k : Nat) (v : Port) (s : State) : (setPort k v s).lateEvents = s.lateEvents := rfl
@[simp] theorem setPort_quiper (k : Nat) (v : Port) (s : State) : (setPort k v s).quiper = s.quiper := rfl
@[simp] theorem setPort_i3cAddr (k : Nat) (v : Port) (s : State) : (setPort k v s).i3cAddr = s.i3cAddr := rfl
@[simp] theorem setPort_daybook (k : Nat) (v : Port) (s : State) : (setPort k v s).daybook = s.daybook := rfl
@[simp] theorem setPort_dayIdx (k : Nat) (v : Port) (s : State) : (setPort k v s).dayIdx = s.dayIdx := rfl
@[simp] theorem setPort_eccAt (k : Nat) (v : Port) (s : State) : (setPort k v s).eccAt = s.eccAt := rfl
@[simp] theorem setPort_scrubAt (k : Nat) (v : Port) (s : State) : (setPort k v s).scrubAt = s.scrubAt := rfl
@[simp] theorem setPort_mirror (k : Nat) (v : Port) (s : State) : (setPort k v s).mirror = s.mirror := rfl
@[simp] theorem setPort_repairs (k : Nat) (v : Port) (s : State) : (setPort k v s).repairs = s.repairs := rfl
@[simp] theorem setPort_tbase (k : Nat) (v : Port) (s : State) : (setPort k v s).tbase = s.tbase := rfl
@[simp] theorem setPort_power (k : Nat) (v : Port) (s : State) : (setPort k v s).power = s.power := rfl
@[simp] theorem setPort_clocks (k : Nat) (v : Port) (s : State) : (setPort k v s).clocks = s.clocks := rfl
@[simp] theorem setPort_bars (k : Nat) (v : Port) (s : State) : (setPort k v s).bars = s.bars := rfl
@[simp] theorem setPort_fw (k : Nat) (v : Port) (s : State) : (setPort k v s).fw = s.fw := rfl
@[simp] theorem setPort_apbase (k : Nat) (v : Port) (s : State) : (setPort k v s).apbase = s.apbase := rfl
@[simp] theorem setPort_mgmtHeld (k : Nat) (v : Port) (s : State) : (setPort k v s).mgmtHeld = s.mgmtHeld := rfl
@[simp] theorem setPort_mgmtRec (k : Nat) (v : Port) (s : State) : (setPort k v s).mgmtRec = s.mgmtRec := rfl
@[simp] theorem setPort_out (k : Nat) (v : Port) (s : State) : (setPort k v s).out = s.out := rfl

/-! ### setSource -/

@[simp] theorem setSource_agenda (k : Nat) (v : Source) (s : State) : (setSource k v s).agenda = s.agenda := rfl
@[simp] theorem setSource_steps (k : Nat) (v : Source) (s : State) : (setSource k v s).steps = s.steps := rfl
@[simp] theorem setSource_last (k : Nat) (v : Source) (s : State) : (setSource k v s).last = s.last := rfl
@[simp] theorem setSource_time (k : Nat) (v : Source) (s : State) : (setSource k v s).time = s.time := rfl
@[simp] theorem setSource_cur (k : Nat) (v : Source) (s : State) : (setSource k v s).cur = s.cur := rfl
@[simp] theorem setSource_others (k : Nat) (v : Source) (s : State) : (setSource k v s).others = s.others := rfl
@[simp] theorem setSource_nextId (k : Nat) (v : Source) (s : State) : (setSource k v s).nextId = s.nextId := rfl
@[simp] theorem setSource_mem (k : Nat) (v : Source) (s : State) : (setSource k v s).mem = s.mem := rfl
@[simp] theorem setSource_fe (k : Nat) (v : Source) (s : State) : (setSource k v s).fe = s.fe := rfl
@[simp] theorem setSource_poison (k : Nat) (v : Source) (s : State) : (setSource k v s).poison = s.poison := rfl
@[simp] theorem setSource_hostMem (k : Nat) (v : Source) (s : State) : (setSource k v s).hostMem = s.hostMem := rfl
@[simp] theorem setSource_teams (k : Nat) (v : Source) (s : State) : (setSource k v s).teams = s.teams := rfl
@[simp] theorem setSource_gangs (k : Nat) (v : Source) (s : State) : (setSource k v s).gangs = s.gangs := rfl
@[simp] theorem setSource_rounds (k : Nat) (v : Source) (s : State) : (setSource k v s).rounds = s.rounds := rfl
@[simp] theorem setSource_gangNo (k : Nat) (v : Source) (s : State) : (setSource k v s).gangNo = s.gangNo := rfl
@[simp] theorem setSource_cores (k : Nat) (v : Source) (s : State) : (setSource k v s).cores = s.cores := rfl
@[simp] theorem setSource_rampUp (k : Nat) (v : Source) (s : State) : (setSource k v s).rampUp = s.rampUp := rfl
@[simp] theorem setSource_rampDn (k : Nat) (v : Source) (s : State) : (setSource k v s).rampDn = s.rampDn := rfl
@[simp] theorem setSource_ups (k : Nat) (v : Source) (s : State) : (setSource k v s).ups = s.ups := rfl
@[simp] theorem setSource_downs (k : Nat) (v : Source) (s : State) : (setSource k v s).downs = s.downs := rfl
@[simp] theorem setSource_engines (k : Nat) (v : Source) (s : State) : (setSource k v s).engines = s.engines := rfl
@[simp] theorem setSource_locks (k : Nat) (v : Source) (s : State) : (setSource k v s).locks = s.locks := rfl
@[simp] theorem setSource_auctions (k : Nat) (v : Source) (s : State) : (setSource k v s).auctions = s.auctions := rfl
@[simp] theorem setSource_waits (k : Nat) (v : Source) (s : State) : (setSource k v s).waits = s.waits := rfl
@[simp] theorem setSource_bins (k : Nat) (v : Source) (s : State) : (setSource k v s).bins = s.bins := rfl
@[simp] theorem setSource_ctxs (k : Nat) (v : Source) (s : State) : (setSource k v s).ctxs = s.ctxs := rfl
@[simp] theorem setSource_queues (k : Nat) (v : Source) (s : State) : (setSource k v s).queues = s.queues := rfl
@[simp] theorem setSource_fills (k : Nat) (v : Source) (s : State) : (setSource k v s).fills = s.fills := rfl
@[simp] theorem setSource_hostHeld (k : Nat) (v : Source) (s : State) : (setSource k v s).hostHeld = s.hostHeld := rfl
@[simp] theorem setSource_invals (k : Nat) (v : Source) (s : State) : (setSource k v s).invals = s.invals := rfl
@[simp] theorem setSource_tier (k : Nat) (v : Source) (s : State) : (setSource k v s).tier = s.tier := rfl
@[simp] theorem setSource_code (k : Nat) (v : Source) (s : State) : (setSource k v s).code = s.code := rfl
@[simp] theorem setSource_lgpod (k : Nat) (v : Source) (s : State) : (setSource k v s).lgpod = s.lgpod := rfl
@[simp] theorem setSource_pkg (k : Nat) (v : Source) (s : State) : (setSource k v s).pkg = s.pkg := rfl
@[simp] theorem setSource_relayq (k : Nat) (v : Source) (s : State) : (setSource k v s).relayq = s.relayq := rfl
@[simp] theorem setSource_fwin (k : Nat) (v : Source) (s : State) : (setSource k v s).fwin = s.fwin := rfl
@[simp] theorem setSource_barrow (k : Nat) (v : Source) (s : State) : (setSource k v s).barrow = s.barrow := rfl
@[simp] theorem setSource_slotAt (k : Nat) (v : Source) (s : State) : (setSource k v s).slotAt = s.slotAt := rfl
@[simp] theorem setSource_relay (k : Nat) (v : Source) (s : State) : (setSource k v s).relay = s.relay := rfl
@[simp] theorem setSource_brokered (k : Nat) (v : Source) (s : State) : (setSource k v s).brokered = s.brokered := rfl
@[simp] theorem setSource_split (k : Nat) (v : Source) (s : State) : (setSource k v s).split = s.split := rfl
@[simp] theorem setSource_fibre (k : Nat) (v : Source) (s : State) : (setSource k v s).fibre = s.fibre := rfl
@[simp] theorem setSource_l2host (k : Nat) (v : Source) (s : State) : (setSource k v s).l2host = s.l2host := rfl
@[simp] theorem setSource_served (k : Nat) (v : Source) (s : State) : (setSource k v s).served = s.served := rfl
@[simp] theorem setSource_prels (k : Nat) (v : Source) (s : State) : (setSource k v s).prels = s.prels := rfl
@[simp] theorem setSource_arrivals (k : Nat) (v : Source) (s : State) : (setSource k v s).arrivals = s.arrivals := rfl
@[simp] theorem setSource_episodes (k : Nat) (v : Source) (s : State) : (setSource k v s).episodes = s.episodes := rfl
@[simp] theorem setSource_tokens (k : Nat) (v : Source) (s : State) : (setSource k v s).tokens = s.tokens := rfl
@[simp] theorem setSource_health (k : Nat) (v : Source) (s : State) : (setSource k v s).health = s.health := rfl
@[simp] theorem setSource_recovAt (k : Nat) (v : Source) (s : State) : (setSource k v s).recovAt = s.recovAt := rfl
@[simp] theorem setSource_recovb (k : Nat) (v : Source) (s : State) : (setSource k v s).recovb = s.recovb := rfl
@[simp] theorem setSource_sources (k : Nat) (v : Source) (s : State) : (setSource k v s).sources = Sparse.set Source.start s.sources k v := rfl
@[simp] theorem setSource_ports (k : Nat) (v : Source) (s : State) : (setSource k v s).ports = s.ports := rfl
@[simp] theorem setSource_peers (k : Nat) (v : Source) (s : State) : (setSource k v s).peers = s.peers := rfl
@[simp] theorem setSource_events (k : Nat) (v : Source) (s : State) : (setSource k v s).events = s.events := rfl
@[simp] theorem setSource_eventIdx (k : Nat) (v : Source) (s : State) : (setSource k v s).eventIdx = s.eventIdx := rfl
@[simp] theorem setSource_lateEvents (k : Nat) (v : Source) (s : State) : (setSource k v s).lateEvents = s.lateEvents := rfl
@[simp] theorem setSource_quiper (k : Nat) (v : Source) (s : State) : (setSource k v s).quiper = s.quiper := rfl
@[simp] theorem setSource_i3cAddr (k : Nat) (v : Source) (s : State) : (setSource k v s).i3cAddr = s.i3cAddr := rfl
@[simp] theorem setSource_daybook (k : Nat) (v : Source) (s : State) : (setSource k v s).daybook = s.daybook := rfl
@[simp] theorem setSource_dayIdx (k : Nat) (v : Source) (s : State) : (setSource k v s).dayIdx = s.dayIdx := rfl
@[simp] theorem setSource_eccAt (k : Nat) (v : Source) (s : State) : (setSource k v s).eccAt = s.eccAt := rfl
@[simp] theorem setSource_scrubAt (k : Nat) (v : Source) (s : State) : (setSource k v s).scrubAt = s.scrubAt := rfl
@[simp] theorem setSource_mirror (k : Nat) (v : Source) (s : State) : (setSource k v s).mirror = s.mirror := rfl
@[simp] theorem setSource_repairs (k : Nat) (v : Source) (s : State) : (setSource k v s).repairs = s.repairs := rfl
@[simp] theorem setSource_tbase (k : Nat) (v : Source) (s : State) : (setSource k v s).tbase = s.tbase := rfl
@[simp] theorem setSource_power (k : Nat) (v : Source) (s : State) : (setSource k v s).power = s.power := rfl
@[simp] theorem setSource_clocks (k : Nat) (v : Source) (s : State) : (setSource k v s).clocks = s.clocks := rfl
@[simp] theorem setSource_bars (k : Nat) (v : Source) (s : State) : (setSource k v s).bars = s.bars := rfl
@[simp] theorem setSource_fw (k : Nat) (v : Source) (s : State) : (setSource k v s).fw = s.fw := rfl
@[simp] theorem setSource_apbase (k : Nat) (v : Source) (s : State) : (setSource k v s).apbase = s.apbase := rfl
@[simp] theorem setSource_mgmtHeld (k : Nat) (v : Source) (s : State) : (setSource k v s).mgmtHeld = s.mgmtHeld := rfl
@[simp] theorem setSource_mgmtRec (k : Nat) (v : Source) (s : State) : (setSource k v s).mgmtRec = s.mgmtRec := rfl
@[simp] theorem setSource_out (k : Nat) (v : Source) (s : State) : (setSource k v s).out = s.out := rfl

/-! ### Reads after writes -/

@[simp] theorem getCtx_setCtx (k j : Nat) (v : Ctx) (s : State) : getCtx (setCtx k v s) j = if j = k then v else getCtx s j := by
  simp [getCtx, setCtx]

@[simp] theorem getTeam_setTeam (k j : Nat) (v : Team) (s : State) : getTeam (setTeam k v s) j = if j = k then v else getTeam s j := by
  simp [getTeam, setTeam]

@[simp] theorem getGang_setGang (k j : Nat) (v : Gang) (s : State) : getGang (setGang k v s) j = if j = k then v else getGang s j := by
  simp [getGang, setGang]

@[simp] theorem getQueue_setQueue (k j : Nat) (v : Queue) (s : State) : getQueue (setQueue k v s) j = if j = k then v else getQueue s j := by
  simp [getQueue, setQueue]

@[simp] theorem getPeer_setPeer (k j : Nat) (v : Peer) (s : State) : getPeer (setPeer k v s) j = if j = k then v else getPeer s j := by
  simp [getPeer, setPeer]

@[simp] theorem getPort_setPort (k j : Nat) (v : Port) (s : State) : getPort (setPort k v s) j = if j = k then v else getPort s j := by
  simp [getPort, setPort]

@[simp] theorem getSource_setSource (k j : Nat) (v : Source) (s : State) : getSource (setSource k v s) j = if j = k then v else getSource s j := by
  simp [getSource, setSource]

/-! ### The group at the issue port -/

@[simp] theorem gotoPc_live (p : DWord) (g : Group) : (gotoPc p g).live = g.live := rfl
@[simp] theorem gotoPc_id (p : DWord) (g : Group) : (gotoPc p g).id = g.id := rfl
@[simp] theorem gotoPc_team (p : DWord) (g : Group) : (gotoPc p g).team = g.team := rfl
@[simp] theorem gotoPc_gang (p : DWord) (g : Group) : (gotoPc p g).gang = g.gang := rfl
@[simp] theorem gotoPc_ctx (p : DWord) (g : Group) : (gotoPc p g).ctx = g.ctx := rfl
@[simp] theorem gotoPc_part (p : DWord) (g : Group) : (gotoPc p g).part = g.part := rfl
@[simp] theorem gotoPc_core (p : DWord) (g : Group) : (gotoPc p g).core = g.core := rfl
@[simp] theorem gotoPc_follower (p : DWord) (g : Group) : (gotoPc p g).follower = g.follower := rfl
@[simp] theorem gotoPc_quarter (p : DWord) (g : Group) : (gotoPc p g).quarter = g.quarter := rfl
@[simp] theorem gotoPc_slot (p : DWord) (g : Group) : (gotoPc p g).slot = g.slot := rfl
@[simp] theorem gotoPc_base (p : DWord) (g : Group) : (gotoPc p g).base = g.base := rfl
@[simp] theorem gotoPc_lgw (p : DWord) (g : Group) : (gotoPc p g).lgw = g.lgw := rfl
@[simp] theorem gotoPc_teamIdx (p : DWord) (g : Group) : (gotoPc p g).teamIdx = g.teamIdx := rfl
@[simp] theorem gotoPc_hdr (p : DWord) (g : Group) : (gotoPc p g).hdr = g.hdr := rfl
@[simp] theorem gotoPc_rest (p : DWord) (g : Group) : (gotoPc p g).rest = g.rest := rfl
@[simp] theorem gotoPc_shelf (p : DWord) (g : Group) : (gotoPc p g).shelf = g.shelf := rfl
@[simp] theorem gotoPc_exited (p : DWord) (g : Group) : (gotoPc p g).exited = g.exited := rfl
@[simp] theorem gotoPc_regs (p : DWord) (g : Group) : (gotoPc p g).regs = g.regs := rfl
@[simp] theorem gotoPc_rpoison (p : DWord) (g : Group) : (gotoPc p g).rpoison = g.rpoison := rfl
@[simp] theorem gotoPc_preds (p : DWord) (g : Group) : (gotoPc p g).preds = g.preds := rfl
@[simp] theorem gotoPc_gm (p : DWord) (g : Group) : (gotoPc p g).gm = g.gm := rfl
@[simp] theorem gotoPc_xi (p : DWord) (g : Group) : (gotoPc p g).xi = g.xi := rfl
@[simp] theorem gotoPc_tregs (p : DWord) (g : Group) : (gotoPc p g).tregs = g.tregs := rfl
@[simp] theorem gotoPc_cntL (p : DWord) (g : Group) : (gotoPc p g).cntL = g.cntL := rfl
@[simp] theorem gotoPc_cntS (p : DWord) (g : Group) : (gotoPc p g).cntS = g.cntS := rfl
@[simp] theorem gotoPc_cntC (p : DWord) (g : Group) : (gotoPc p g).cntC = g.cntC := rfl
@[simp] theorem gotoPc_cntT (p : DWord) (g : Group) : (gotoPc p g).cntT = g.cntT := rfl
@[simp] theorem gotoPc_sig (p : DWord) (g : Group) : (gotoPc p g).sig = g.sig := rfl
@[simp] theorem gotoPc_steady (p : DWord) (g : Group) : (gotoPc p g).steady = g.steady := rfl
@[simp] theorem gotoPc_idemr (p : DWord) (g : Group) : (gotoPc p g).idemr = g.idemr := rfl
@[simp] theorem gotoPc_region (p : DWord) (g : Group) : (gotoPc p g).region = g.region := rfl
@[simp] theorem gotoPc_rckp (p : DWord) (g : Group) : (gotoPc p g).rckp = g.rckp := rfl
@[simp] theorem gotoPc_kmask (p : DWord) (g : Group) : (gotoPc p g).kmask = g.kmask := rfl
@[simp] theorem gotoPc_cchn (p : DWord) (g : Group) : (gotoPc p g).cchn = g.cchn := rfl
@[simp] theorem gotoPc_ccnt (p : DWord) (g : Group) : (gotoPc p g).ccnt = g.ccnt := rfl
@[simp] theorem gotoPc_tcause (p : DWord) (g : Group) : (gotoPc p g).tcause = g.tcause := rfl
@[simp] theorem gotoPc_tval (p : DWord) (g : Group) : (gotoPc p g).tval = g.tval := rfl
@[simp] theorem gotoPc_tpc (p : DWord) (g : Group) : (gotoPc p g).tpc = g.tpc := rfl
@[simp] theorem gotoPc_inTrap (p : DWord) (g : Group) : (gotoPc p g).inTrap = g.inTrap := rfl
@[simp] theorem gotoPc_trapMask (p : DWord) (g : Group) : (gotoPc p g).trapMask = g.trapMask := rfl
@[simp] theorem gotoPc_trapMrg (p : DWord) (g : Group) : (gotoPc p g).trapMrg = g.trapMrg := rfl
@[simp] theorem gotoPc_replay (p : DWord) (g : Group) : (gotoPc p g).replay = g.replay := rfl
@[simp] theorem gotoPc_pgrp (p : DWord) (g : Group) : (gotoPc p g).pgrp = g.pgrp := rfl
@[simp] theorem gotoPc_feb (p : DWord) (g : Group) : (gotoPc p g).feb = g.feb := rfl
@[simp] theorem gotoPc_outs (p : DWord) (g : Group) : (gotoPc p g).outs = g.outs := rfl
@[simp] theorem gotoPc_stall (p : DWord) (g : Group) : (gotoPc p g).stall = g.stall := rfl
@[simp] theorem gotoPc_efails (p : DWord) (g : Group) : (gotoPc p g).efails = g.efails := rfl
@[simp] theorem gotoPc_stopped (p : DWord) (g : Group) : (gotoPc p g).stopped = g.stopped := rfl
@[simp] theorem gotoPc_preempt (p : DWord) (g : Group) : (gotoPc p g).preempt = g.preempt := rfl
@[simp] theorem gotoPc_saveArea (p : DWord) (g : Group) : (gotoPc p g).saveArea = g.saveArea := rfl
@[simp] theorem gotoPc_restoreArea (p : DWord) (g : Group) : (gotoPc p g).restoreArea = g.restoreArea := rfl
@[simp] theorem gotoPc_saving (p : DWord) (g : Group) : (gotoPc p g).saving = g.saving := rfl
@[simp] theorem gotoPc_parked (p : DWord) (g : Group) : (gotoPc p g).parked = g.parked := rfl
@[simp] theorem gotoPc_cont (p : DWord) (g : Group) : (gotoPc p g).cont = g.cont := rfl
@[simp] theorem gotoPc_restoring (p : DWord) (g : Group) : (gotoPc p g).restoring = g.restoring := rfl
@[simp] theorem gotoPc_lastSwap (p : DWord) (g : Group) : (gotoPc p g).lastSwap = g.lastSwap := rfl
@[simp] theorem gotoPc_waited (p : DWord) (g : Group) : (gotoPc p g).waited = g.waited := rfl
@[simp] theorem gotoPc_starved (p : DWord) (g : Group) : (gotoPc p g).starved = g.starved := rfl
@[simp] theorem gotoPc_aged (p : DWord) (g : Group) : (gotoPc p g).aged = g.aged := rfl
@[simp] theorem gotoPc_noProg (p : DWord) (g : Group) : (gotoPc p g).noProg = g.noProg := rfl
@[simp] theorem gotoPc_inherits (p : DWord) (g : Group) : (gotoPc p g).inherits = g.inherits := rfl
@[simp] theorem gotoPc_strand (p : DWord) (g : Group) : (gotoPc p g).strand = { g.strand with pc := p, replay := none } := rfl
theorem nextPc_eq (g : Group) : nextPc g = gotoPc (g.strand.pc + 4) g := rfl

end Sys2Proof.Machine
end

