-- ==== Sys2Proof/Laws/Registers.lean ====
section
/-! SUPPORT. What the shared operations on registers, predicates and issue do, each said once. -/

namespace Sys2Proof.Machine

/-! ### Lanes -/

theorem getLsbD_fullMask (w l : Nat) : (fullMask w).getLsbD l = (decide (l < 128) && decide (l < w)) := by
  simp [fullMask, BitVec.getLsbD_ofNat, Nat.testBit_two_pow_sub_one]

theorem getLsbD_residentLanes (g : Group) (l : Nat) (h : l < 128) :
    (residentLanes g).getLsbD l = (decide (l < width g) && !g.exited.getLsbD l) := by
  rw [residentLanes, BitVec.getLsbD_and, BitVec.getLsbD_not, getLsbD_fullMask]
  simp [h]

@[simp] theorem norm_lane (v : RegVal) (l : Nat) : v.norm.lane l = v.lane l := by
  cases v with
  | u a => rfl
  | a b s =>
    simp only [RegVal.norm]
    split
    · subst_vars; simp [RegVal.lane]
    · rfl
  | g ls => rfl

theorem mergeLanes_lane (g : Group) (en : Mask) (old new : RegVal) (l : Nat) (h : l < width g) :
    (mergeLanes g en old new).lane l = if en.getLsbD l then new.lane l else old.lane l := by
  simp [mergeLanes, RegVal.lane, List.getD, h]

/-- R25, R26: a write gives the enabled lanes the new value and leaves the others, whatever the shapes. -/
theorem mergeReg_lane (g : Group) (en : Mask) (old new : RegVal) (l : Nat) (h : l < width g) (h1 : l < 128)
    (hx : g.exited.getLsbD l = false) :
    (mergeReg g en old new).lane l = if en.getLsbD l then new.lane l else old.lane l := by
  unfold mergeReg
  split
  · rename_i he; simp [he]
  · split
    · rename_i he
      have hl : en.getLsbD l = true := by rw [he, getLsbD_residentLanes g l h1]; simp [h, hx]
      rw [if_pos hl, ← norm_lane new]
      split <;> rename_i hn <;> rw [hn]
      rw [mergeLanes_lane g en old _ l h, if_pos hl]
    · split
      · rename_i he
        simp only [Bool.and_eq_true, decide_eq_true_eq] at he
        rw [he.1]; simp
      · exact mergeLanes_lane g en old new l h

/-! ### Registers and predicates -/

@[simp] theorem saveFirst_regs (r : Nat) (g : Group) : (saveFirst r g).regs = g.regs := by
  unfold saveFirst; split <;> (try split) <;> rfl

/-- A register after the write of one: the merge at the register written, the old value at every other. -/
@[simp] theorem readReg_writeReg (en : Mask) (r q : Nat) (v : RegVal) (g : Group) :
    readReg (writeReg en r v g) q = if q = r then mergeReg g en (readReg g r) v else readReg g q := by
  unfold writeReg readReg
  split <;> simp

/-- A predicate after a write: p0 reads as before, whatever is written to it (R32). -/
theorem readPred_writePred (p q : Nat) (en v : Mask) (g : Group) :
    readPred (writePred p en v g) q =
      if q = p ∧ p ≠ 0 then (readPred g p &&& ~~~en) ||| (v &&& en) else readPred g q := by
  by_cases hp : p = 0
  · simp [writePred, hp]
  · by_cases hq : q = 0
    · subst hq
      have : ¬(0 = p) := fun h => hp h.symm
      simp [writePred, hp, readPred, this, width]
    · simp only [writePred, hp, if_false, readPred, hq, Sparse.get_set, not_false_eq_true, and_true, ne_eq]

/-! ### Issue -/

/-- An instruction that no check stops runs its own meaning. -/
theorem issue_clean (i : Instr) (body : State → Result) (s : State) (h : wordTrap i s.cur = none) (hp : poisonedSource i s.cur = none) :
    issue i body s = body (enterInstr i s) := by
  simp [issue, h, hp]

/-- An instruction that a check of R77 stops takes its trap. -/
theorem issue_trap (i : Instr) (body : State → Result) (s : State) (t : Trap) (h : wordTrap i s.cur = some t) :
    issue i body s = .next (takeTrap t s) := by
  simp [issue, h]

/-- An instruction that no region is closed by enters as it stands. -/
theorem enterInstr_of_open (i : Instr) (s : State) (h : closesIdem i = false) : enterInstr i s = s := by
  simp [enterInstr, h]

/-- Entering an instruction changes nothing but the open idempotent region. -/
theorem enterInstr_eq (i : Instr) (s : State) : enterInstr i s = { s with cur := { s.cur with idemr := (enterInstr i s).cur.idemr } } := by
  unfold enterInstr
  split <;> rfl

theorem orTrap_none (k : State → Result) (s : State) : orTrap none k s = k s := rfl

theorem orTrap_some (t : Trap) (k : State → Result) (s : State) : orTrap (some t) k s = .next (takeTrap t s) := rfl

/-- What a write of results does: a trap SHAPE for a narrow register, or the writes and the next instruction (R25 to R27). -/
theorem writeBack_cases (en : Mask) (ws : List (Nat × RegVal)) (s : State) :
    (∃ r, narrowFault en s.cur ws = some r ∧ writeBack en ws s = .next (takeTrap (trapOf .shape (dw r)) s)) ∨
    (narrowFault en s.cur ws = none ∧ writeBack en ws s = .next { s with cur := nextPc (writeRegs en ws s.cur) }) := by
  unfold writeBack
  cases h : narrowFault en s.cur ws with
  | some r => exact .inl ⟨r, rfl, rfl⟩
  | none => exact .inr ⟨rfl, rfl⟩

/-- The registers that a list of writes does not name are as before. -/
theorem readReg_writeRegs_other (en : Mask) (q : Nat) : ∀ (ws : List (Nat × RegVal)) (g : Group), (∀ w ∈ ws, w.1 ≠ q) →
    readReg (writeRegs en ws g) q = readReg g q
  | [], _, _ => rfl
  | w :: ws, g, h => by
    have hw : q ≠ w.1 := fun e => h w (by simp) e.symm
    have ih := readReg_writeRegs_other en q ws (writeReg en w.1 w.2 g) (fun x hx => h x (by simp [hx]))
    simp only [writeRegs, List.foldl_cons] at ih ⊢
    rw [ih, readReg_writeReg, if_neg hw]

end Sys2Proof.Machine
end

