-- ==== Sys2Proof/Tests/Slice0.lean ====
section
/-! SUPPORT. Tests: an ill-formed term for each check of wellFormed; words written out from the spec's encodings; single steps on small
states; and for each statement with hypotheses, states and operands that meet them, clause by clause. -/

namespace Sys2Proof.Tests.Slice0

set_option Elab.async false

open Sys2Proof Sys2Proof.Machine Sys2Proof.Safety

/-! ### Ill-formed terms -/

/-- A telemetry reading for the checks of module numbers. -/
def reading : Telemetry := { present := true, power := 0, bias := 0, temp := 0, hours := 0 }

theorem test_ill_formed_words :
    [Instr.cmp 8 1 4 5, .plog 5 1 2 3, .vote 3 1 2, .cvt 4 5 15, .gred 4 5 6, .gscan 4 5 0 6, .fence 3 0, .fence 0 5,
     .illegalWord 0x20040506, .unassignedCodeWord 0x00000000, .unassignedCodeWord 0x01000000].all (fun i => !wellFormed i) = true := by decide

theorem test_ill_formed_units :
    [Instr.tileOpStart 1 4, .tmmiCountRead 1 4, .tileOpRetire 1 4 none, .tileOpRetire 1 0 (some (128, 0)), .spawnGroupPlace 0 92 0 0,
     .spawnGroupPlace 0 0 4 0, .spawnGroupPlace 0 0 0 32, .headerFix 36, .packetConsume 32 0, .packetConsume 0 64, .teamStart 1 4 0 0,
     .teamStart 1 0 92 0, .teamStart 1 0 0 4, .carveOutChange 0 0 6, .teamRestore 1 (some 92), .migrateFreeze 32, .pageIn 32 0 none,
     .pageIn 0 (2 ^ 49) none, .hostAtomicop .physical false .swap 2 0 0 0, .coreFail 4 0, .peerLost 1024, .sourceLoss 16,
     .sourceTelemetry 16 reading, .rxLoss 36 0 0 0 0, .droopDetect 184, .runnerRestart 6, .getMeasurements 5 false 0].all
       (fun i => !wellFormed i) = true := by decide

/-! ### Words -/

theorem test_decode_control : -- R110, R111, R113, R116, R119
    decode 0x01000000 = .nop ∧ decode 0x0400EE00 = .jmpr 0xEE ∧ decode 0x07000007 = .safe 7 ∧ decode 0x1B0001F4 = .sleep 500 := by decide

theorem test_decode_lanes : -- R108, R120, R131, R132, R148
    decode 0x35190203 = .plog 3 1 2 3 ∧ decode 0x1C010000 = .elect 1 ∧ decode 0x54140200 = .ballot 20 2 ∧
    decode 0x55090200 = .vote 1 1 2 ∧ decode 0x4E040506 = .hadm 4 5 6 := by decide

theorem test_decode_memory : -- R163, R173, R188
    decode 0x73000002 = .fence 0 2 ∧ decode 0x7300000B = .fence 1 3 ∧ decode 0x7B060A40 = .acas 6 10 2 0 ∧ decode 0x18000405 = .bari 4 5 ∧
    decode 0x19040500 = .bara 4 5 ∧ decode 0x1A000405 = .barw 4 5 := by decide

theorem test_decode_units : -- R205, R212, R213
    decode 0x98040000 = .tfen 4 ∧ decode 0x99000400 = .twt 4 ∧ decode 0xB2000000 = .rett ∧ decode 0xB3000000 = .park := by decide

theorem test_decode_refuses : -- R77: an opcode that is not assigned, and a reserved field that is not 0
    decode 0x00000000 = .illegalWord 0 ∧ decode 0xFF000000 = .illegalWord 0xFF000000 ∧
    decode 0x01000001 = .unassignedCodeWord 0x01000001 := by decide

/-! ### Single steps -/

/-- The state with a word where the next step fetches: one group of 8 lanes. -/
def at_ (w : Nat) : State := State.reset.withFetchWord 32 w

/-- A state with a group changed. -/
def with_ (f : Group → Group) : State := modCur f (at_ 0)

/-- The lane of a register after a step. -/
def laneAfter (r l : Nat) : Host.Outcome State Fault Refusal → Option Word
  | .next t => some ((readReg t.cur r).lane l)
  | _ => none

theorem test_step_li : laneAfter 4 7 (step (at_ 0x36041234)) = some 0x1234 := by decide +kernel -- R103: li v4, #0x1234

theorem test_step_li_pc : (match step (at_ 0x36041234) with | .next t => t.cur.strand.pc | _ => 0) = fetchBase + 4 := by decide +kernel

theorem test_add_wraps : -- R102: 0xFFFFFFFF + 2 under i32
    laneAfter 4 3 (exec (.add 4 5 6) (with_ (fun g => { g with regs := [(5, .u 0xFFFFFFFF), (6, .u 2)] }))) = some 1 := by decide +kernel

theorem test_acas_word : -- R173: the worked example under i64
    atomicNew .cas 2 0 0x80000000 0x80000000 0x0000000000000001 = 1 := by decide +kernel

theorem test_acas_bits : -- R173: under f32, -0 does not match +0
    atomicNew .cas 4 0 0x80000000 0x00000000 5 = 0x80000000 := by decide +kernel

theorem test_slt : compareAs 2 0 0x80000000 1 = true ∧ compareAs 2 1 0x80000000 1 = false := by decide -- R107

/-! ### Witnesses: words -/

/-- A group of 8 lanes with values of every shape: v5 and v6 are U, v7 is G, v8 is A. -/
def mixed : State := with_ (fun g => { g with regs := [(4, .u 3), (5, .u 0x4000), (6, .u 0), (7, .g [1, 2, 3, 4, 5, 6, 7, 8]), (8, .a 2 3)] })

theorem witness_DecodeEncode : wellFormed (.add 0xFF 0 7) = true ∧ encode (.add 0xFF 0 7) = some 0x20FF0007 := by decide

/-- The first step from a word, with its group chosen. -/
theorem witness_StepRunsDecoded :
    ((at_ 0x36041234).agenda = [] ∧ (at_ 0x36041234).steps % 2 = 0 ∧ chooseGroup (at_ 0x36041234) = some (at_ 0x36041234).cur ∧
      candidate (at_ 0x36041234) (at_ 0x36041234).cur = some (at_ 0x36041234).cur.strand ∧
      fetchAt fetchBase (at_ 0x36041234) = (.word 0x36041234, at_ 0x36041234) ∧ calendarDue (at_ 0x36041234) = none ∧
      mergePartner (at_ 0x36041234).cur.strand (consideredStrands (at_ 0x36041234).cur) = none) ∧
    (let s := with_ (fun g => { g with
       strand := { g.strand with mask := 0x0F }, rest := [{ newStrand g.strand.pc 0xF0 false 0 with hold := .drain [5] }] })
     s.agenda = [] ∧ calendarDue s = none ∧ s.steps % 2 = 0 ∧ chooseGroup s = some s.cur ∧ candidate s s.cur = some s.cur.strand ∧
      mergePartner s.cur.strand (consideredStrands s.cur) = some { newStrand s.cur.strand.pc 0xF0 false 0 with hold := .drain [5] }) ∧
    (addrForm (at_ 0) fetchBase = .plain 0x1000 ∧ translate 0 0 0 0x1000 .fetch (at_ 0) = (.ok 0x1000 .device, at_ 0) ∧
      isPoisoned (at_ 0) 1 (placeOf 0x1000 .device) 4 = false) := by decide +kernel

theorem witness_NopDoesNothing : Clean .nop (at_ 0) := by simp only [Clean]; decide +kernel

theorem witness_IntegerArithmetic : Clean (.mad 4 7 5) mixed ∧ Clean (.absd 4 8 7) mixed ∧ Clean (.neg 4 8) mixed := by
  simp only [Clean]; decide +kernel

theorem witness_ImmediateForms :
    Clean (.shri 4 8 31) mixed ∧ Clean (.li 4 0xFFFF) mixed ∧ (Clean (.lih 5 0xFFFF) mixed ∧ mustBeU mixed (rwOp 5) = none) ∧
    (Clean (.lih 7 1) mixed ∧ enabled mixed.cur ≠ 0 ∧ mustBeU mixed (rwOp 7) = some (trapOf .shape 7)) ∧ Clean (.getm 4) mixed ∧
    Clean (.movpToRegister 4 1) mixed := by simp only [Clean]; decide +kernel

theorem witness_BitwiseAndFields :
    Clean (.andn 4 7 5) mixed ∧ Clean (.not 4 8) mixed ∧ Clean (.mov 4 7) mixed ∧ Clean (.bfx 4 7 5) mixed ∧ Clean (.bfi 4 7 5) mixed := by
  simp only [Clean]; decide +kernel

theorem witness_Selection :
    Clean (.sel 4 7 8) mixed ∧ Clean (.sel 4 6 8) (modCur (fun g => { g with gm := 0x20 }) mixed) := by simp only [Clean]; decide +kernel

theorem witness_Predicates :
    Clean (.plog 4 1 2 3) mixed ∧ Clean (.elect 0) mixed ∧ Clean (.elect 1) mixed ∧ Clean (.vote 2 1 2) mixed ∧ Clean (.cmp 5 1 7 5) mixed ∧
    Clean (.movpToPredicate 1 7) mixed ∧
    (let s := modCur (fun g => { g with gm := 8 }) mixed; Clean (.elect 1) s ∧ enabled s.cur = 0) := by
  simp only [Clean]; decide +kernel

theorem witness_FloatArithmetic :
    (let s := modCur (fun g => { g with gm := 0x40 }) mixed
     Clean (.fma 4 7 5) s ∧ Clean (.fdiv 4 7 6) s ∧ Clean (.fscl 4 7 5) s ∧ Clean (.fsqrt 4 8) s ∧ Clean (.flg2 4 7) s) := by
  simp only [Clean]; decide +kernel

theorem witness_Conversions :
    (let s := modCur (fun g => { g with gm := 0x40 }) mixed
     Clean (.cvt 4 7 0) s ∧ Clean (.qnt8 16 4 5) s ∧ Clean (.dqn8 16 4 5) s) ∧ Clean (.dot4 4 7 5) (modCur (fun g => { g with gm := 0xA0 }) mixed) := by
  simp only [Clean]; decide +kernel

theorem witness_LanesExchanged :
    Clean (.shfl 4 7 8) mixed ∧ Clean (.shfx 4 7 5) mixed ∧ Clean (.qxch 4 7 0x1B) mixed ∧
    (Clean (.bcst 4 7 5) mixed ∧ mustBeU mixed (rdOp 2 5) = none) ∧
    (Clean (.bcst 4 7 8) mixed ∧ enabled mixed.cur ≠ 0 ∧ mustBeU mixed (rdOp 2 8) = some (trapOf .shape 8)) ∧
    Clean (.ballot 4 0) mixed ∧ Clean (.matchLanes 4 7) mixed := by simp only [Clean]; decide +kernel

/-- R148: n = 8 in b, seed 0. -/
def hadmState : State := with_ (fun g => { g with gm := 0x40, regs := [(4, .g [1, 2, 3, 4, 5, 6, 7, 8]), (7, .u 8)] })

theorem witness_LanesReduced :
    Clean (.gred 4 7 0) mixed ∧ Clean (.gscan 4 7 1 0) mixed ∧
    (Clean (.hadm 8 4 7) hadmState ∧ fieldW (uWord hadmState (rdOp 2 7)) 0 6 = 8 ∧
      (opWord hadmState ((rdOp 1 4).many 3 false) 1).isU = true ∧ (opWord hadmState ((rdOp 1 4).many 3 false) 2).isU = true ∧
      mustBeU hadmState (rdOp 2 7) = none ∧ 8 ≤ width hadmState.cur ∧
      hadmBlock 8 (effReg hadmState.cur ((rdOp 1 4).many 3 false)) hadmState.cur = none) ∧
    (let s := modCur (fun g => { g with gm := 0x40, regs := [(5, .u 0x040804)] }) mixed
     (Clean (.ktop 6 7 5) s ∧ ktopTrap s 5 = none) ∧ enabled s.cur ≠ 0) ∧
    (let s := modCur (fun g => { g with gm := 0x40 }) mixed
     Clean (.ktop 6 7 8) s ∧ enabled s.cur ≠ 0 ∧ (ktopTrap s 8).isSome = true) := by simp only [Clean]; decide +kernel

/-! ### Witnesses: control -/

/-- Lanes 0 to 2 hold predicate 1. -/
def split3 : State := with_ (fun g => { g with preds := [(1, 7)] })

/-- Three more live strands, and a shelf of n entries that holds a strand at pc. -/
def crowded (n : Nat) (pc : DWord) : State :=
  modCur (fun g => { g with
    hdr := { g.hdr with shelf := n }, strand := { g.strand with mask := 0x0F },
    rest := [newStrand 0x2000 0x10 false 0, newStrand 0x2004 0x20 false 0, newStrand 0x2008 0x40 false 0],
    shelf := if n = 0 then [] else [newStrand pc 0x80 false 0] }) split3

theorem witness_Branch :
    (Clean (.br 0 0 3) split3 ∧ takenLanes 0 0 split3.cur = activeLanes split3.cur) ∧
    (Clean (.br 1 0 3) split3 ∧ takenLanes 1 0 split3.cur = 0) ∧
    (Clean (.br 0 1 0xFFFFE) split3 ∧ takenLanes 0 1 split3.cur = 7 ∧ split3.cur.shelf = [] ∧ (liveStrands split3.cur).length < 4 ∧
      split3.cur.strand.mask &&& ~~~7 ≠ 0) ∧
    (let s := crowded 8 0x3000; Clean (.br 0 1 3) s ∧ takenLanes 0 1 s.cur = 7 ∧ 4 ≤ (liveStrands s.cur).length ∧ shelfRoom s.cur = true ∧
      s.cur.shelf.any (joins 0x100C s.cur.strand.hand) = false) ∧
    (let s := crowded 0 0; Clean (.br 0 1 3) s ∧ takenLanes 0 1 s.cur = 7 ∧ 4 ≤ (liveStrands s.cur).length ∧ shelfRoom s.cur = false ∧ s.cur.shelf = []) ∧
    (let s := modCur (fun g => { g with hdr := { g.hdr with shelf := 1 } }) (crowded 8 0x3000)
     Clean (.br 0 1 3) s ∧ takenLanes 0 1 s.cur = 7 ∧ 4 ≤ (liveStrands s.cur).length ∧ shelfRoom s.cur = false ∧
       s.cur.shelf.any (joins 0x100C s.cur.strand.hand) = false ∧ s.cur.shelf ≠ [] ∧ s.cur.inTrap = false) ∧
    (let s := crowded 8 0x100C; Clean (.br 0 1 3) s ∧ takenLanes 0 1 s.cur = 7 ∧
      s.cur.shelf.any (joins 0x100C s.cur.strand.hand) = true) := by simp only [Clean]; decide +kernel

/-- Targets in v10:v11, one for all lanes, and v12:v13, one for each parity, and v14:v15, misaligned. -/
def targets : State := with_ (fun g => { g with regs := [(10, .u 0x2000), (12, .g [0x2000, 0x3000, 0x2000, 0x3000, 0x2000, 0x3000, 0x2000, 0x3000]),
  (14, .u 0x2002)] })

theorem witness_CallsAndJumps :
    (Clean (.call 3) targets ∧ wholeStrand targets.cur = true) ∧
    (let s := crowded 8 0; Clean (.call 3) s ∧ Clean (.callr 10) s ∧ wholeStrand s.cur = false) ∧
    (Clean (.callr 10) targets ∧ targetAlign targets ((rdOp 1 10).pair true) = none ∧ activeLanes targets.cur ≠ 0 ∧
      ∀ l < 128, (activeLanes targets.cur).getLsbD l = true → opPair targets ((rdOp 1 10).pair true) l = 0x2000) ∧
    Clean (.jmpr 10) targets ∧
    (Clean (.jmpr 14) targets ∧ (targetAlign targets ((rdOp 1 14).pair true)).isSome = true) ∧
    (Clean (.jmpr 12) targets ∧ targetAlign targets ((rdOp 1 12).pair true) = none ∧
      targetSets targets ((rdOp 1 12).pair true) = [(0x2000, 0x55), (0x3000, 0xAA)]) ∧
    (Clean (.callr 14) targets ∧ wholeStrand targets.cur = true ∧ (targetAlign targets ((rdOp 1 14).pair true)).isSome = true) ∧
    (Clean (.callr 12) targets ∧ opPair targets ((rdOp 1 12).pair true) 0 ≠ opPair targets ((rdOp 1 12).pair true) 1) := by
  simp only [Clean]; decide +kernel

/-- A pre-empt-pending group whose header names safe point 7. -/
def saveable : State := with_ (fun g => { g with
  preempt := true, saveArea := 0x40000,
  hdr := { g.hdr with table := [{ id := 7, bytes := 4096, site := 0x1000, save := 0x5000, restore := 0x6000 }] } })

theorem witness_ExitAndMarks :
    (Clean .exit split3 ∧ enabled split3.cur ≠ 0 ∧ activeLanes split3.cur &&& ~~~(enabled split3.cur) = 0 ∧ split3.cur.rest = [] ∧
      split3.cur.shelf = []) ∧
    (let s := modCur (fun g => { g with gm := 1 }) split3
     Clean .exit s ∧ enabled s.cur ≠ 0 ∧ activeLanes s.cur &&& ~~~(enabled s.cur) ≠ 0) ∧
    (let s := modCur (fun g => { g with gm := 8 }) split3; Clean .exit s ∧ enabled s.cur = 0) ∧
    (Clean (.safe 7) split3 ∧ split3.cur.preempt = false) ∧
    (Clean (.safe 7) saveable ∧ (safeEntry saveable.cur 7).isSome = true ∧ wholeStrand saveable.cur = true ∧
      countersZero saveable.cur = true) ∧
    (let s := modCur (fun g => { g with cntL := 1 }) saveable; Clean (.safe 7) s ∧ countersZero s.cur = false) ∧
    (Clean (.idem 5) split3 ∧ split3.cur.hdr.idem = false) ∧
    (let s := modCur (fun g => { g with hdr := { g.hdr with idem := true } }) split3; Clean (.idem 5) s ∧ wholeStrand s.cur = true) ∧
    (let s := modCur (fun g => { g with hdr := { g.hdr with idem := true } }) (crowded 8 0); Clean (.idem 5) s ∧ wholeStrand s.cur = false) ∧
    (let s := modCur (fun g => { g with inTrap := true }) split3; Clean (.sigck 5) s) ∧
    (Clean (.sigck 0) split3 ∧ split3.cur.inTrap = false ∧ foldedSig split3.cur.sig = 0) ∧
    (let s := modCur (fun g => { g with hdr := { g.hdr with sigck := true } }) split3
     Clean (.sigck 5) s ∧ s.cur.inTrap = false ∧ sigCompares s.cur = true ∧ foldedSig s.cur.sig ≠ 5) := by
  simp only [Clean]; decide +kernel

/-- A group in handler code whose trapping strand held lanes 0 to 3. -/
def handling : State := with_ (fun g => { g with inTrap := true, trapMask := 0x0F, tpc := 0x1008, strand := { g.strand with hand := true } })

/-- A group whose guard is false in every lane. -/
def disabled : State := with_ (fun g => { g with gm := 8 })

theorem witness_ExceptionEntry :
    (Cause.align.classM = false ∧ (at_ 0).cur.inTrap = false ∧ (at_ 0).cur.hdr.handler ≠ 0 ∧ (at_ 0).cur.restoring = none) ∧
    Cause.poison.classM = true ∧ handling.cur.inTrap = true ∧
    (with_ (fun g => { g with hdr := { g.hdr with handler := 0 } })).cur.hdr.handler = 0 := by decide +kernel

theorem witness_TrapsAndReturns :
    (Clean (.trap 0xFFFF) (at_ 0) ∧ Clean (.brk 5) (at_ 0) ∧ lowestLane (enabled (at_ 0).cur) = some 0) ∧
    (Clean (.trap 5) disabled ∧ Clean (.brk 5) disabled ∧ Clean .rett disabled ∧ enabled disabled.cur = 0) ∧
    (Clean .rett handling ∧ enabled handling.cur ≠ 0 ∧ handling.cur.replay = none ∧ handling.cur.trapMask &&& ~~~handling.cur.exited ≠ 0) ∧
    (Clean .rett (at_ 0) ∧ enabled (at_ 0).cur ≠ 0 ∧ (at_ 0).cur.inTrap = false) := by simp only [Clean]; decide +kernel

/-- Operands for the group registers: v4 is 250, v6:v7 is 0x2000. -/
def modes : State := with_ (fun g => { g with regs := [(4, .u 250), (6, .u 0x2000)] })

theorem witness_GroupModes :
    (Clean (.setm 1 4) modes ∧ setmField 1 = some (4, 4) ∧ gmLegal (gmInsert modes.cur.gm 4 4 4) = true) ∧
    (Clean (.setm 1 15) modes ∧ gmLegal (gmInsert modes.cur.gm 4 4 15) = false) ∧ (Clean (.setm 1 16) modes ∧ 2 ^ 4 ≤ 16) ∧
    (Clean (.setm 0xFF 0) modes ∧ setmField 0xFF = none) ∧ Clean (.kmask 1 1) modes ∧
    (Clean (.xset 4 5) modes ∧ mustBeU modes (rdOp 1 4) = none ∧ (uWord modes (rdOp 1 4) + 5).toNat ≤ 255) ∧
    (Clean (.xset 4 6) modes ∧ 255 < (uWord modes (rdOp 1 4) + 6).toNat) ∧ Clean (.txi 7) modes ∧
    (Clean (.txl 6 7) modes ∧ mustBeU modes ((rdOp 1 6).pair true) = none ∧
      addrForm modes (uPair modes ((rdOp 1 6).pair true)) = .plain 0x2000 ∧
      (match findLeaf modes 0 0 0 0x2000 with | .leaf l => l.mtype == .device | _ => false) = true) := by
  simp only [Clean]; decide +kernel

theorem witness_GroupWaits :
    (Clean (.cyld 5) (at_ 0) ∧ (at_ 0).cur.cntC = 0) ∧
    (let s := with_ (fun g => { g with cntC := 1, cntL := 63 }); Clean (.cyld 5) s ∧ s.cur.cntC ≠ 0 ∧ Clean (.waitc 62 0 0 0) s ∧ ¬(s.cur.cntL ≤ 62)) ∧
    (Clean (.waitc 63 0 0 0) (at_ 0) ∧ (at_ 0).cur.cntS ≤ 0 ∧ (at_ 0).cur.cntT ≤ 0) ∧ Clean (.sleep 0xFFFF) (at_ 0) ∧
    (let s := with_ (fun g => { g with cntC := 0, strand := { g.strand with hold := .cyld 0x2000 } })
     AtPort s s.cur.id ∧ s.cur.strand.mask ≠ 0 ∧ s.cur.strand.hold = .cyld 0x2000) ∧
    (let s := with_ (fun g => { g with cntL := 5, strand := { g.strand with hold := .waitc 4 63 63 63 } })
     AtPort s s.cur.id ∧ s.cur.strand.hold = .waitc 4 63 63 63 ∧ ¬(s.cur.cntL.toNat ≤ 4)) := by
  simp only [Clean, AtPort]; decide +kernel

/-- A group of 16 lanes. -/
def wide : State := with_ (fun g => { g with lgw := 4, hdr := { g.hdr with team := 16 }, kmask := 0xFFFF, strand := { g.strand with mask := 0xFFFF } })

/-- A group of 8 lanes in a team of 16, with its buddy beside it, which waits in GFUSE or not. -/
def paired (waiting : Bool) : State :=
  let s := with_ (fun g => { g with hdr := { g.hdr with team := 16 } })
  { s with others := [{ s.cur with
      id := 99, base := 8, slot := 1, strand := { s.cur.strand with hold := if waiting then .gfuse 4 0 0 else .none } }] }

theorem witness_DivideAndFuse :
    (Clean (.gdiv 4) wide ∧ gdivCode wide = none ∧ width wide.cur / 2 = 8) ∧
    (Clean (.gdiv 4) (at_ 0) ∧ (gdivCode (at_ 0)).isSome = true ∧ ∀ r ∈ destRegs (at_ 0).cur (wrOp 4), narrow (at_ 0).cur r = false) ∧
    (Clean (.gfuse 4 0) (at_ 0) ∧ gfuseCode (at_ 0) = some 1) ∧
    (let s := modCur (fun g => { g with cntL := 1 }) (paired false); Clean (.gfuse 4 0) s ∧ gfuseCode s = some 7) ∧
    (let s := paired false; Clean (.gfuse 4 0) s ∧ gfuseCode s = none ∧
      ((buddyOf (modCur closeIdem s) (closeIdem s.cur)).any (fun b => !inFuse b)) = true) ∧
    (let s := modCur (fun g => { g with gm := 0x10 }) (paired true); Clean (.gfuse 4 0) s ∧ gfuseCode s = none ∧
      ((buddyOf (modCur closeIdem s) (closeIdem s.cur)).any (fun b => inFuse b && b.id != s.cur.id && decide (s.cur.base < b.base) &&
        fuseCode (closeIdem s.cur) b == 5)) = true) ∧
    (let s := paired true; Clean (.gfuse 4 0) s ∧ gfuseCode s = none ∧
      ((buddyOf (modCur closeIdem s) (closeIdem s.cur)).any (fun b => inFuse b && decide (s.cur.base < b.base) &&
        fuseCode (closeIdem s.cur) b == 0)) = true) ∧
    (let s := { at_ 0 with
       cur := { (paired false).cur with id := 99, base := 8, slot := 1 },
       others := [{ (paired false).cur with strand := { (paired false).cur.strand with hold := .gfuse 4 0 0 } }] }
     Clean (.gfuse 4 0) s ∧ gfuseCode s = none ∧
      ((buddyOf (modCur closeIdem s) (closeIdem s.cur)).any (fun b => inFuse b && decide (b.base < s.cur.base) &&
        fuseCode b (closeIdem s.cur) == 0)) = true) := by simp only [Clean]; decide +kernel

theorem witness_SystemRegisters :
    (Clean (.srd 4 0x10) (at_ 0) ∧ (srRead (at_ 0) 0x10).isSome = true ∧ enabled (at_ 0).cur ≠ 0 ∧
      ∀ r ∈ destRegs (at_ 0).cur ((wrOp 4).pair (srWide 0x10)), narrow (at_ 0).cur r = false) ∧
    (Clean (.swr 4 1) (at_ 0) ∧ (srRead (at_ 0) 1).isSome = true) ∧ (Clean (.swr 4 2) (at_ 0) ∧ (srRead (at_ 0) 2).isSome = true) ∧
    (Clean (.swr 4 0x5F) (at_ 0) ∧ (srRead (at_ 0) 0x5F).isSome = true) ∧ (Clean (.srd 4 0x8000) (at_ 0) ∧ Clean (.swr 4 0xFFFF) (at_ 0)) ∧
    (Clean (.srd 4 0x7FFF) (at_ 0) ∧ Clean (.swr 4 0x7FFF) (at_ 0) ∧ srRead (at_ 0) 0x7FFF = none) := by simp only [Clean]; decide +kernel

/-! ### Witnesses: memory -/

/-- v10:v11 is 0x20000, v12:v13 is 0x20001, v4 is data; the guard holds in lane 0 only. -/
def loads : State := with_ (fun g => { g with gm := 1, preds := [(1, 1)], regs := [(4, .u 0x55), (10, .u 0x20000), (12, .u 0x20001)] })

theorem witness_MemoryIssue :
    (let r := loadReq .load 4 (wrOp 4) 10 0 0
     memRequest loads.cur (.ld4 4 10 0 0) = some r ∧ Clean (.ld4 4 10 0 0) loads ∧ enabled loads.cur ≠ 0 ∧ phaseOne loads r = none ∧
       ctrFull r.ctr loads.cur = false ∧ barrowRoom loads (remotePkgs loads (laneAddrs loads r)) = true ∧
       (placeLanes r (laneAddrs loads r) loads).1.all (fun o => match o with | .ok _ => true | _ => false) = true) ∧
    (let r := storeReq .store 4 (rdOp 0 4) 10 0 0
     memRequest loads.cur (.st4 4 10 0 0) = some r ∧ Clean (.st4 4 10 0 0) loads ∧ phaseOne loads r = none ∧
       (placeLanes r (laneAddrs loads r) loads).1.all (fun o => match o with | .ok _ => true | _ => false) = true) := by
  simp only [Clean]; decide +kernel

theorem witness_MemoryChecks :
    (Clean (.ld4 4 10 0 0) disabled ∧ enabled disabled.cur = 0) ∧
    (Clean (.ld4 4 12 0 0) loads ∧ (phaseOne loads (loadReq .load 4 (wrOp 4) 12 0 0)).isSome = true ∧
      destCheck loads (loadReq .load 4 (wrOp 4) 12 0 0) = none ∧
      ((laneAddrs loads (loadReq .load 4 (wrOp 4) 12 0 0)).find? (fun a => a.ea.toNat % 4 != 0)).isSome = true) ∧
    (let s := modCur (fun g => { g with cntL := 63 }) loads
     Clean (.ld4 4 10 0 0) s ∧ phaseOne s (loadReq .load 4 (wrOp 4) 10 0 0) = none ∧ ctrFull .l s.cur = true) := by
  simp only [Clean]; decide +kernel

/-- The state after the issue of an instruction. -/
def issued (i : Instr) (s : State) : State := match exec i s with | .next t => t | _ => s

/-- The operation that was issued last. -/
def lastOp (s : State) : Option MemOp := s.cur.outs.getLast?

/-- Whether the last operation has one lane that may be performed now. -/
def oneLaneNow (s : State) : Bool :=
  match lastOp s with
  | some o => match o.lanes with
    | [l] => s.cur.live && findGroup s.cur.id s == some s.cur && findOp o.id s.cur == some o && canPerform s s.cur o && !l.done &&
        !l.held && !laneWaits s s.cur.id o.id l.lane && decide (l.lane < width s.cur) && decide (l.lane < 128) && !s.cur.exited.getLsbD l.lane &&
        !l.loc.isPod && !isPoisoned s s.cur.team l.loc o.z
    | _ => false
  | none => false

theorem witness_LoadsAndStoresPerform :
    (let s := issued (.ld4 4 10 0 0) loads
     oneLaneNow s = true ∧ (lastOp s).any (fun o => o.kind == .load && o.ctr == .l && o.ret && o.pred.isNone && decide (o.d < 0xF0)) = true) ∧
    (let s := issued (.st4 4 10 0 0) loads
     oneLaneNow s = true ∧ (lastOp s).any (fun o => o.kind == .store && o.ctr == .s && !o.ret && o.pred.isNone &&
       o.lanes.all (fun l => l.loc == .dev 0x20000)) = true) := by decide +kernel

theorem witness_AtomicsPerform :
    (let s := issued (.aadd 4 10 0 0) loads
     oneLaneNow s = true ∧ (lastOp s).any (fun o => o.kind == .atomic .add && o.ctr == .l && o.ret && o.pred.isNone && decide (o.d < 0xF0) &&
       o.z == 4 && o.lanes.all (fun l => l.loc == .dev 0x20000)) = true) := by decide +kernel

theorem witness_FullEmptyTable :
    readFe (at_ 0) 0 (.dev 0x20000) = true ∧ readFe (writeFe 0 (.dev 0x20000) false (at_ 0)) 0 (.dev 0x20000) = false := by decide +kernel

theorem witness_FencesAndAcquires :
    (Clean (.fence 2 2) (at_ 0) ∧ (at_ 0).cur.live = true ∧ (at_ 0).cur.outs = []) ∧
    (let s := issued (.ld4 4 10 0 0) loads
     Clean (.fence 0 0) s ∧ (lastOp s).any (fun o => s.cur.outs == [o] && o.kind == .load && o.lanes.any (fun l => !l.done)) = true) ∧
    (let s := issued (.ld4 4 10 0 0) (issued (.ldaq 6 10 0 0) loads)
     (lastOp s).any (fun o => (earlierOps s.cur o).any (fun j => j.kind == .ldaq && j.lanes.any (fun l => !l.done)) &&
       !canPerform s s.cur o && findOp o.id s.cur == some o) = true) := by simp only [Clean]; decide +kernel

/-! ### Witnesses: engines, barriers, the pod -/

/-- A group that leads a pair of cores, with scratchpad and tiles, and registers for addresses, sizes and descriptors. -/
def unit : State := with_ (fun g => { g with
  hdr := { g.hdr with pair := true, scratch := 65536, tiles := 4, rckpt := 0x10000 },
  regs := [(4, .u 0x100), (5, .u 3), (10, .u 0x20000), (12, .u 0x30000), (14, .u 256), (16, .u 0x04020401), (17, .u 64), (18, .u 0x40000)] })

/-- The group changed. -/
def unit_ (f : Group → Group) : State := modCur f unit

theorem witness_EngineIssues :
    (let r : EngReq := { kind := .copy, dst := 0x20000, src := some 0x30000, index := none, size := 256, lock := 256, fe := 0, land := none,
                         bind := none, relay := false }
     Clean (.xcp 10 12 14) unit ∧ enabled unit.cur ≠ 0 ∧ mustBeU unit ((rdOp 0 10).pair true) = none ∧
       mustBeU unit ((rdOp 1 12).pair true) = none ∧ mustBeU unit ((rdOp 2 14).pair true) = none ∧
       uPair unit ((rdOp 0 10).pair true) = 0x20000 ∧ uPair unit ((rdOp 1 12).pair true) = 0x30000 ∧
       FlagsOk unit 14 256 ∧ engTrap unit r = none ∧ unit.cur.cntC ≠ 63 ∧ engStalls unit r = false) ∧
    (let r : EngReq := { kind := .fill 0x30000, dst := 0x20000, src := none, index := none, size := 256, lock := 256, fe := 0, land := none,
                         bind := none, relay := false }
     Clean (.xfill 10 12 14) unit ∧ engTrap unit r = none ∧ engStalls unit r = false) ∧
    (let s := { unit with mem := writeCells unit.mem 0x40008 [2, 0, 0, 0, 64, 0, 0, 0] }
     Clean (.xgath 10 12 18) s ∧ mustBeU s ((rdOp 2 18).pair true) = none ∧ uPair s ((rdOp 2 18).pair true) = 0x40000 ∧
       (ownRead 0x40000 s).2.cur = s.cur ∧
       (match (ownRead 0x40000 s).1 with
        | .bytes bs => descLegal bs && (engTrap s (gatherReq 0x20000 0x30000 bs)).isNone && !engStalls s (gatherReq 0x20000 0x30000 bs)
        | _ => false) = true) ∧
    (let r : EngReq := { kind := .prefetch, dst := 0, src := some 0x30000, index := none, size := 256, lock := 0, fe := 0, land := none,
                         bind := none, relay := false }
     Clean (.xpref 12 14) unit ∧ engTrap unit r = none ∧ engStalls unit r = false) ∧
    (({ kind := .prefetch, dst := 0, src := none, index := none, size := 256, lock := 0, fe := 0, land := none, bind := some 0x100,
        relay := false } : EngReq).bind = some 0x100) := by simp only [Clean, FlagsOk]; decide +kernel

/-- An object at 0x100 that expects three arrivals, in phase 0. -/
def barred : State := setBar 1 0x100 3 unit

/-- An object at 0x100 of a value, where BARA may act. -/
def baraAt (v : Nat) : Bool :=
  let s := setBar 1 0x100 v unit
  !baraWaits s && barObj s s.cur.team 0x100 == v && (heldBara s.cur.team 0x100 s).isNone && (allStrands s.cur).all (fun t => t.hold == .none)

theorem witness_TeamBarriers :
    (Clean (.bari 4 5) unit ∧ mustBeU unit (rdOp 1 4) = none ∧ mustBeU unit (rdOp 2 5) = none ∧ (uWord unit (rdOp 1 4)).toNat = 0x100 ∧
      barrierTrap unit.cur 0x100 = none ∧ fieldW (uWord unit (rdOp 2 5)) 16 16 = 0 ∧ objWaits unit 0x100 true = false ∧
      (allStrands unit.cur).all (fun t => t.hold == .none) = true) ∧
    (Clean (.bara 6 4) barred ∧ (∀ r ∈ destRegs barred.cur (wrOp 6), narrow barred.cur r = false) ∧ baraAt 3 = true ∧ barArr 3 + 1 < barExp 3) ∧
    (baraAt 0x20003 = true ∧ barArr 0x20003 + 1 = barExp 0x20003 ∧ barPend 0x20003 = 0) ∧
    (baraAt 0x80000000000020003 = true ∧ barArr 0x80000000000020003 + 1 = barExp 0x80000000000020003 ∧ barPend 0x80000000000020003 ≠ 0) ∧
    (baraAt 0x30003 = true ∧ barExp 0x30003 ≤ barArr 0x30003 ∧ barPend 0x30003 = 0) ∧ (baraAt 0 = true ∧ barExp 0 = 0) ∧
    (baraAt 0x80000000000030003 = true ∧ barExp 0x80000000000030003 ≤ barArr 0x80000000000030003 ∧ barPend 0x80000000000030003 ≠ 0) ∧
    (Clean (.barw 4 5) barred ∧ objWaits barred 0x100 false = false ∧
      barPh (barObj barred barred.cur.team 0x100) ≠ (uWord barred (rdOp 2 5)).getLsbD 0) ∧
    (Clean (.barw 4 14) barred ∧ barPh (barObj barred barred.cur.team 0x100) = (uWord barred (rdOp 2 14)).getLsbD 0 ∧
      barred.cur.shelf = []) ∧
    (let s := with_ (fun g => { g with regs := Sparse.set (.u 0) g.regs 4 (.u 0x108) })
     Clean (.bari 4 5) s ∧ (uWord s (rdOp 1 4)).toNat % 16 ≠ 0) ∧
    (let s := with_ (fun g => { g with regs := Sparse.set (.u 0) (Sparse.set (.u 0) g.regs 4 (.u 0x10)) 5 (.u 0x10001) })
     Clean (.bari 4 5) s ∧ (uWord s (rdOp 1 4)).toNat % 16 = 0 ∧ s.cur.hdr.scratch < 0x10 + 16) ∧
    (let s := unit_ (fun g => { g with regs := Sparse.set (.u 0) g.regs 5 (.u 0x10001) })
     Clean (.bari 4 5) s ∧ barrierTrap s.cur 0x100 = none ∧ fieldW (uWord s (rdOp 2 5)) 16 16 ≠ 0) := by simp only [Clean]; decide +kernel

/-- A package in a pod of two, whose group's counted channel 5 is to package 1; T1 is a window on it, and v20 an offset. -/
def podded : State := { unit_ (fun g => { g with
  cchn := 0x80000105, ccnt := 7, pgrp := [(0, 3)], gm := 1, preds := [(1, 1)],
  tregs := [(1, { frame := 0x100400000000000, base := 0, limit := 0, perm := ⟨true, true, true, true, false⟩, mtype := .device,
                  dirty := true, stale := false })],
  regs := [(4, .u 0x105), (5, .u 3), (6, .u 0x9), (20, .u 0x40)] }) with lgpod := 1 }

/-- The state after an instruction that has issued. -/
def after (i : Instr) (s : State) : State := match exec i s with | .next t => t | _ => s

theorem witness_PodInstructions :
    (Clean (.popen 4) podded ∧ mustBeU podded (rdOp 1 4) = none ∧ fieldW (uWord podded (rdOp 1 4)) 18 14 = 0 ∧
      fieldW (uWord podded (rdOp 1 4)) 8 10 < podSize podded) ∧
    (let x := laneAddr podded (prelReq 7 6 20 1 0) 0
     Clean (.prel 6 20 1 0) podded ∧ enabled podded.cur ≠ 0 ∧ mustBeU podded ((rdOp 0 6).pair true) = none ∧
       mustBeU podded (rdOp 1 20) = none ∧ prelTrap podded x = none ∧ ctrFull .s podded.cur = false ∧
       barrowRoom podded (remotePkgs podded [x]) = true ∧ addrForm podded x.va = .pod 1 0x40) ∧
    (Clean .pdrain podded ∧ unackedIds podded podded.cur.id 0 = []) ∧
    (let s := after (.prel 6 20 1 0) podded; Clean .pdrain s ∧ unackedIds s s.cur.id 0 ≠ [] ∧ s.cur.shelf = []) ∧
    (Clean (.pbar 6) podded ∧ fieldW (uWord podded (rdOp 1 6)) 8 24 = 0 ∧ (pgrpMembers podded.cur).contains (pkgId podded) = true ∧
      (pgrpMembers podded.cur).any (fun p => decide (podSize podded ≤ p)) = false ∧ keptEpisode (closeIdem podded.cur) 9 = none ∧
      unperformed 3 podded.cur = false ∧ podded.tokens = [] ∧ podded.episodes = [] ∧
      (pgrpMembers podded.cur).any (fun m => Sparse.get 0 podded.health m == 2) = false) ∧
    (Clean (.rbegin 0x100) unit ∧ wholeStrand unit.cur = true ∧ unit.cur.region = none ∧
      0xD0 + 4 * width unit.cur * unit.cur.hdr.n ≤ unit.cur.hdr.rckpt) ∧
    (Clean .rcommit unit ∧ unit.cur.region = none) ∧
    (let s := after (.rbegin 0x100) podded
     Clean .rcommit s ∧ s.cur.region.any (fun r => (unackedIds s s.cur.id r.firstOp).isEmpty) = true ∧
     (let u := after (.prel 6 20 1 0) s
      Clean .rcommit u ∧ u.cur.region.any (fun r => !(unackedIds u u.cur.id r.firstOp).isEmpty) = true ∧ u.cur.shelf = [])) := by
  simp only [Clean]; decide +kernel

/-- f32 tiles are not a TMM format: bf16 by bf16, k = 1, n = 4, m = 8 of tile 1, B at offset 0 with rows of 256 bytes. -/
def matrix : State := unit_ (fun g => { g with
  gm := 0x70, regs := [(4, .u 0x01020401), (5, .u 0x40000), (6, .u 0), (7, .u 0),
  (30, .u 0x00020401), (31, .u 64), (34, .u 0x400000), (35, .u 7), (40, .u 4)] })

theorem witness_TileInstructions :
    (Clean (.tmm 4 8 34) matrix ∧ enabled matrix.cur ≠ 0 ∧ TileOk matrix (rdOp 0 4) 8 34) ∧
    (Clean (.tmmi 4 8 34) matrix ∧ TileOk matrix ((rdOp 0 4).many 3 false) 8 34 ∧
      (pairOf (opLane matrix ((rdOp 0 4).many 3 false) 1 0) (opLane matrix ((rdOp 0 4).many 3 false) 2 0)).toNat % 8 = 0) ∧
    (Clean (.tlda 30 4) matrix ∧ MoverOk matrix 30 6 4) ∧ (Clean (.tsta 30 6) matrix) ∧
    (let s := modCur (fun g => { g with gm := 0x40 }) matrix
     Clean (.tcvt 30 6 40) s ∧ mustBeU s (rdOp 2 40) = none ∧ fieldW (uWord s (rdOp 2 40)) 4 28 = 0 ∧
       tcvtType (fieldW (uWord s (rdOp 2 40)) 0 4) = true ∧ MoverOk s 30 6 (tyWidth (fieldW (uWord s (rdOp 2 40)) 0 4) / 8)) ∧
    (Clean (.tzra 3) matrix ∧ matrix.cur.hdr.pair = true ∧ matrix.cur.follower = false ∧ 3 < matrix.cur.hdr.tiles ∧ matrix.cur.cntT ≠ 63) ∧
    (Clean (.tfen 41) matrix ∧ (∀ r ∈ destRegs matrix.cur (wrOp 41), narrow matrix.cur r = false)) ∧
    (Clean (.twt 6) matrix ∧ mustBeU matrix (rdOp 1 6) = none ∧
      batchRetired (getStream matrix matrix.cur.team (gmStream matrix.cur)) 0 = true) ∧
    (let s := after (.tfen 41) (after (.tzra 3) matrix)
     Clean (.twt 6) s ∧ batchRetired (getStream s s.cur.team (gmStream s.cur)) 0 = false ∧ s.cur.shelf = []) := by
  refine ⟨?_, ?_, ?_, ?_, ?_, ?_, ?_, ?_, ?_⟩ <;> simp only [Clean, TileOk, MoverOk] <;> decide +kernel

/-! ### Witnesses: auctions, teams and queues -/

/-- v4 names slot 2 of the group's core, v6:v7 configures it for 4 entries at offset 0x200, and v8 holds scores. -/
def bidding : State := unit_ (fun g => { g with regs := [(4, .u 2), (6, .u 0x00100200), (8, .a 0x3F800000 16), (10, .u 0x20000)] })

theorem witness_Auctions :
    (Clean (.acfg 4 6) bidding ∧ mustBeU bidding (rdOp 0 4) = none ∧ mustBeU bidding ((rdOp 1 6).pair true) = none ∧
      auctionBusy bidding 2 = false ∧ acfgBad bidding 2 0x00100200 0 = false ∧ (acfgAuction bidding.cur 2 0x00100200 0).cap = 4) ∧
    (let s := after (.acfg 4 6) bidding
     Clean (.bid 4 9 8) s ∧ (∀ r ∈ destRegs s.cur (wrOp 4), narrow s.cur r = false) ∧ (auctionOf s 2).isSome = true ∧ tokenTrap s 9 = none ∧
       s.cur.cntL ≠ 63 ∧ Clean (.take 12 4) s ∧ (∀ r ∈ destRegs s.cur ((wrOp 12).many 4 false), narrow s.cur r = false) ∧
       Clean (.aread 4 10) s ∧ mustBeU s ((rdOp 1 10).pair true) = none ∧ (uPair s ((rdOp 1 10).pair true)).toNat % 8 = 0 ∧
       (auctionOf s 2).any (fun x =>
         let r : EngReq := { kind := .aread (heapBytes x), dst := 0x20000, src := none, index := none, size := (heapBytes x).length,
                             lock := 8 + 8 * x.cap, fe := 0, land := none, bind := none, relay := false }
         (engTrap s r).isNone && !engStalls s r && !auctionBusy s 2 && s.cur.cntC != 63) = true) ∧
    (isNanCode f32 0x7FC00000 = true ∧ isNanCode f32 0x3F800000 = false ∧ better (0x40000000, 1) (0x3F800000, 2) = true ∧
      better (0x3F800000, 1) (0x40000000, 2) = false ∧ [((0x40000000 : Word), (1 : Word)), (0x3F800000, 2)].Pairwise (fun x y => better y x = false)) := by
  simp only [Clean]; decide +kernel

/-- The spawn header's address 0x40000 in v4:v5, a queue's number in v6, a packet's address in v8:v9; queue 3 of the context is
live; bin 0 gathers threads of that header. -/
def gathering : State := { unit_ (fun g => { g with regs := [(4, .u 0x40000), (6, .u 3), (8, .u 0x50000)] }) with
  queues := [(3, { Queue.vacant with live := true, rcd := 0x60000, base := 0x70000 })],
  bins := [(0, { used := true, part := 0, ctx := 0, gang := 1, key := 0x40000, lgw := 5, timer := 1000, hdr := KHeader.none, fallback := none,
                 entry := 0x9000,
                 threads := [(0xA000, 0)], formed := [] })] }

/-- A companion group of the same team at the port's place plus one. -/
def companion (s : State) : Group := { s.cur with id := 77, base := 8, slot := 1 }

theorem witness_TeamInstructions :
    (Clean (.spawn 4 5) gathering ∧ mustBeU gathering ((rdOp 1 4).pair true) = none ∧ uPair gathering ((rdOp 1 4).pair true) = 0x40000 ∧
      (0x40000 : DWord).toNat % 64 = 0 ∧ gathering.cur.cntS ≠ 63 ∧ binOfKey gathering 0 0 1 0x40000 = some 0 ∧
      (enterBin (spawnArgs gathering 5) 0 (getBin gathering 0)).formed = []) ∧
    (let s := setBin 0 { getBin gathering 0 with lgw := 3 } gathering
     Clean (.spawn 4 5) s ∧ binOfKey s 0 0 1 0x40000 = some 0 ∧ (enterBin (spawnArgs s 5) 0 (getBin s 0)).formed.length = 1) ∧
    (let s := { gathering with bins := (List.range 64).map (fun k => (k, { getBin gathering 0 with key := 0 })) }
     Clean (.spawn 4 5) s ∧ binOfKey s 0 0 1 0x40000 = none ∧ freeBin s 0 = none ∧ s.cur.cntS ≠ 63 ∧ s.cur.shelf = []) ∧
    (let s := modCur (fun g => { g with cntL := 1 }) gathering
     Clean (.fork 4) s ∧ s.cur.region = none ∧ s.cur.cont = none ∧ countersZero s.cur = false ∧ s.cur.shelf = []) ∧
    (let s := { gathering with others := [companion gathering] }
     Clean (.fork 4) s ∧ wholeStrand s.cur = true ∧ countersZero s.cur = true ∧ forkDiffers s s.cur.team (0x40000, s.cur.strand.pc) = false ∧
       s.others.any (fun g => g.team == s.cur.team && (forkWait g).isNone) = true) ∧
    (let c := companion gathering
     let s := { gathering with others := [{ c with strand := { c.strand with hold := .forkTeam 0x50000 } }] }
     Clean (.fork 4) s ∧ wholeStrand s.cur = true ∧ countersZero s.cur = true ∧ forkDiffers s s.cur.team (0x40000, s.cur.strand.pc) = true) ∧
    (let s := modCur (fun g => { g with cont := some (g.strand.pc, .forked) }) gathering
     Clean (.fork 4) s ∧ s.cur.cont = some (s.cur.strand.pc, .forked)) ∧
    (Clean (.enq 8 6) gathering ∧ mustBeU gathering (rdOp 2 6) = none ∧ fieldW (uWord gathering (rdOp 2 6)) 6 26 = 0 ∧
      gathering.cur.cont = none ∧ enqReleased gathering = true ∧ enqQueue gathering 3 = true ∧ (ownRead 0x50000 gathering).2 = gathering ∧
      (match (ownRead 0x50000 gathering).1, takeIndex 3 gathering with
       | .bytes pkt, .at i s1 => slotFree (getQueue s1 3) i &&
           (match placePacket 3 i pkt (modCur closeIdem s1) with | some (none, _) => true | _ => false)
       | _, _ => false) = true) ∧
    (Clean .park gathering ∧ gathering.cur.saving = none) ∧
    (let s := modCur (fun g => { g with saving := some (1, 0x2000) }) { gathering with others := [companion gathering] }
     Clean .park s ∧ s.cur.saving.isSome = true ∧ countersZero s.cur = true ∧ s.cur.live = true ∧ s.cur.preempt = false ∧
       (let u := modCur (fun g => { g with preempt := true }) s; Clean .park u ∧ u.cur.preempt = true) ∧
       s.others.any (fun g => g.team == s.cur.team && !g.parked) = true) ∧
    (let s := modCur (fun g => { g with saving := some (1, 0x2000), cntS := 1 }) gathering
     Clean .park s ∧ countersZero s.cur = false) := by
  refine ⟨?_, ?_, ?_, ?_, ?_, ?_, ?_, ?_, ?_, ?_, ?_⟩ <;> simp only [Clean] <;> decide +kernel

/-! ### Witnesses: waits, engines and tiles -/

/-- A group whose LDWT (operation 5) waits at device word 0x20000; the word is full or not. -/
def waitingAt (full : Bool) (mode : WaitMode) (limit : Nat) : State :=
  let s := with_ (fun g => { g with
    cntL := 1, strand := { g.strand with hold := .op 5 },
    outs := [{ id := 5, kind := .fe .ldwt, z := 8, d := 4, ret := true, pred := none, uni := false, ctr := .l, scope := 2, hint := 0, ty := 2, round := 0,
               spins := 4, limit := limit, again := false, via := false, ending := none,
               lanes := [{ lane := 0, va := 0x20000, loc := .dev 0x20000, data := 0, data2 := 0, held := false, done := false, ret := 0 }] }] })
  let w : FeWait := { id := 9, ctx := 0, team := 1, who := .lane s.cur.id 5 0, kind := .ldwt, va := 0x20000, loc := .dev 0x20000, data := 0,
                      spins := 4, limit := limit, mode := mode, since := some 0, tried := 0, entry := none }
  { writeFe 1 (.dev 0x20000) full s with time := 2000, waits := [w] }

theorem witness_WaitsAndBudgets :
    (let s := waitingAt false (.spin 2) 0
     (findWait 9 s).any (fun w => cohort w WaitMode.spins s == [w] && spaced s w 64 && !isPoisoned s w.team w.loc 8 &&
       (feStep w.kind w.team w.loc w.data s).isNone && decide (w.mode = .spin 2) && decide (2 + 1 < w.spins)) = true ∧
     (findWait 9 { s with time := 63 }).any (fun w => (cohort w WaitMode.spins { s with time := 63 }).any (fun x =>
       !spaced { s with time := 63 } x 64)) = true ∧
     (let u := { s with waits := s.waits.map (fun w => { w with id := 8, who := .lane s.cur.id 5 1 }) ++ s.waits }
      (findWait 9 u).any (fun w => (cohort w WaitMode.spins u).head?.map (·.id) != some 9) = true)) ∧
    (let s := waitingAt false (.spin 3) 0
     (findWait 9 s).any (fun w => cohort w WaitMode.spins s == [w] && spaced s w 64 && (feStep w.kind w.team w.loc w.data s).isNone && decide (w.spins ≤ 3 + 1)) = true) ∧
    (let s := waitingAt false .retry 0
     (findWait 9 { s with time := 999 }).any (fun w => w.mode == .retry &&
       (cohort w WaitMode.retries { s with time := 999 }).any (fun x => !spaced { s with time := 999 } x 1000)) = true) ∧
    (let s := waitingAt true .retry 0
     (findWait 9 s).any (fun w => w.mode == .retry && cohort w WaitMode.retries s == [w] && spaced s w 1000 && w.who == .lane s.cur.id 5 0 && w.kind == .ldwt &&
       !isPoisoned s w.team w.loc 8 && readFe s w.team w.loc) = true ∧ AtPort s s.cur.id ∧
     (findOp 5 s.cur).any (fun o => o.kind == .fe .ldwt && o.lanes.map (·.lane) == [0] && o.z == 8 && o.ctr == .l && o.ret &&
       o.pred.isNone && decide (o.d + 1 < 0xF0)) = true ∧
     0 < width s.cur ∧ s.cur.exited.getLsbD 0 = false) ∧
    (let s := waitingAt false .parked 3
     (findWait 9 s).any (fun w => !budgetOver s w) = true) ∧
    (let s := waitingAt false .parked 2
     (findWait 9 s).any (fun w => budgetOver s w && w.who == .lane s.cur.id 5 0) = true ∧ AtPort s s.cur.id ∧ (findOp 5 s.cur).isSome = true ∧
     s.cur.inTrap = false ∧ s.cur.hdr.handler ≠ 0 ∧ s.cur.restoring = none ∧ s.cur.strand.mask.getLsbD 0 = true ∧ s.cur.rest = [] ∧
     s.cur.shelf = [] ∧ s.cur.strand.hold = .op 5 ∧ s.barrow = []) := by simp only [AtPort]; decide +kernel

/-- The operation of an engine, issued by the group at the port. -/
def engineOp (k : EngKind) (size landed : Nat) (land : Option DWord) (fail : Option (Cause × DWord)) : EngOp :=
  { id := 6, gid := some 1, pkt := none, ctx := 0, team := 1, part := 0, core := 0, half := false, kind := k, dst := 0x20000, src := 0x30000, size := size, fe := 0,
    land := land, bind := none, relay := false, chan := none, landed := landed, ahead := [],
    bits := [], edges := [], filled := false, parked := false, held := none,
    remote := false, fail := fail }

/-- A state with that operation. -/
def moving (x : EngOp) : State := { with_ (fun g => { g with cntC := 1 }) with engines := [x] }

theorem witness_EngineEvents :
    (let x := engineOp (.fill 0x0102030405060708) 256 0 none none
     let s := moving x
     findEng 6 s = some x ∧ engRunning x = true ∧ engineMayAct x s = true ∧ reach x x.dst 64 .wr s = (.at 0x20000 (.dev 0x20000), s) ∧
       earlierTouch x 0x20000 (.dev 0x20000) 64 s = false ∧ stepLength x 100 = 64 ∧ x.fe = 0 ∧ x.bind = none ∧ x.chan = none) ∧
    (let x := engineOp .copy 256 0 none none
     let s := moving x
     findEng 6 s = some x ∧ engRunning x = true ∧ stepLength x 256 = 256 ∧ toBoundary (x.src + dw x.landed) ≥ 256 ∧
       reach x x.src 256 .rd s = (.at 0x30000 (.dev 0x30000), s) ∧
       earlierTouch x 0x30000 (.dev 0x30000) 256 s = false ∧ reach x x.dst 256 .wr s = (.at 0x20000 (.dev 0x20000), s) ∧
       earlierTouch x 0x20000 (.dev 0x20000) 256 s = false ∧ x.ahead = []) ∧
    (let x := { engineOp .copy 256 0 none none with src := 0x30003 }
     let s := moving x
     stepLength x 96 = 64 ∧ min (min (64 + (8 - ((x.src + dw x.landed).toNat + 64) % 8) % 8) (x.size - x.landed)) (toBoundary (x.src + dw x.landed)) = 69 ∧
       reach x x.src 69 .rd s = (.at 0x30003 (.dev 0x30003), s) ∧ earlierTouch x 0x30003 (.dev 0x30003) 69 s = false) ∧
    (let x := engineOp .copy 256 256 none none
     findEng 6 (moving x) = some x ∧ engRunning x = false ∧ x.remote = false) ∧
    (let x := engineOp .copy 256 256 (some 0x40000) none
     let s := moving x
     fillDue x = true ∧ engineMayAct x s = true ∧ reach x 0x40000 8 .feWrite s = (.at 0x40000 (.dev 0x40000), s) ∧
       earlierTouch x 0x40000 (.dev 0x40000) 8 s = false ∧
       isPoisoned s x.team (.dev 0x40000) 8 = false ∧ readFe s x.team (.dev 0x40000) = true ∧
       (let u := writeFe 1 (.dev 0x40000) false s
        findEng 6 u = some x ∧ reach x 0x40000 8 .feWrite u = (.at 0x40000 (.dev 0x40000), u) ∧ readFe u x.team (.dev 0x40000) = false ∧
          u.waits = [] ∧ u.fills = [])) ∧
    (let x := engineOp .copy 256 256 none none
     let s := moving x
     engDone x = true ∧ moverOp x = false ∧ copyOf s x = none ∧ x.gid = some s.cur.id ∧ AtPort s s.cur.id) ∧
    (let x := engineOp .copy 256 255 none none; engDone x = false) ∧
    (let x := engineOp .copy 256 16 none (some (.protect, 0x20010))
     let s := moving x
     moverOp x = false ∧ copyOf s x = none ∧ x.gid = some s.cur.id ∧ remoteCause .protect = false ∧ residentLanes s.cur ≠ 0) := by
  simp only [AtPort]; decide +kernel

/-- Issues an instruction on `matrix`, with the operation started or not. -/
def streaming (i : Instr) (started : Bool) : State :=
  let s := after i matrix
  modStream 1 0 (fun x => { x with ops := x.ops.map (fun o => { o with started := started }) }) s

/-- The head of stream 0 of team 1. -/
def headOp (s : State) : Option TileOp := (getStream s 1 0).ops.head?

theorem witness_TileProgress :
    (let s := streaming (.tzra 3) false
     engineBusy s 1 = false ∧ (headOp s).any (fun o => !o.started && o.counted && agentMayAct (some o.gid) o.id s && o.kind == .zero) = true) ∧
    (let u := streaming (.tlda 30 6) false
     let s := { u with engines := u.engines.map (fun x => { x with landed := x.size }) }
     engineBusy s 1 = false ∧ (headOp s).any (fun o => !o.started && o.counted && agentMayAct (some o.gid) o.id s && o.kind == .load &&
       moverArrived s o && decide (o.m ≤ 128) && decide (o.n ≤ 256)) = true) ∧
    (let s := streaming (.tsta 30 6) false
     engineBusy s 1 = false ∧ (headOp s).any (fun o => !o.started && o.counted && agentMayAct (some o.gid) o.id s && o.kind == .store) = true) ∧
    (let s := streaming (.tmm 4 8 34) false
     engineBusy s 1 = false ∧ (headOp s).any (fun o => !o.started && o.counted && agentMayAct (some o.gid) o.id s && o.kind == .mul &&
       (tilePoison s 1 o).isNone && decide (o.m ≤ 128) && decide (o.n ≤ 256)) = true) ∧
    (let s := streaming (.tmmi 4 8 34) false
     (headOp s).any (fun o => !o.counted && !countWaits s 1 0 && agentMayAct (some o.gid) o.id s &&
       reach (countReader s 1 o) o.base 8 .feRead s == (.at 0x40000 (.dev 0x40000), s) && !isPoisoned s 1 (.dev 0x40000) 8 &&
       readFe s 1 (.dev 0x40000)) = true ∧
     (let u := writeFe 1 (.dev 0x40000) false s
      (headOp u).any (fun o => reach (countReader u 1 o) o.base 8 .feRead u == (.at 0x40000 (.dev 0x40000), u) &&
        !readFe u 1 (.dev 0x40000)) = true)) ∧
    (let s := streaming (.tmm 4 8 34) true
     (headOp s).any (fun o => tileFinished s o && o.gid == s.cur.id) = true ∧ AtPort s s.cur.id ∧ (getStream s 1 0).ops.length = 1) ∧
    (let s := after (.tmm 5 8 34) (modCur (fun g => { g with regs := Sparse.set (.u 0) g.regs 5 (.u 0x01020409) }) matrix)
     let u := modStream 1 0 (fun x => { x with ops := x.ops.map (fun o => { o with started := true }) }) s
     (headOp u).any (fun o => mirrored o && decide (7 < tileRowsOf o) && decide (3 < o.n)) = true) ∧
    (let s := streaming (.tzra 3) false; (headOp s).any (fun o => !tileFinished s o) = true) := by simp only [AtPort]; decide +kernel

/-! ### Witnesses: the life of a group -/

/-- The group at the port with its strand held. -/
def held (h : Hold) : State := with_ (fun g => { g with strand := { g.strand with hold := h } })

/-- Two live strands of lanes 0 to 3 and 4 to 7, at pcs 0x1000 and pc, the second having issued last at cycle 9. -/
def twoStrands (pc : DWord) : State := with_ (fun g => { g with
  strand := { g.strand with mask := 0x0F }, rest := [{ newStrand pc 0xF0 false 0 with issued := 9 }] })

/-- A live strand and a shelved one; the last swap was at cycle n. -/
def shelved (n : Nat) : State := { with_ (fun g => { g with
  strand := { g.strand with mask := 0x0F }, shelf := [newStrand 0x2000 0xF0 false 0], lastSwap := n }) with cores := [(coreKey 0 0, { Core.start with clk := 5000 })] }

theorem witness_TimersAndStrands :
    (let s := held (.sleep 0); AtPort s s.cur.id ∧ s.cur.rest = [] ∧ s.cur.shelf = [] ∧ (0 : DWord).toNat ≤ s.time.toNat) ∧
    (let s := held (.sleep 1); s.time.toNat < (1 : DWord).toNat) ∧
    (let s := held (.gfuse 4 0 0); AtPort s s.cur.id) ∧
    (let s := held (.gfuse 4 1 0); fuseLimit 1 = some 1000 ∧ s.time.toNat < 1000 ∧ (1000 : Nat) ≤ ({ s with time := 1000 } : State).time.toNat) ∧
    (let s := twoStrands 0x1000
     AtPort s s.cur.id ∧ (mergePair (consideredStrands s.cur)).any (fun p => p.1.mask &&& p.2.mask == 0) = true ∧ s.cur.shelf = []) ∧
    (let s := twoStrands 0x2000; mergePair (consideredStrands s.cur) = none) ∧
    (let s := shelved 0
     AtPort s s.cur.id ∧ s.cur.shelf.any (fun t => t.mask != 0) = true ∧ (longestLive (liveStrands s.cur)).isSome = true ∧
       s.cur.inTrap = false ∧ s.cur.lastSwap + 4096 ≤ clkOf s) ∧
    (let s := shelved 905; clkOf s < s.cur.lastSwap + 4096) ∧
    (let s := { twoStrands 0x2000 with cores := [(coreKey 0 0, { Core.start with clk := 4096 })] }; AtPort s s.cur.id ∧ (agedStrand s.cur s).isSome = true) ∧
    (let s := { twoStrands 0x2000 with cores := [(coreKey 0 0, { Core.start with clk := 4095 })] }; agedStrand s.cur s = none) ∧
    (let s := with_ (fun g => { g with waited := 64 }); s.cur.starved = none ∧ (candidate s s.cur).isSome = true) := by
  simp only [AtPort]; decide +kernel

/-- A group in an idempotent region and one in a remote region. -/
def inIdem : State := with_ (fun g => { g with
  idemr := some { first := 1, pc := 0x1000, id := 7, lanes := 0xFF, sig := 5, steady := true, mrg := false, count := 0, last := none,
                  restarting := false, due := none } })

/-- A load of group and its outstanding access. -/
def inRegion : State := after (.rbegin 0x100) unit

theorem witness_RegionsAndWatchdog :
    (AtPort inIdem inIdem.cur.id ∧ inIdem.cur.idemr.isSome = true ∧ restartIdle inIdem inIdem.cur = true) ∧
    (let s := modCur (fun g => { g with idemr := inIdem.cur.idemr }) (issued (.ld4 4 10 0 0) loads)
     AtPort s s.cur.id ∧ s.cur.idemr.isSome = true ∧ restartIdle s s.cur = false) ∧
    (AtPort inRegion inRegion.cur.id ∧ localIdle inRegion inRegion.cur = true ∧
      inRegion.cur.region.any (fun r => r.lanes &&& ~~~inRegion.cur.exited != 0 && mayWaitAway inRegion.cur r.firstOp == []) = true) ∧
    (let s := issued (.ld4 6 10 0 0) inRegion; s.cur.region.isSome = true ∧ localIdle s s.cur = false) ∧
    (let s := with_ (fun g => { g with noProg := 2000000000 })
     AtPort s s.cur.id ∧ timerRuns s s.cur = true ∧ watchdogLimit s ≤ s.cur.noProg ∧ (getGang s s.cur.gang).status ≠ .aborting ∧
       s.cur.inTrap = false ∧ s.cur.hdr.handler ≠ 0 ∧ s.cur.restoring = none ∧ s.cur.rest = [] ∧ s.cur.shelf = [] ∧ s.cur.strand.mask ≠ 0 ∧ s.cur.strand.hold = .none) ∧
    (let s := waitingAt false .parked 0
     s.cur.strand.hold = .op 5 ∧ (findOp 5 s.cur).any (fun o => o.ending.isNone) = true ∧ s.barrow = []) ∧
    (let s := with_ (fun g => { g with noProg := 1999999999 }); s.cur.noProg < watchdogLimit s) := by simp only [AtPort]; decide +kernel

/-- Whether an activation is whole. -/
def ready (a : Activation) : Bool := match a with | .ready _ => true | _ => false

/-- A bin of context 0 with threads entered at 500, or formed groups. -/
def binned (threads : List (Word × DWord)) (formed : List (List Word)) : State := { at_ 0 with
  time := 1500,
  bins := [(2, { used := true, part := 0, ctx := 0, gang := 1, key := 0x40000, lgw := 5, timer := 1000,
                 hdr := { KHeader.none with n := 8, ng := 8, lgw := 5, team := 32, shelf := 0, entry := 0x9000, handler := 0xA000 },
                 fallback := none, entry := 0x9000, threads := threads, formed := formed })] }

/-- A held PREL of package 1 on channel 5 that waits for n stores; 7 have arrived. -/
def prelHeld (n : Word) : State := { at_ 0 with
  ctxs := [(0, { getCtx (at_ 0) 0 with expbase := 0x100000, explen := 0x100000, arrivals := [(261, 7)] })],
  prels := [{ src := 1, count := n,
              rcd := { src := 1, ctx := 0, part := 0, core := 0, slot := 0, lane := 0, tag := 0, kind := .prel n, off := 0x40, size := 8,
                       ty := 0, round := 0, data := 0x1122334455667788, data2 := 0, chan := some 5, spin := 0, park := 0, scope := 4 } }] }

theorem witness_BinsAndPrels :
    (let s := binned [(0xA000, 500)] []; (getBin s 2).threads = [(0xA000, 500)] ∧ (getBin s 2).timer + (500 : DWord).toNat ≤ s.time.toNat) ∧
    (let s := binned [(0xA000, 501)] []; s.time.toNat < (getBin s 2).timer + (501 : DWord).toNat) ∧
    (let s := binned [(0xA000, 501)] [[1, 2, 3]]
     (getBin s 2).formed = [[1, 2, 3]] ∧ (getBin s 2).threads ≠ [] ∧ quiescing s 0 = false ∧ binYields s (getBin s 2) = false ∧
       (groups s).any (fun g => g.part == 0 && g.core == 1 && g.quarter == 3 && g.slot == 31) = false ∧
       fits s 0 1 3 (getBin s 2).hdr [(0, 5)] = true ∧ ready (activate 0 1 (getBin s 2).hdr s) = true) ∧
    (let s := prelHeld 8; s.prels[0]?.any (fun h => decide ((arrived s h.rcd).toNat < h.count.toNat)) = true) ∧
    (let s := prelHeld 7
     s.prels[0]?.any (fun h => h.rcd.kind == RemKind.prel 7 && decide (h.count.toNat ≤ (arrived s h.rcd).toNat) &&
       ingress h.rcd.ctx h.rcd.off 8 .wr s == (.ok 0x100040 (.dev 0x100040), s) && h.rcd.src != pkgId s) = true) := by decide +kernel

theorem witness_GroupsAndGangsEnd :
    (let s := with_ (fun g => { g with exited := 0xFF, strand := { g.strand with mask := 0 } })
     AtPort s s.cur.id ∧ mayRetire s s.cur = true ∧ ∀ g ∈ s.others, g.team ≠ s.cur.team) ∧
    (AtPort (at_ 0) (at_ 0).cur.id ∧ mayRetire (at_ 0) (at_ 0).cur = false) ∧
    (let s := held (.enq 3 8 [] (some 1))
     AtPort s s.cur.id ∧ s.cur.strand.mask ≠ 0 ∧ s.time.toNat < (1 : DWord).toNat ∧ (1 : DWord).toNat ≤ ({ s with time := 1 } : State).time.toNat ∧
       (getQueue s (queueKey s.cur.ctx 3)).skip.length < 64 ∧ s.cur.inTrap = false ∧ s.cur.hdr.handler ≠ 0 ∧ s.cur.restoring = none) ∧
    (getGang (at_ 0) 1).status ≠ .aborting ∧
    (let s := setGang 1 { getGang (at_ 0) 1 with status := .aborting } (at_ 0)
     (getGang s 1).status = .aborting ∧ (getGang s 1).parent = none ∧ childGangs s 1 = []) := by simp only [AtPort]; decide +kernel

/-! ### Witnesses: links and time -/

/-- A group whose 4-byte fetch-and-add (operation 5) of 7 in lane 0 is sent to host address 0x100. -/
def hostAdd : State := with_ (fun g => { g with
  cntL := 1, strand := { g.strand with hold := .op 5 },
  outs := [{ id := 5, kind := .atomic .add, z := 4, d := 4, ret := true, pred := none, uni := false, ctr := .l, scope := 2, hint := 0, ty := 2, round := 0,
             spins := 0, limit := 0, again := false, via := false, ending := none,
             lanes := [{ lane := 0, va := 0x20000, loc := .host 0x100, data := 7, data2 := 0, held := false, done := false, ret := 0 }] }] })

/-- The context with a host window at 0x20000, and a host page there that is absent for a second context. -/
def windowed : State := { at_ 0 with
  ctxs := [(0, { getCtx (at_ 0) 0 with hwin := 0x20000 }), (1, { Ctx.vacant with live := true, affinity := 1, hwin := 0x20000 })] }

theorem witness_HostLink :
    (AtPort hostAdd hostAdd.cur.id ∧ (findOp 5 hostAdd.cur).any (fun o => canPerform hostAdd hostAdd.cur o && o.kind == .atomic .add) = true ∧
      0 < width hostAdd.cur ∧ hostAdd.cur.exited.getLsbD 0 = false ∧ hostAdd.cur.strand.mask.getLsbD 0 = true ∧
      hostAdd.cur.inTrap = false ∧ hostAdd.cur.hdr.handler ≠ 0 ∧ hostAdd.cur.restoring = none ∧ hostAdd.cur.strand.hold = .op 5 ∧
      hostAdd.barrow = [] ∧ hostAdd.waits = []) ∧
    (0x1FFF0 % 65536 + 16 ≤ 65536 ∧ hostPlace .physical 0x1FFF0 16 .wr windowed = (.at none 0x1FFF0 (.dev 0x1FFF0), windowed) ∧
      hostPlace (.virtual 0) 0 8 .wr windowed = (.at (some 0) 0x20000 (.dev 0x20000), windowed) ∧
      hostPlace (.virtual 2) 0 8 .wr windowed = (.none, windowed) ∧ hostPlace (.virtual 1) 0 8 .wr windowed = (.absent 1 0x20000 false, windowed)) ∧
    (heldWrite windowed = none ∧
      heldWrite { windowed with hostHeld := [(1, 0x20000, .hostPlainWrite (.virtual 1) 0 [7])] } = some (1, 0x20000)) ∧
    (hostPlace .physical 0x28 8 .feWrite windowed = (.at none 0x28 (.dev 0x28), windowed) ∧ readFe windowed 0 (.dev 0x28) = true ∧
      (let s := writeFe 0 (.dev 0x28) false windowed
       hostPlace .physical 0x28 8 .feWrite s = (.at none 0x28 (.dev 0x28), s) ∧ readFe s 0 (.dev 0x28) = false)) ∧
    hostPlace .physical 0xFFFF 1 .rd windowed = (.at none 0xFFFF (.dev 0xFFFF), windowed) ∧ isPoisoned windowed 0 (.dev 0x28) 8 = false ∧
    (windowed.fw.running = false ∧ barHalf windowed .physical < 2 ^ 39 + 1 ∧ barHalf windowed (.virtual 0) < 2 ^ 35 + 1) ∧
    (hostPlace .physical 0x28 8 .at windowed = (.at none 0x28 (.dev 0x28), windowed) ∧ isPoisoned windowed 0 (.dev 0x28) 8 = false) ∧
    windowed.code = 1 := by simp only [AtPort]; decide +kernel

/-- A tensor header record at 0x20000 of a version: block-scaled data at 0x30000 of 2 rows and 8 columns, its scales at 0x40000. -/
def tensorAt (version : Byte) : State := { at_ 0 with
  fw := { (at_ 0).fw with running := true },
  mem := writeCells (at_ 0).mem 0x20000 (bytesLE 4 0x39515448 ++ [version, 7, 0, 0] ++ bytesLE 4 2 ++ bytesLE 4 8 ++ bytesLE 8 4 ++
    bytesLE 8 0x30000 ++ bytesLE 8 0x40000) }

theorem witness_HostLink_window :
    (let s := tensorAt 1
     s.fw.running = true ∧ (match frontBytes s 0 0x20000 64 with
       | .ok bs => tensorLegal bs && (tensorOf bs).format == 7 && devicePa s 0 (tensorOf bs).data == some 0x30000 &&
           devicePa s 0 (tensorOf bs).scales == some 0x40000
       | _ => false) = true) ∧
    (match frontBytes (tensorAt 2) 0 0x20000 64 with | .ok bs => !tensorLegal bs | _ => false) = true := by decide +kernel

/-- Source 15 in a state since a time. -/
def lit (st : BitVec 2) (since : DWord) (retire : Bool) : State := { at_ 0 with
  time := 200000000,
  sources := [(15, { Source.start with present := true, st := st, since := since, retire := retire, power := 0 })] }

theorem witness_SourcesAndSideband :
    (getSource (lit 2 0 false) 15).st = 2 ∧ (getSource (lit 3 0 false) 15).st = 3 ∧ (getSource (lit 0 0 false) 15).st ≠ 3 ∧
    (let s := lit 1 100000000 false
     (getSource s 15).st = 1 ∧ (getSource s 15).retire = false ∧ 100000000 ≤ (s.time - (getSource s 15).since).toNat ∧
       (getSource s 15).power.slt (getSource s 15).limit = false) ∧
    (let s := lit 1 100000001 false; (s.time - (getSource s 15).since).toNat < 100000000) ∧
    (let s := { at_ 0 with ports := [(35, { Port.start with rxmap := 0xFFFF })] }
     comingMap (getPort s 35) &&& 0x8000 ≠ 0 ∧ portRuns s 35 = none) ∧
    (let s := { at_ 0 with lgpod := 5, slotAt := 1, time := 31, tbase := { (at_ 0).tbase with inrota := true },
                           ports := [(5, { Port.start with rxmap := 0xFFFF })] }
     comingMap (getPort s 5) &&& 0x8000 ≠ 0 ∧ portRuns s 5 = some (0, 5) ∧ payloadNow s 0 = none ∧ (payloadNow { s with time := 32 } 0).isSome = true) ∧
    ((lit 2 0 false).repairs.length < 256 ∧ (getSource (lit 2 0 true) 15).retire = true ∧ reading.present = true ∧
      (getSource (lit 2 0 false) 15).present = true ∧ (getSource (lit 2 0 false) 15).means.length < 99) ∧
    (let s := { at_ 0 with fw := { (at_ 0).fw with running := true, sideband := true }, quiper := 0x12348 }
     quiperUp s = true ∧ quiperAt { s with i3cAddr := some 9 } = true ∧ s.quiper.toNat = 0x10000 + 35 * 0x100 + 0x48 ∧ s.i3cAddr = none ∧ ({ s with i3cAddr := some 9 } : State).i3cAddr = some 9 ∧
       s.fw.running = true) ∧ ({ (at_ 0).fw with running := false } : Firmware).running = false := by decide +kernel

/-- The time base in a state, in a pod of 32. -/
def timed (st : BitVec 2) (f : TimeBase → TimeBase) : State := { at_ 0 with
  time := 20000000, lgpod := 5, tbase := f { (at_ 0).tbase with st := st } }

theorem witness_TimeEvents :
    (timed 0 id).tbase.st = 0 ∧ ((timed 1 id).tbase.st = 1 ∧ (timed 1 id).tbase.st ≠ 0 ∧ (timed 1 id).tbase.marker = none ∧
      (19 : BitVec 16).toInt < 20 ∧ -20 < (-19 : BitVec 16).toInt ∧ (timed 1 id).tbase.accepted = 0) ∧
    1 ≤ (timed 1 (fun t => { t with accepted := 1 })).tbase.accepted ∧
    ((timed 2 (fun t => { t with ignored := 1 })).tbase.st = 2 ∧ (timed 2 (fun t => { t with ignored := 1 })).tbase.ignored = 1) ∧
    ((timed 3 id).tbase.st = 3 ∧ holdNs (timed 3 id) = 0) ∧ holdNs (timed 3 (fun t => { t with holdAt := 16000001 })) ≠ 0 ∧
    (timed 2 id).tbase.join = false ∧
    (let s := timed 2 (fun t => { t with join := true, joinAt := 0 })
     s.tbase.inrota = false ∧ s.lgpod ≠ 0 ∧ s.tbase.origin.toNat ≤ s.time.toNat ∧ s.tbase.joinAt.toNat + 10000000 ≤ cycleStart s ∧ s.tbase.ahead = 0) ∧
    ((timed 2 (fun t => { t with ahead := 1 })).tbase.ahead ≠ 0 ∧ (timed 2 id).time.toNat < refTime (timed 2 id) 20000001 ∧
      refTime (timed 2 id) 19999999 ≤ (timed 2 id).time.toNat ∧ (timed 2 id).tbase.marker = none) ∧
    (let s := timed 2 (fun t => { t with join := true, joinAt := 10000000 }); cycleStart s < s.tbase.joinAt.toNat + 10000000) ∧
    (let s := timed 2 (fun t => { t with inrota := true, leaving := some 39061 })
     s.tbase.inrota = true ∧ s.tbase.leaving = some 39061 ∧ 39061 < absSlot s) ∧
    (let s := timed 2 (fun t => { t with inrota := true, leaving := some 39062 }); absSlot s ≤ 39062) := by decide +kernel

/-! ### Witnesses: queues and packets -/

/-- Queue 3 of context 0, at device address 0x70000, its record at 0x60000, in a state that has run for 5 µs. -/
def queued (f : Queue → Queue) : State := { at_ 0 with
  time := 5000, queues := [(3, f { Queue.vacant with live := true, rcd := 0x60000, base := 0x70000 })] }

/-- A packet with the words 0 to 3. -/
def packet (w0 w1 w2 w3 w4 : DWord) (gang : Option Nat) : Packet :=
  { index := 0, seq := 9, words := [w0, w1, w2, w3, w4, 0, 0x50000, 0], since := 0, gang := gang, held := none, denied := false, inAbt := false }

/-- That packet at the front. -/
def front (w0 w1 w2 w3 w4 : DWord) : State := queued (fun q => { q with cur := some (packet w0 w1 w2 w3 w4 none) })

/-- A host fill held at an address since a time. -/
def fillAt (pa : Nat) (since : DWord) : State := { queued id with fills := [{ ctx := none, va := dw pa, pa := pa, val := 1, since := since }] }

theorem witness_QueueConsumption :
    (let s := { queued id with mem := writeCells (queued id).mem 0x70000 [7] }
     frontPlace s 0 (slotAddr (getQueue s 3) (getQueue s 3).cons.toNat) .feWrite = .ok (0x70000, .dev 0x70000) ∧
       (getQueue s 3).cur = none ∧ (getQueue s 3).live = true ∧ (getQueue s 3).stopped = false ∧
       (getQueue s 3).skip.contains (getQueue s 3).cons.toNat = false ∧ readFe s 0 (.dev 0x70000) = true ∧
       isPoisoned s 0 (.dev 0x70000) 64 = false ∧
       (nextPacket s 3 ((List.range 64).map (fun i => readByte s 0 (.dev 0x70000) i))).kind = 7 ∧
       packetLegal s 0 (nextPacket s 3 ((List.range 64).map (fun i => readByte s 0 (.dev 0x70000) i))) = true ∧
       readFe (writeFe 0 (.dev 0x70000) false s) 0 (.dev 0x70000) = false) ∧
    (let s := queued (fun q => { q with skip := [0] }); (getQueue s 3).skip.contains (getQueue s 3).cons.toNat = true) ∧
    (let s := queued (fun q => { q with abt := true })
     readRecordField s 3 0x18 1 = some 0 ∧ (getQueue s 3).abt = true ∧ Nat.testBit 0 2 = false ∧
       readRecordField { s with mem := writeCells s.mem 0x60018 [4] } 3 0x18 1 = some 4 ∧ Nat.testBit 4 2 = true) ∧
    (let s := fillAt 0x80000 4000
     s.fills[0]?.any (fun f => decide (f.since.toNat + 1000 ≤ s.time.toNat) && (slotIndexAt s f.pa).isNone) = true) ∧
    (let s := fillAt 0x80000 4001; s.fills[0]?.any (fun f => decide (s.time.toNat < f.since.toNat + 1000)) = true) ∧
    (let s := fillAt 0x700C0 4000
     s.fills[0]?.any (fun f => slotIndexAt s f.pa == some (3, 3)) = true ∧ (getQueue s 3).skip.length < 64) := by decide +kernel

/-- A kernel header at 0x80000 (3 of 240 registers, teams of 32 in groups of 32) and a launch record at 0x90000 of two teams on
partition 0. -/
def records (s : State) : State := { s with
  mem := writeCells (writeCells (writeCells (writeCells s.mem 0x80000 ([0x48, 0x4B, 0x51, 0x39, 0, 1, 8, 8, 5, 0, 32, 0, 0, 0, 0, 0, 0xFF]))
    0x80014 (bytesLE 4 1000 ++ bytesLE 8 0x9000)) 0x90000 (bytesLE 8 0x80000 ++ [2, 0, 0, 0, 1, 0, 0, 0])) 0x90038 [2] }

/-- A gang of that kernel, before its teams start. -/
def gangOf (st : GangStatus) (t0 : DWord) : Gang :=
  { Gang.vacant with
    status := st, seq := 2, queue := some (3, 0), t0 := t0,
    rcd := { LaunchRec.none with teams := 2, parts := 1 },
    hdr := { KHeader.none with n := 8, ng := 8, lgw := 5, team := 32, shelf := 0, entry := 0x9000 } }

/-- That gang as number 9, its packet at the front of its queue. -/
def launching (st : GangStatus) (t0 : DWord) : State :=
  setGang 9 (gangOf st t0) (queued (fun q => { q with cur := some (packet 1 0x90000 0 0 0 (some 9)) }))

theorem witness_Packets :
    (Starts (front 0x207 0 0 0 0) 3 7 (packet 0x207 0 0 0 0 none) ∧ Starts (front 7 0 0 0 0) 3 7 (packet 7 0 0 0 0 none)) ∧
    (let s := front 3 0x20000 5 0x200 0
     Starts s 3 3 (packet 3 0x20000 5 0x200 0 none) ∧ fieldD (0x200 : DWord) 0 3 = 0 ∧
       frontTarget 0 0x20000 .wr s = (.ok (0x20000, .dev 0x20000), s)) ∧
    (let s := front 3 0x20000 5 0x202 0
     fieldD (0x202 : DWord) 0 3 = 2 ∧ frontTarget 0 0x20000 .at s = (.ok (0x20000, .dev 0x20000), s) ∧
       isPoisoned s 0 (.dev 0x20000) 8 = false) ∧
    (let p := packet 4 0x20000 0 0xFF 0x1000000200 none
     let s := front 4 0x20000 0 0xFF 0x1000000200
     Starts s 3 4 p ∧ fieldD (p.word 4) 0 3 < 4 ∧ frontPlace s 0 (p.word 1) .rd = .ok (0x20000, .dev 0x20000) ∧
       isPoisoned s 0 (.dev 0x20000) 8 = false) ∧
    (let p := packet 4 0x20000 0 0xFF 0x500000200 none
     let s := queued (fun q => { q with busy := some p })
     waitingPacket s 3 4 = some p ∧ frontPlace s 0 (p.word 1) .rd = .ok (0x20000, .dev 0x20000) ∧ waitvalHolds p 0 true = true ∧
       fieldD (p.word 4) 32 32 ≠ 0 ∧ p.since.toNat + 1000 * fieldD (p.word 4) 32 32 ≤ s.time.toNat ∧
       (fillWord 0 (p.word 6) (errorValue 0x09) s).isSome = true) ∧
    (let p := packet 4 0x20000 1 0xFF 0x600000200 none
     let s := queued (fun q => { q with busy := some p })
     waitingPacket s 3 4 = some p ∧ waitvalHolds p 0 true = false ∧ s.time.toNat < p.since.toNat + 1000 * fieldD (p.word 4) 32 32) ∧
    (let s := front 5 0 0 0 0; Starts s 3 5 (packet 5 0 0 0 0 none) ∧ (getQueue s 3).open_ = []) ∧
    (let s := front 6 0x20000 0 0 0
     Starts s 3 6 (packet 6 0x20000 0 0 0 none) ∧
       frontTarget 0 0x20000 .wr (startBlocking 3 6 s) = (.ok (0x20000, .dev 0x20000), startBlocking 3 6 s)) ∧
    (let s := queued (fun q => { q with cur := some (packet 6 0x20000 0 0 0 none), open_ := [packet 2 0x20000 0x30000 64 0 none] })
     Starts s 3 6 (packet 6 0x20000 0 0 0 none) ∧ (getQueue s 3).open_ ≠ []) ∧
    (let s := front 2 0x20000 0x30000 64 0
     Starts s 3 2 (packet 2 0x20000 0x30000 64 0 none) ∧ copyFar s (packet 2 0x20000 0x30000 64 0 none) = none) := by
  refine ⟨?_, ?_, ?_, ?_, ?_, ?_, ?_, ?_, ?_, ?_⟩ <;> (try simp only [Starts]) <;> decide +kernel

theorem witness_Packets_launch :
    (let s := records (front 1 0x90000 0 0 0)
     (getQueue s 3).cur = some (packet 1 0x90000 0 0 0 none) ∧
       (match readLaunch s 0 0x90000 with
        | .ok (r, h, f) => !noFit s (launchGang 3 (packet 1 0x90000 0 0 0 none) r h f)
        | _ => false) = true) ∧
    (let s := launching .dep 0
     (getQueue s 3).cur = some (packet 1 0x90000 0 0 0 (some 9)) ∧ (getGang s 9).status = .dep ∧ headOfQueue s (getGang s 9) = true ∧
       depsDone s (getGang s 9) = true ∧ (getGang s 9).rcd.teams ≠ 0 ∧ nextToReserve s 9 = true) ∧
    (let s := setGang 8 { gangOf .reserving 0 with rcd := { (gangOf .reserving 0).rcd with prio := 7 } } (launching .dep 0)
     nextToReserve s 9 = false) := by decide +kernel

/-- A spawn header at 0x40000 for that kernel, and a fork's record at 0x90000 in v12:v13. -/
def forking (f : Group → Group) : State :=
  let s := records (modCur (fun g => f { g with regs := [(4, .u 0x40000), (6, .u 3), (8, .u 0x50000), (12, .u 0x90000)] }) gathering)
  { s with mem := writeCells s.mem 0x40000 (bytesLE 4 0x39515348 ++ [1, 0, 5, 0] ++ bytesLE 8 0 ++ bytesLE 8 0x80000 ++ bytesLE 8 0x9000) }

/-- That state with the group at its FORK. -/
def atFork (s : State) : State :=
  modCur (fun g => { g with idemr := none, strand := { g.strand with hold := .forkTeam 0x90000, replay := none } }) s

/-- That state with a SAFE before the FORK, and a save pool. -/
def saving (s : State) : State :=
  setCtx 0 { getCtx s 0 with savebase := 0x400000, savelen := 0x10000 } { s with mem := writeCells s.mem 0xFFC [7, 0, 0, 7] }

theorem witness_TeamInstructions_gang :
    (let s := { forking id with bins := [] }
     Clean (.spawn 4 5) s ∧ binOfKey s 0 0 1 0x40000 = none ∧ freeBin s 0 = some 0 ∧ (match readSpawn s 0 0 1 0x40000 with | .ok x => x.lgw == 5 | _ => false) = true) ∧
    (Clean (.fork 12) (forking id) ∧ LastAtFork 12 (forking id) (atFork (forking id)) ∧
      (match readLaunch (atFork (forking id)) 0 0x90000 with
       | .ok (r, h, f) =>
         let x := childGang (atFork (forking id)) (forking id).cur.team r h f
         decide (x.depth ≤ 8) && !noFit (atFork (forking id)) x &&
           (forkSafe (setGang (forking id).gangNo x { atFork (forking id) with gangNo := (forking id).gangNo + 1 }) (atFork (forking id)).cur).isNone
       | _ => false) = true) ∧
    (let s := saving (forking (fun g => { g with hdr := { g.hdr with table := [{ id := 7, bytes := 64, site := 0xFFC, save := 0x2000, restore := 0x2100 }] } }))
     LastAtFork 12 s (atFork s) ∧ s.others = [] ∧ (teamGroups (atFork s) 1).all (fun g => (forkSafe (atFork s) g).isSome) = true ∧
       (match readLaunch (atFork s) 0 0x90000 with
        | .ok (r, h, f) =>
          let s2 := setGang s.gangNo (childGang (atFork s) 1 r h f) { atFork s with gangNo := s.gangNo + 1 }
          (reserveAreas (getTeam s2 1).ctx ((teamGroups s2 1).filter (fun g => !g.preempt)) s2).isSome
        | _ => false) = true) ∧
    (let s := setGang 1 { getGang (forking id) 1 with depth := 8 } (forking id)
     LastAtFork 12 s (atFork s) ∧
       (match readLaunch (atFork s) 0 0x90000 with
        | .ok (r, h, f) => decide (9 ≤ (childGang (atFork s) 1 r h f).depth) &&
            (fillWord 0 r.done (errorValue 0x07) (atFork s)).any (fun u => u.cur.live && u.cur.team == 1 && (forkWait u.cur).isSome)
        | _ => false) = true) := by
  simp only [LastAtFork, Clean]
  refine ⟨?_, ?_, ?_, ?_⟩ <;> decide +kernel

/-! ### Witnesses: gangs and teams -/

theorem witness_GangEvents :
    (let s := launching .reserving 0
     s.time.toNat < 2 ^ 63 ∧ (getGang s 9).status = .reserving ∧ earlierReserving s 9 = false ∧ (getGang s 9).parent = none ∧
       headOfQueue s (getGang s 9) = true ∧ headOfQueue (setQueue 3 { getQueue s 3 with abt := true } s) (getGang s 9) = false ∧
       (placeNeeded 9 ((neededParts (getGang s 9)).zip ([5] ++ List.replicate (neededParts (getGang s 9)).length 127)) s []).2 = [] ∧
       (placeNeeded 9 ((neededParts (getGang s 9)).zip ([] ++ List.replicate (neededParts (getGang s 9)).length 127)) s []).2 ≠ [] ∧
       s.time.toNat < (getGang s 9).tried.toNat + 10000 ∧ (getGang s 9).tried.toNat + 10000 ≤ ({ s with time := 10000 } : State).time.toNat) ∧
    (let s := launching .waiting 0
     (getGang s 9).status = .waiting ∧ (getGang s 9).status ≠ .reserving ∧ nextToReserve s 9 = false ∧
       nextToReserve { s with time := 10000 } 9 = true) ∧
    (let s := launching .committed 4967
     (getGang s 9).status = .committed ∧
       (partsOf (getGang s 9)).any (fun p => teamsBound (getGang s 9) p != 0 && firstTeam (getGang s 9) p &&
         decide (firstDeadline s (getGang s 9) p < s.time.toNat) && firstFailed s (getGang s 9) p) = true ∧ gangDone s 9 = false) ∧
    (let s := setGang 9 { gangOf .committed 5000 with places := [{ key := coreKey 0 5, quarter := 0, scrAt := 0, scrAtF := 0, wins := [] }] }
       (launching .committed 5000)
     (partsOf (getGang s 9)).all (fun p => decide (s.time.toNat ≤ firstDeadline s (getGang s 9) p)) = true ∧
       firstFailed s (getGang s 9) 0 = false ∧ firstFailed (setCore 0 5 { getCore s 0 5 with service := false } s) (getGang s 9) 0 = true) ∧
    (let s := setGang 9 { gangOf .committed 0 with rcd := { (gangOf .committed 0).rcd with done := 0x50000 }, next := [2, 0, 0, 0] } (launching .committed 0)
     gangDone s 9 = true ∧ releaseDone s 9 (getGang s 9).rcd.rscope = true ∧ (getGang s 9).parent = none ∧
       (fillWord (getGang s 9).ctx (getGang s 9).rcd.done (getGang s 9).rcd.value s).isSome = true) := by decide +kernel

/-- Team 1 as a saved team of gang 1, with one group of 8 lanes. -/
def savedTeam (h : KHeader) : State :=
  let s := { at_ 0 with cur := Group.vacant }
  setTeam 1 { getTeam s 1 with
    status := .saved, hdr := h, main := h, saves := [{ base := 0, lgw := 3, exited := 0, safe := 1, area := 0x400000, cont := .none }] } s

/-- A header that fits a core, and one that fits none. -/
def smallHeader (pair : Nat) : KHeader :=
  { KHeader.none with n := 8, ng := 8, lgw := 3, team := 8, shelf := 0, scratch := pair }

theorem witness_TeamEvents :
    (let s := launching .committed 5000
     firstTeam (getGang s 9) 0 = true ∧ (getGang s 9).next.getD 0 0 < teamsBound (getGang s 9) 0 ∧
       (getGang s 9).t0.toNat ≤ s.time.toNat + 32 ∧
       (teamPlace s 9 0 91 3).any (fun p => let r := planPlace s (getGang s 9) 0 p; startsNowAt r.1 (getGang s 9) 0 r.2) = true ∧
       (let u := { s with time := 5050 }
        (teamPlace u 9 0 91 3).any (fun p => let r := planPlace u (getGang u 9) 0 p; !startsNowAt r.1 (getGang u 9) 0 r.2) = true)) ∧
    (getGang (launching .waiting 0) 9).status ≠ .committed ∧
    (let s := savedTeam (smallHeader 0)
     (getTeam s 1).status = .saved ∧ quiescing s (getTeam s 1).ctx = false ∧ restoreWaits s (getTeam s 1) = false ∧
       restoreYields s (getTeam s 1) = false ∧ (getTeam s 1).booked = false ∧ (let u := setTeam 1 { getTeam s 1 with booked := false } s
        (restoreHeader s (getTeam s 1)).any (fun h => (fitQuarter u 0 5 h (savedGroups (getTeam s 1))).isSome &&
          ready (activate 0 5 h u)) = true)) ∧
    (let s := savedTeam (smallHeader 1000000); restoreWaits s (getTeam s 1) = false ∧ restoreYields s (getTeam s 1) = false ∧ restoreHeader s (getTeam s 1) = none) ∧
    (let s := setTeam 1 { getTeam (at_ 0) 1 with saveAt := some 0 } { at_ 0 with time := 100000 }
     (getTeam s 1).saveAt = some 0 ∧ (getTeam s 1).status = .running ∧ 100000 ≤ s.time.toNat ∧
       ({ s with time := 99999 } : State).time.toNat < 100000) ∧
    (let s := setCore 0 91 { getCore (at_ 0) 0 91 with carve := 2 } (at_ 0)
     91 < enabledCores s 0 ∧ 0 < (getCore s 0 91).carve ∧ residentNeed s 0 91 = 0 ∧ scrAreas s 0 91 = []) ∧
    (let s := setGang 9 { gangOf .waiting 0 with hdr := { (gangOf .waiting 0).hdr with scratch := 65000 } } (at_ 0)
     (getCore s 0 5).carve < 2 ∧ growthAdmits s 0 5 2 = true) ∧
    (let s := setTeam 1 { getTeam (at_ 0) 1 with hdr := { (getTeam (at_ 0) 1).hdr with scratch := 65536 } }
       (setCore 0 0 { getCore (at_ 0) 0 0 with carve := 5 } (at_ 0))
     (scrAreas s 0 0).any (fun a => decide (carveBytes 0 < a.1 + a.2)) = true ∧ 0 ≤ (getCore s 0 0).carve) ∧
    (let s := setCore 0 5 { getCore (at_ 0) 0 5 with clocked := true } (at_ 0)
     (getCore s 0 5).clocked = true ∧ coreHolds s 0 5 = false ∧ coreReserved s 0 5 = false ∧ windowCount s.downs 0 (windowNow s) < s.rampDn.toNat) ∧
    (let s := setCore 0 0 { getCore (at_ 0) 0 0 with clocked := true } (at_ 0); coreHolds s 0 0 = true) ∧
    ((getCore (at_ 0) 0 0).service = true ∧
      (getCore (setCore 0 0 { getCore (at_ 0) 0 0 with service := false } (at_ 0)) 0 0).service = false) := by decide +kernel

/-! ### Witnesses: management commands -/

/-- A running steward, and context 0 with tables at 0x100000 that map the unit at 0x10000 to the frame 0x800000 and hold the unit at 0x20000
on host page 0x5000. -/
def mapped : State :=
  let s := at_ 0
  { s with
    fw := { s.fw with running := true }, time := 5000,
    mem := [(0x100000, 0x01), (0x100002, 0x20), (0x200000, 0x01), (0x200002, 0x30), (0x300000, 0x01), (0x300002, 0x40),
            (0x400008, 0x07), (0x40000A, 0x80), (0x400010, 0x02), (0x400011, 0x50)],
    ctxs := [(0, { getCtx s 0 with root := 0x100000, dirtyOn := true, pages := [{ va := 0x20000, leaf := 3, poison := [] }],
                                   handles := [{ id := 7, base := 0, len := 128, mtype := 0, writers := [], readers := [] }] })],
    queues := [(5, { Queue.vacant with live := true, rcd := 0x60000, base := 0x70000 })] }

/-- A command of a kind with its status word at 0x50000. -/
def command (kind : Nat) (w1 w2 w3 w4 : DWord) : MgmtPacket :=
  { w0 := dw (kind + 0x500000000), w1 := w1, w2 := w2, w3 := w3, w4 := w4, w5 := 0, w6 := 0, w7 := 0 }

/-- The header of an image with a security version, its payload 4,096 bytes long (R427). -/
def imageHeader (magic secver : Nat) : List Byte :=
  bytesLE 4 magic ++ bytesLE 4 1 ++ bytesLE 4 secver ++ bytesLE 4 1 ++ bytesLE 4 4096 ++ List.replicate 12 0 ++ bytesLE 48 5

/-- What the cryptography gives over that image's bytes; its keys and signatures are zeros. -/
def imageChecks : ImageChecks :=
  { payload := 5, hashes := [(List.replicate 32 0, 1), (List.replicate 1952 0, 2)],
    verified := [(0, List.replicate 32 0, imageHeader 0x39514657 3, List.replicate 64 0),
                 (1, List.replicate 1952 0, imageHeader 0x39514657 3, List.replicate 3309 0)] }

/-- A firmware image that the ROM accepts at counter 3, and one of another magic. -/
def image (magic : Nat) : FwImage := { header := imageHeader magic 3, checks := imageChecks }

/-- A package's firmware before it boots, its fuses burnt. -/
def fused (counter : Nat) : Firmware := { (at_ 0).fw with edFuse := 1, mlFuse := 2, counter := counter }

theorem witness_ContextsAndQueues :
    (let m := command 0x80 0x106000 0x100140104 0x200000 0x10000
     Command mapped m 0x80 ∧ ctxLegal mapped m = true ∧ (getCtx mapped (fieldD m.w2 0 8)).live = false) ∧
    (let m := command 0x80 0x106000 0x10014011F 0x200000 0x10000; ctxLegal mapped m = true ∧ fieldD m.w2 0 8 = 31) ∧
    (let m := command 0x80 0x106000 0x100140100 0x200000 0x10000
     Command mapped m 0x80 ∧ ctxLegal mapped m = true ∧ (getCtx mapped (fieldD m.w2 0 8)).live = true) ∧
    (let m := command 0x80 0x106000 0x100140020 0x200000 0x10000; Command mapped m 0x80 ∧ ctxLegal mapped m = false) ∧
    (let m := command 0x81 0 0 0 0; CtxCommand mapped m 0x81 ∧ mgmtClean m 0 = true ∧ fieldD m.w1 8 56 = 0) ∧
    (let m := command 0x81 9 0 0 0; Command mapped m 0x81 ∧ mgmtClean m 0 = true ∧ (getCtx mapped (mgmtCtxOf m)).live = false) ∧
    ((getCtx mapped 0).live = true ∧ (getCtx mapped 9).live = false ∧ mapped.peers = [] ∧
      ({ mapped with fw := { mapped.fw with running := false } } : State).fw.running = false) := by
  refine ⟨?_, ?_, ?_, ?_, ?_, ?_, ?_⟩ <;> (try simp only [Command, CtxCommand]) <;> decide +kernel

theorem witness_ContextCommands_stream : NoStreamHeld mapped 0 := fun e he => by
  rw [show mapped.peers = [] by decide +kernel] at he
  cases he

theorem witness_QueueCommands :
    (let m := command 0x82 0x500 0x60000 0 0
     CtxCommand mapped m 0x82 ∧ mgmtClean m 1 = true ∧ fieldD m.w1 16 48 = 0 ∧ mgmtByte9 m = 5 ∧ (getQueue mapped 5).live = true) ∧
    (let m := command 0x82 0x3F00 0x60000 0 0
     CtxCommand mapped m 0x82 ∧ mgmtByte9 m = 63 ∧ (getQueue mapped 63).live = false ∧ m.w2.toNat % 64 = 0 ∧
       (match frontBytes mapped 0 m.w2 64 with | .ok bs => !queueRecordLegal bs | _ => false) = true ∧
       (let s := { mapped with mem := writeCells mapped.mem 0x60008 [4] }
        (match frontBytes s 0 m.w2 64 with | .ok bs => queueRecordLegal bs | _ => false) = true ∧ s.waits = [] ∧ s.fills = [])) ∧
    (let m := command 0x82 0x4000 0x60000 0 0
     CtxCommand mapped m 0x82 ∧ mgmtByte9 m = 64 ∧ fieldD m.w1 16 48 = 0 ∧ queuesFull mapped 0 = false) ∧
    (let m := command 0x83 0x500 0 0 0; CtxCommand mapped m 0x83 ∧ mgmtClean m 0 = true ∧ (getQueue mapped 5).live = true) ∧
    (let m := command 0x83 0x600 0 0 0; CtxCommand mapped m 0x83 ∧ (getQueue mapped 6).live = false) ∧
    (let m := command 0x84 0x800000000 0 128 2
     CtxCommand mapped m 0x84 ∧ mgmtClean m 3 = true ∧ fieldD m.w1 8 24 = 0 ∧ m.w3.toNat % 128 = 0 ∧ m.w4.toNat < 3 ∧
       (∀ h ∈ (getCtx mapped 0).handles, h.id ≠ mgmtId m) ∧ (getCtx mapped 0).handles.length < 65536) ∧
    (let m := command 0x84 0x700000000 0 128 2; CtxCommand mapped m 0x84 ∧ ∃ h ∈ (getCtx mapped 0).handles, h.id = mgmtId m) ∧
    (let m := command 0x85 0x700000000 0 0 0
     CtxCommand mapped m 0x85 ∧ mgmtClean m 0 = true ∧ ∃ h ∈ (getCtx mapped 0).handles, h.id = mgmtId m) ∧
    (let m := command 0x85 0x800000000 0 0 0; CtxCommand mapped m 0x85 ∧ ∀ h ∈ (getCtx mapped 0).handles, h.id ≠ mgmtId m) ∧
    (let m := command 0x8B 0 0 0 0
     Command { mapped with fw := { mapped.fw with image := some (image 0x39514657) } } m 0x8B ∧ fieldD m.w0 8 8 = 0 ∧ m.w1 = 0 ∧ mgmtClean m 0 = true) := by
  refine ⟨?_, ?_, ?_, ?_, ?_, ?_, ?_, ?_, ?_, ?_⟩ <;> (try simp only [Command, CtxCommand]) <;> decide +kernel

/-! A table of mapped with one entry in use is read there only: the other rows are zero. -/

/-- Eight bytes that no cell lists are 0. -/
theorem readBytes_unlisted (s : State) (a : Nat) (h : ∀ c ∈ s.mem, c.1 < a ∨ a + 8 ≤ c.1) : readBytes s 0 (.dev a) 8 = 0 := by
  have get0 : ∀ (l : List Host.Cell) (k : Nat), (∀ c ∈ l, c.1 ≠ k) → Sparse.get unwritten l k = unwritten := by
    intro l k hl
    induction l with
    | nil => rfl
    | cons c l ih =>
      have hc := hl c (List.mem_cons_self ..)
      simp only [Sparse.get, if_neg hc]
      exact ih (fun d hd => hl d (List.mem_cons_of_mem _ hd))
  have byte : ∀ i < 8, readByte s 0 (.dev a) i = 0 := fun i hi => get0 _ _ (fun c hc => by have := h c hc; omega)
  simp [readBytes, List.range_succ, byte, natLE]

/-- The entries below a table lie below its one row in use, which names the table next. -/
theorem entriesOf_row (s : State) (l table va k e next : Nat) (x : Entry)
    (h : s.mem.all (fun c => decide (c.1 < table) || decide (table + 8 * 2 ^ levelBits (l + 1) ≤ c.1) ||
      (decide (table + 8 * k ≤ c.1) && decide (c.1 < table + 8 * k + 8))) = true)
    (he : readBytes s 0 (.dev (table + 8 * k)) 8 = e) (h0 : e.testBit 0 = true) (h1 : e.testBit 1 = false)
    (hn : bits e 8 44 * 256 = next) (hx : x ∈ entriesOf s (l + 1) table va) :
    x ∈ entriesOf s l next (va + k * 2 ^ levelShift (l + 1)) := by
  obtain ⟨i, hi, hx⟩ := List.mem_flatMap.1 hx
  dsimp only at hx
  by_cases hik : i = k
  · subst hik
    simpa [he, h0, h1, hn] using hx
  · rw [readBytes_unlisted s (table + 8 * i) (by
      intro c hc
      have := List.all_eq_true.1 h c hc
      have hb := List.mem_range.1 hi
      simp at this
      omega)] at hx
    simp at hx

/-- The tables below a table are itself and those below its one row in use. -/
theorem tablesOf_row (s : State) (l table k e next : Nat) (x : Nat × Nat)
    (h : s.mem.all (fun c => decide (c.1 < table) || decide (table + 8 * 2 ^ levelBits (l + 1) ≤ c.1) ||
      (decide (table + 8 * k ≤ c.1) && decide (c.1 < table + 8 * k + 8))) = true)
    (he : readBytes s 0 (.dev (table + 8 * k)) 8 = e) (hn : bits e 8 44 * 256 = next) (hx : x ∈ tablesOf s (l + 1) table) :
    x = (table, 8 * 2 ^ levelBits (l + 1)) ∨ x ∈ tablesOf s l next := by
  rcases List.mem_cons.1 hx with hx | hx
  · exact .inl hx
  obtain ⟨i, hi, hx⟩ := List.mem_flatMap.1 hx
  dsimp only at hx
  by_cases hik : i = k
  · subst hik
    rw [he, hn] at hx
    split at hx
    · exact .inr hx
    · cases hx
  · rw [readBytes_unlisted s (table + 8 * i) (by
      intro c hc
      have := List.all_eq_true.1 h c hc
      have hb := List.mem_range.1 hi
      simp at this
      omega)] at hx
    simp at hx

/-- The entries of a context with the tables of mapped are those of its last table. -/
theorem mapped_entries (s : State) (hm : s.mem = mapped.mem) (hr : (getCtx s 0).root = 0x100000) (x : Entry) (hx : x ∈ ctxEntries s 0) :
    x ∈ entriesOf s 0 0x400000 0 := by
  have rd : ∀ a, readBytes s 0 (.dev a) 8 = readBytes mapped 0 (.dev a) 8 := fun a => by simp only [readBytes, readByte, hm]
  rw [ctxEntries, hr] at hx
  have e2 := entriesOf_row s 2 0x100000 0 0 0x200001 0x200000 x (by rw [hm]; decide +kernel) (by rw [rd]; decide +kernel) (by decide +kernel)
    (by decide +kernel) (by decide +kernel) hx
  have e1 := entriesOf_row s 1 0x200000 _ 0 0x300001 0x300000 x (by rw [hm]; decide +kernel) (by rw [rd]; decide +kernel) (by decide +kernel)
    (by decide +kernel) (by decide +kernel) e2
  have e0 := entriesOf_row s 0 0x300000 _ 0 0x400001 0x400000 x (by rw [hm]; decide +kernel) (by rw [rd]; decide +kernel) (by decide +kernel)
    (by decide +kernel) (by decide +kernel) e1
  simpa only [Nat.zero_mul, Nat.add_zero] using e0

/-- Memory of mapped that meets neither the frame of its unit, nor its tables, nor what is reserved, is free. -/
theorem mapped_free (f n : Nat)
    (hm : [(0x800000, 65536), (0x100000, 8 * 2 ^ levelBits 3), (0x200000, 8 * 2 ^ levelBits 2), (0x300000, 8 * 2 ^ levelBits 1),
      (0x400000, 8 * 2 ^ levelBits 0), (reserveBase mapped 0, 2 ^ 27), ((getCtx mapped 0).savebase, (getCtx mapped 0).savelen)].all
        (fun e => !rangesMeet f n e.1 e.2) = true) (hf : meetsFirmware mapped f n = false) : memoryInUse mapped f n = false := by
  simp only [List.all_cons, List.all_nil, Bool.and_true, Bool.and_eq_true, Bool.not_eq_true'] at hm
  obtain ⟨h0, h1, h2, h3, h4, h5, h6⟩ := hm
  have mem : ∀ x ∈ ctxEntries mapped 0, (x.device && rangesMeet f n x.frame (2 ^ levelShift x.level)) = false := by
    intro x hx
    have e0 := mapped_entries mapped rfl (by decide +kernel) x hx
    have all : (entriesOf mapped 0 0x400000 0).all (fun x => !x.device || (x.frame, 2 ^ levelShift x.level) == (0x800000, 65536)) = true := by
      decide +kernel
    have hx := List.all_eq_true.1 all x e0
    cases hd : x.device with
    | false => rfl
    | true =>
      simp only [hd, Bool.not_true, Bool.false_or, beq_iff_eq, Prod.mk.injEq] at hx
      simp [hx.1, hx.2, h0]
  have tab : ∀ x ∈ tablesOf mapped 3 0x100000, rangesMeet f n x.1 x.2 = false := by
    intro x hx
    rcases tablesOf_row mapped 2 0x100000 0 0x200001 0x200000 x (by decide +kernel) (by decide +kernel) (by decide +kernel) hx with rfl | hx
    · exact h1
    rcases tablesOf_row mapped 1 0x200000 0 0x300001 0x300000 x (by decide +kernel) (by decide +kernel) (by decide +kernel) hx with rfl | hx
    · exact h2
    rcases tablesOf_row mapped 0 0x300000 0 0x400001 0x400000 x (by decide +kernel) (by decide +kernel) (by decide +kernel) hx with rfl | hx
    · exact h3
    · rw [List.mem_singleton.1 hx]; exact h4
  have anyE : (ctxEntries mapped 0).any (fun x => x.device && rangesMeet f n x.frame (2 ^ levelShift x.level)) = false :=
    List.any_eq_false.2 (fun x hx => by simp [mem x hx])
  have anyT : (tablesOf mapped 3 0x100000).any (fun t => rangesMeet f n t.1 t.2) = false := List.any_eq_false.2 (fun x hx => by simp [tab x hx])
  have hc : mapped.ctxs = [(0, getCtx mapped 0)] := by decide +kernel
  have hr : (getCtx mapped 0).root = 0x100000 := by decide +kernel
  have hg : (getCtx mapped 0).mig = none := by decide +kernel
  have hj : mapped.tbase.join = false := by decide +kernel
  simp only [memoryInUse, hc, List.any_cons, List.any_nil, anyE, anyT, hr, hg, h5, h6, hj, hf, Bool.false_and, Bool.or_self, Bool.and_false]

theorem witness_frame : frameLegal mapped 0x900000 = true := by
  simp only [frameLegal, mapped_free 0x900000 65536 (by decide +kernel) (by decide +kernel)]
  decide +kernel

theorem witness_reserve : memoryInUse mapped (reserveBase mapped 4) (2 ^ 27) = false ∧ memoryInUse mapped (reserveBase mapped 31) (2 ^ 27) = false :=
  ⟨mapped_free _ _ (by decide +kernel) (by decide +kernel), mapped_free _ _ (by decide +kernel) (by decide +kernel)⟩

/-- A package of which context 0's save pool takes the whole memory. -/
def fullMemory (s : State) : State := setCtx 0 { getCtx s 0 with savelen := 2 ^ 45 } s

/-- All of its memory is in use. -/
theorem fullMemory_inUse (s : State) (f n : Nat) (hl : (getCtx (fullMemory s) 0).live = true) (hv : (getCtx (fullMemory s) 0).savelen = 2 ^ 45) (hb : (getCtx (fullMemory s) 0).savebase = 0)
    (hc : (0, getCtx (fullMemory s) 0) ∈ (fullMemory s).ctxs) (hn : 0 < n) (hf : f < 2 ^ 45) : memoryInUse (fullMemory s) f n = true := by
  have hr : rangesMeet f n 0 (2 ^ 45) = true := by simp only [rangesMeet, Bool.and_eq_true, decide_eq_true_eq, bne_iff_ne]; omega
  simp only [memoryInUse, Bool.or_eq_true, List.any_eq_true]
  exact .inr ⟨_, hc, by simp only [hl, hb, hv, hr, Bool.true_and, Bool.or_true, Bool.true_or]⟩

theorem witness_ContextCommands_resource :
    (let m := command 0x80 0x106000 0x100140104 0x200000 0x10000
     Command (fullMemory mapped) m 0x80 ∧ ctxLegal (fullMemory mapped) m = true ∧ (getCtx (fullMemory mapped) (fieldD m.w2 0 8)).live = false) ∧
    memoryInUse (fullMemory mapped) (reserveBase (fullMemory mapped) 4) (2 ^ 27) = true :=
  ⟨by simp only [Command]; decide +kernel,
   fullMemory_inUse mapped _ _ (by decide +kernel) (by decide +kernel) (by decide +kernel) (by decide +kernel) (by decide +kernel) (by decide +kernel)⟩

/-- The unit at 0x10000 on its way, to frame 0x900000 or to host page 0x5000. -/
def underWay (toHost : Bool) : State := setCtx 0 { getCtx mapped 0 with
  mig := some { va := 0x10000, old := 0x800000, frame := if toHost then 0x5000 else 0x900000, toHost := toHost, status := 0x50000, round := 2, last := 5, marked := [3] } } mapped

/-- A fault of the unit at 0x40000 with the strand of the group at the port held by it, and nothing else. -/
def faulted : State := { setCtx 0 { getCtx mapped 0 with
  faults := [{ id := 3, va := 0x40000, kind := 0, src := 0, pkg := 0, time := 0 }] }
    (modCur (fun g => { g with strand := { g.strand with hold := .fault false 0x40008 } }) mapped) with teams := [], queues := [] }

theorem witness_PagingCommands :
    (let m := command 0x86 0 0x10000 0x10000 0
     CtxCommand mapped m 0x86 ∧ mgmtClean m 2 = true ∧ fieldD m.w1 8 56 = 0 ∧ m.w2.toNat % 65536 = 0 ∧ m.w3.toNat % 65536 = 0 ∧
       opsUnderWay (relocateWaits 0 (dropTranslations 0 0x10000 0x10000 mapped)) 0 0x10000 0x10000 = [] ∧
       (let s := modCur (fun g => { g with outs := (issued (.ld4 4 10 0 0) loads).cur.outs }) mapped
        let s1 := relocateWaits 0 (dropTranslations 0 0x20000 0x10000 s)
        opsUnderWay s1 0 0x20000 0x10000 ≠ [] ∧
        invalWaits s1 { ctx := 0, base := 0x20000, len := 0x10000, status := 0x50000, ops := opsUnderWay s1 0 0x20000 0x10000 } = true ∧
        invalWaits s1 { ctx := 0, base := 0x20000, len := 0x10000, status := 0x50000, ops := [(77, 1)] } = false)) ∧
    (let m := command 0x88 0 0x10000 0x5000 0
     CtxCommand mapped m 0x88 ∧ m.w3.toNat % 4096 = 0 ∧ mgmtClean m 2 = true ∧ addrForm mapped m.w2 = .plain m.w2.toNat ∧
       (leafEntry mapped 0 0x10000).any (fun x => x.device && x.level == 0) = true) ∧
    (let m := command 0x87 0 0x10000 0x900000 0
     CtxCommand mapped m 0x87 ∧ m.w3.toNat % 65536 = 0 ∧ frameLegal mapped 0x800001 = false ∧
       leafEntry mapped 0 0x30000 = none ∧ mgmtOpen (underWay true) = true ∧ (underWay true).fw.running = true ∧ (mgmtInstr m).isSome = true) ∧
    (let m : Migration := { va := 0x10000, old := 0x800000, frame := 0x900000, toHost := false, status := 0x50000, round := 1, last := 512, marked := [3] }
     m.more = true ∧ (leafEntry (setCtx 0 { getCtx mapped 0 with mig := some m } mapped) 0 0x10000).isSome = true ∧
       rangesMeet m.old 65536 m.frame 65536 = false ∧ { m with round := 8 }.more = false ∧ ∀ k ∈ m.marked, k < 512) ∧
    (let s := underWay false
     (leafEntry s 0 0x10000).any (fun x => !rangesMeet x.at_ 8 0x50000 8 && !rangesMeet 0x900000 65536 x.at_ 8) = true ∧
       unitLocked s 0 0x10000 = false ∧ rangesMeet 0x900000 65536 0x50000 8 = false ∧ isPoisoned s 0 (.dev 0x50000) 8 = false ∧
       unitLocked { s with locks := [{ eng := 1, part := 0, core := 0, team := 1, ctx := 0, lo := 0x1FFFF, len := 1, dst := true }] } 0 0x10000 = true) ∧
    (let s := { underWay true with cur := Group.vacant }
     (leafEntry s 0 0x10000).isSome = true ∧ unitLocked s 0 0x10000 = false ∧ groups s = [] ∧ isPoisoned s 0 (.dev 0x50000) 8 = false) ∧
    (let s := { mapped with cur := Group.vacant, queues := [] }
     walk s 0 0x20000 = .absent true ∧ ((getCtx s 0).pages.find? (fun p => p.va == dw 0x20000)).isSome = true ∧
      (getCtx s 0).waiting = [] ∧ (let t := reportFault 0 0x20008 .wr 3 0 true s
        ((getCtx t 0).waiting.find? (fun w => w.1 && w.2.va == dw 0x20000)).isSome = true ∧ (getCtx t 0).faults.length < 4096) ∧
      ((ctxEntries s 0).find? (fun x => x.va == 0x20000 && !x.e.testBit 0)).isSome = true ∧ s.served = [] ∧ s.peers = [] ∧
      groups s = [] ∧ s.queues = [] ∧ walk s 0 0x10000 ≠ .absent true) ∧
    (let m := command 0x89 0x300000000 1 0 0
     CtxCommand faulted m 0x89 ∧ mgmtClean m 1 = true ∧ fieldD m.w1 8 24 = 0 ∧ m.w2.toNat ≤ 1 ∧
       ((getCtx faulted 0).faults.find? (fun f => f.id == mgmtId m)).isSome = true ∧ faulted.served = [] ∧ faulted.peers = [] ∧ faulted.queues = [] ∧
       faulted.cur.live = true ∧ faulted.others = [] ∧ faulted.cur.rest = [] ∧ faulted.cur.shelf = [] ∧
       faulted.cur.strand.hold = .fault false 0x40008 ∧ faulted.cur.outs = [] ∧ faulted.cur.ctx = 0 ∧ (0x40008 : DWord).toNat / 65536 = (0x40000 : DWord).toNat / 65536 ∧
       (lowestLane faulted.cur.strand.mask).isSome = true ∧ nextInstr faulted.cur.strand faulted.cur faulted = some (.illegalWord 0) ∧
       faulted.cur.inTrap = false ∧ faulted.cur.hdr.handler ≠ 0 ∧ faulted.cur.restoring = none ∧ faulted.teams = [] ∧ faulted.prels = [] ∧
       faulted.engines = [] ∧ faulted.hostHeld = []) ∧
    (let m := command 0x89 0x400000000 0 0 0
     CtxCommand faulted m 0x89 ∧ (getCtx faulted 0).faults.find? (fun f => f.id == mgmtId m) = none) := by
  refine ⟨?_, ?_, ?_, ?_, ?_, ?_, ?_, ?_, ?_⟩ <;> (try simp only [Command, CtxCommand]) <;> decide +kernel

/-- A unit that pages in and for which no frame is free, with the fault that waits for it; and one for which there is one. -/
theorem witness_PagingCommands_frame :
    (let s := fullMemory (reportFault 0 0x20008 .wr 3 0 true mapped)
     freeFrame s = none ∧ walk s 0 0x20000 = .absent true ∧ ((getCtx s 0).pages.find? (fun p => p.va == dw 0x20000)).isSome = true ∧
       ((getCtx s 0).waiting.find? (fun w => w.1 && w.2.va == dw 0x20000)).isSome = true ∧ (getCtx s 0).faults.length < 4096) ∧
    freeFrame mapped ≠ none := by
  refine ⟨⟨?_, by decide +kernel, by decide +kernel, by decide +kernel, by decide +kernel⟩, ?_⟩
  · simp only [freeFrame, Option.map_eq_none_iff, List.find?_eq_none, List.mem_range]
    intro k hk
    have hk : k < 2 ^ 29 := Nat.lt_of_lt_of_le hk (by decide +kernel)
    rw [frameLegal, fullMemory_inUse _ _ _ (by decide +kernel) (by decide +kernel) (by decide +kernel) (by decide +kernel) (by decide) (by omega)]
    simp
  · simp only [freeFrame, ne_eq, Option.map_eq_none_iff, List.find?_eq_none, List.mem_range]
    intro h
    exact h 0x90 (by decide +kernel) witness_frame

/-- Context 0 with a checkpoint in a phase since a time, started or marked then. -/
def checkpointing (phase : CkptPhase) (t : DWord) (round : Nat) : State := setCtx 0 { getCtx mapped 0 with
  ckpt := some { phase := phase, full := true, epoch := 4, start := t, status := 0x50000, round := round, marked := t } } mapped

theorem witness_Checkpoints :
    (let m := command 0x8A 0x100 4 5000 0
     CtxCommand mapped m 0x8A ∧ ckptLegal m = true ∧ mgmtByte9 m = 1 ∧ (getCtx mapped 0).dirtyOn = true ∧ (getCtx mapped 0).ckpt = none ∧
       m.w3.toNat ≤ mapped.time.toNat ∧ (roundEntries mapped 0 false).any (fun x => !pagedEntry x && x.level == 0) = true) ∧
    (let m := command 0x8A 0 4 5001 0
     CtxCommand mapped m 0x8A ∧ ckptLegal m = true ∧ mgmtByte9 m = 0 ∧ mapped.time.toNat < m.w3.toNat ∧
       CtxCommand (checkpointing .armed 0 0) m 0x8A ∧ (getCtx (checkpointing .armed 0 0) 0).ckpt.isSome = true) ∧
    ((5000 : DWord).toNat ≤ (checkpointing .armed 5000 0).time.toNat ∧ (checkpointing .armed 5001 0).time.toNat < (5001 : DWord).toNat) ∧
    moreRounds (checkpointing .rounds 0 4) 0 4 = false ∧
    (let s := checkpointing .quiesce 0 2
     (residentTeams s 0).any (missedLimit s 0) = false ∧ drained s 0 = false ∧
       (residentTeams { s with time := 1000000000 } 0).any (missedLimit { s with time := 1000000000 } 0) = true ∧
       drained { s with teams := [] } 0 = true ∧
       (match (getCtx s 0).ckpt with
         | some k => haveMet (arriveMeet 0 k { s with teams := [], lgpod := 0 }) 0 && !haveMet (arriveMeet 0 k { s with teams := [], lgpod := 5 }) 0
         | none => false) = true ∧ podSize { s with lgpod := 0 } = 1 ∧ (∀ e ∈ s.episodes, e.ctx ≠ 32)) ∧
    (let s := { checkpointing .meet 0 2 with teams := [] }; drained s 0 = true ∧ haveMet s 0 = true) ∧
    (let m := command 0x8A 0x200 4 0 0
     CtxCommand mapped m 0x8A ∧ ckptLegal m = true ∧ mgmtByte9 m = 2 ∧ residentTeams mapped 0 ≠ [] ∧
       (let s := { mapped with teams := [] }
        CtxCommand s m 0x8A ∧ residentTeams s 0 = [] ∧ s.tier = [] ∧
          (leafEntry (splitUnit 0 0x10000 s) 0 0x10000).any (fun x => x.device && !rangesMeet x.frame 65536 (mgmtStatusAt m) 8) = true ∧
          (getCtx s 0).ckpt = none ∧ m.w3.toNat ≤ s.time.toNat)) ∧
    (let m := command 0x8A 0x200 4 5001 0
     let s := { mapped with teams := [] }
     CtxCommand s m 0x8A ∧ ckptLegal m = true ∧ mgmtByte9 m = 2 ∧ residentTeams s 0 = [] ∧ s.time.toNat < m.w3.toNat) ∧
    isPoisoned (checkpointing .quiesce 0 2) 0 (.dev 0x50000) 8 = false ∧
    mapped.repairs.length < 256 ∧ 256 ≤ (List.replicate 256 (Repair.lane 0)).length := by
  refine ⟨?_, ?_, ?_, ?_, ?_, ?_, ?_, ?_, ?_, ?_⟩ <;> (try simp only [Command, CtxCommand]) <;> decide +kernel

/-- A sum with a positive term is positive. -/
theorem foldl_add_pos : ∀ (l : List Nat) (a : Nat), (0 < a ∨ ∃ n ∈ l, 0 < n) → 0 < l.foldl (· + ·) a
  | [], a, h => by simpa using h
  | m :: l, a, h => foldl_add_pos l (a + m) (by
      rcases h with h | ⟨n, hn, hp⟩
      · exact .inl (by omega)
      · rcases List.mem_cons.1 hn with rfl | hn
        · exact .inl (by omega)
        · exact .inr ⟨n, hn, hp⟩)

/-- Round 1 is followed by another where a unit is dirty. -/
theorem moreRounds_one (s : State) (c : Nat) (h : (roundEntries s c false).any (fun x => decide (0 < (entryUnits x).length)) = true) :
    moreRounds s c 1 = true := by
  obtain ⟨x, hx, hp⟩ := List.any_eq_true.1 h
  have : 0 < ((roundEntries s c false).map (fun x => (entryUnits x).length)).foldl (· + ·) 0 :=
    foldl_add_pos _ 0 (.inr ⟨_, List.mem_map_of_mem hx, by simpa using hp⟩)
  simp [moreRounds, this]

theorem witness_Checkpoints_rounds : moreRounds (checkpointing .rounds 0 1) 0 1 = true := moreRounds_one _ _ (by decide +kernel)

/-- The unit at 0x10000 is not paged out. -/
theorem witness_Checkpoints_unit : ∀ y ∈ ctxEntries { mapped with teams := [] } 0, y.va = 0x10000 → pagedEntry y = false := fun y hy hv => by
  have e0 := mapped_entries { mapped with teams := [] } rfl (by decide +kernel) y hy
  have all : (entriesOf { mapped with teams := [] } 0 0x400000 0).all (fun y => y.va != 0x10000 || !pagedEntry y) = true := by decide +kernel
  have := List.all_eq_true.1 all y e0
  simpa [hv] using this

/-- The bytes of a unit that the tier returns. -/
theorem witness_Checkpoints_bytes : (List.replicate 65536 (0 : Byte)).length = 65536 := List.length_replicate

/-! ### Witnesses: the pod, and the package -/

/-- Package 0 of a pod of 32 in the rota, its sources live and slot n begun; peer 5 has a health and quiet slots. -/
def rotating (health : BitVec 2) (quiet n : Nat) : State := { at_ 0 with
  time := 20000000000, lgpod := 5, slotAt := n, tbase := { (at_ 0).tbase with inrota := true, st := 2 },
  sources := (List.range 16).map (fun k => (k, { Source.start with present := true, st := 2 })),
  health := [(5, health)], recovAt := [(5, 0)], peers := [(5, { Peer.start with quiet := quiet })] }

/-- A header flit with its CRC. -/
def sealed_ (h : HeaderFlit) : HeaderFlit := { h with crc := crc32 (headerBytes h) }

/-- A header flit whose CRC is right survives its checks where its codewords do. -/
theorem headerGood_crc (m : BitVec 16) (h : HeaderFlit) (c : BitVec 32) (hc : crc32 (headerBytes h) = c) :
    headerGood m { h with crc := c } = !uncorrectable (mapWords m h.words) := by
  have hb : headerBytes { h with crc := c } = headerBytes h := rfl
  simp [headerGood, hb, hc]

theorem headerGood_sealed (m : BitVec 16) (h : HeaderFlit) : headerGood m (sealed_ h) = !uncorrectable (mapWords m h.words) :=
  headerGood_crc m h _ rfl

/-- A header flit from package 5, with a codeword that can be corrected or one that cannot. -/
def header (good : Bool) : HeaderFlit := sealed_
  { front := [], crc := 0, words := [(3, 7, if good then 15 else 16)], marker := none, missed := [], seq := 0, src := 5, slot := 0, cycle := 0,
    map := 0xFFFF, high := 1, gaps := [], room := 9, overflow := 0, tokens := [], acks := [] }

/-- The start of the payload of a running slot, with port 5's header still to come, and a stretch of it gone. -/
def sending (gone : Nat) : State :=
  let s := rotating 0 0 (absSlot (rotating 0 0 0) + 1)
  { s with time := s.time + dw (32 + gone) - dw ((s.time - s.tbase.origin).toNat % 512),
           ports := [(5, { Port.start with head := true, txmap := 0xFFFF, rxmap := 0xFFFF })] }

theorem witness_HealthAndHeaders :
    (isPeer (rotating 0 4 0) 5 = true ∧ Sparse.get 0 (rotating 0 4 0).health 5 = 0 ∧ 4 ≤ (getPeer (rotating 0 4 0) 5).quiet) ∧
    (getPeer (rotating 0 3 0) 5).quiet < 4 ∧
    (let s := rotating 1 4 0
     Sparse.get 0 s.health 5 = 1 ∧ 1000000 * (s.recovb.toNat % 2 ^ 24) ≤ (s.time - Sparse.get 0 s.recovAt 5).toNat) ∧
    (let s := { rotating 1 4 0 with time := 9999999999 }
     (s.time - Sparse.get 0 s.recovAt 5).toNat < 1000000 * (s.recovb.toNat % 2 ^ 24)) ∧
    (Sparse.get 0 (rotating 1 4 0).health 5 ≠ 2 ∧ isPeer (rotating 0 0 0) 0 = false ∧ isPeer (rotating 0 0 0) 32 = false) ∧
    (let s := rotating 0 0 0
     let n := ((s.time - s.tbase.origin).toNat + 64) / 512
     slotDue s = true ∧ slotDue { s with slotAt := absSlot s + 1 } = false ∧ slotPeer s (absSlot s) 5 ≠ pkgId s ∧ formed s (slotPeer s (absSlot s) 5) = true ∧
       s.tbase.inrota = true ∧ slotPeer s n 31 ≠ pkgId s ∧ formed s (slotPeer s n 31) = true ∧ s.slotAt ≠ n + 1 ∧ (getPort s 31).header = none ∧
       (let u := setPort 31 { getPort s 31 with header := some (n, header true) } s; (getPort u 31).header.any (fun e => e.1 == n) = true)) ∧
    (let s := sending 0
     portRuns s 5 = some (absSlot s, 5) ∧ payloadNow s (absSlot s) = some 0 ∧ (getPort s 5).head = true ∧ reachable s 5 = true ∧
       (getPort s 5).txmap = 0xFFFF ∧ 0 < flitTime 0xFFFF ∧ (getPort s 5).header = none ∧
       (let u := setPort 5 { getPort s 5 with header := some (absSlot s, header true) } s
        (getPort u 5).header.any (fun e => e.1 == absSlot u) = true ∧ (getPort u 5).head = true)) ∧
    (let s := rotating 0 0 0
     facesPeer s 5 = true ∧ formed s 5 = true ∧ facesPeer s 0 = false ∧ formed { s with fibre := List.replicate 6 4001 } 5 = false ∧
       (getPort s (peerPort s 5)).rxmap = 0 ∧ (header true).marker = none ∧ headerGood 0xFFFF (header false) = false ∧ (header true).tokens = [] ∧
       (header true).acks = [] ∧ (getPeer s 5).unacked = [] ∧ (getPeer s 5).replay = []) := by decide +kernel

theorem witness_HeaderGood : ∀ m ∈ [0xFFFF#16, 0], headerGood m (header true) = true := fun m hm => by
  rw [header, headerGood_sealed]
  simp only [List.mem_cons, List.not_mem_nil, or_false] at hm
  rcases hm with rfl | rfl <;> decide

/-- A data flit with a body, with a codeword that can be corrected or one that cannot. -/
def flit (good : Bool) (seq : Nat) (body : FlitBody) : DataFlit :=
  { pos := 7, bytes := [1, 2], crc := crc32 (padTo 264 [1, 2]), seq := seq, rstr := false, ack := none, body := body,
    words := [(0, 3, if good then 15 else 16)] }

theorem witness_FlitGood (seq : Nat) (body : FlitBody) : flitGood 0xFFFF (flit true seq body) = true := by
  have h : crc32 (padTo 264 (flit true seq body).bytes) = (flit true seq body).crc := rfl
  have h2 : uncorrectable (mapWords 0xFFFF#16 [(0, 3, 15)]) = false := by decide
  have hw : (flit true seq body).words = [(0, 3, 15)] := rfl
  simp [flitGood, h, hw, h2]

/-- A parcel of eleven bytes for offset 0x40 of the export window of context 0. -/
def parcel : ParcelFlit :=
  { src := 5, dst := 0, ctx := 0, part := 0, core := 0, slot := 0, entry := 3, place := 3, num := 0, off := 0x40,
    bytes := [1, 2, 3, 4, 5, 6, 7, 8, 9, 10, 11], feMode := 0, feBits := [], poison := [],
    first := true, last := true, final := true, relayed := false, pull := none }

/-- The record of an 8-byte load from package 5. -/
def farLoad : OpRecord :=
  { src := 5, ctx := 0, part := 0, core := 0, slot := 0, lane := 2, tag := 6, kind := .load, off := 0x40, size := 8, ty := 0, round := 0,
    data := 0, data2 := 0, chan := none, spin := 0, park := 0, scope := 4 }

/-- Package 0 with an export window at 0x100000 and a served load. -/
def exporting (held : Option Nat) : State :=
  let s := rotating 0 0 0
  { s with
    ctxs := [(0, { getCtx s 0 with expbase := 0x100000, explen := 0x10000 })], served := [{ src := 5, rcd := farLoad, held := held }],
    peers := [(5, { Peer.start with rxnext := 3 })] }

theorem witness_FlitsAndService :
    (let s := { exporting none with ports := [(5, { Port.start with rxmap := 0xFFFF })] }
     facesPeer s 5 = true ∧ formed s 5 = true ∧ peerPort s 5 = 5 ∧ (getPort s 5).rxloss = [] ∧
       flitGood (judgeMap (getPort s 5) (flit false 3 .idle)) (flit false 3 .idle) = false ∧
       (getPort s 5).rxmap = 0xFFFF ∧ (flit true 2 (.parcel parcel)).ack = none ∧
       duplicate (getPeer s 5) ((flit true 2 (.parcel parcel)).seq % 16384) = true ∧ (flit true 2 (.parcel parcel)).body ≠ .idle) ∧
    (let s := { exporting none with served := [], ports := [(5, { Port.start with rxmap := 0xFFFF })] }
     let f := flit true 3 (.parcel parcel)
     f.seq = (getPeer s 5).rxnext ∧ standsBehind s (parcelRecord parcel) s.served = false ∧ (getPeer s 5).rxheld = [] ∧ (getPeer s 5).fault = none ∧
       (getPeer s 5).landed = [] ∧ (getPort s 5).rxmap = 0xFFFF ∧
       ((getCtx s parcel.ctx).expbase.toNat + parcel.off) % 65536 + parcel.bytes.length ≤ 65536 ∧
       (ingress parcel.ctx parcel.off parcel.bytes.length .wr (modPeer 5 (fun x =>
         { x with rxheld := [(f.seq, f.body)], owedAcks := oweAck x.owedAcks f.seq })
         (modPort 5 (fun x => { x with rxgood := x.rxgood + 1, rxpos := f.pos + 1 }) (countCodewords 5 f.words s)))).1 =
           .ok 0x100040 (.dev 0x100040)) ∧
    ((exporting (some 2)).served[0]?.any (fun x => x.held.isSome) = true ∧ (exporting none).served[1]? = none ∧
      standsBehind podded farLoad ([{ src := 5, rcd := farLoad, held := none }]) = true) ∧
    (let s := exporting none
     s.served[0]?.any (fun x => x.held.isNone && x.parcel.isNone && !standsBehind s x.rcd (s.served.take 0) && x.src == x.rcd.src &&
       x.src != pkgId s && x.rcd.kind == .load) = true ∧
       (ingress 0 0x40 8 .rd { s with served := [] }).1 = .ok 0x100040 (.dev 0x100040) ∧
       isPoisoned (ingress 0 0x40 8 .rd { s with served := [] }).2 0 (.dev 0x100040) 8 = false) := by decide +kernel

/-- Pair 183's clock, 10 µs after reset. -/
def clockOf (c : Clock) : State := { at_ 0 with time := 10000, clocks := [(183, c)] }

theorem witness_ClocksAndPower :
    (let s := clockOf { stretch := true, steps := 9, since := pairClk (at_ 0) 183 - 64, lowered := false, quiet := 0 }
     (getClock s 183).stretch = true ∧ (getClock s 183).lowered = false ∧ 64 ≤ (pairClk s 183 - (getClock s 183).since).toNat) ∧
    (let s := clockOf { stretch := true, steps := 9, since := pairClk (at_ 0) 183 - 63, lowered := false, quiet := 0 }
     (pairClk s 183 - (getClock s 183).since).toNat < 64) ∧
    (let s := clockOf { stretch := false, steps := 9, since := 0, lowered := true, quiet := 0 }
     (getClock s 183).stretch = false ∧ (getClock s 183).lowered = true ∧ (getClock s 183).steps < dieLimit s 183 ∧
       (getClock s 183).quiet.toNat + 10000 ≤ s.time.toNat) ∧
    (let s := clockOf { stretch := false, steps := dieLimit (at_ 0) 183, since := 0, lowered := false, quiet := 1 }
     dieLimit s 183 ≤ (getClock s 183).steps ∧ s.time.toNat < (getClock s 183).quiet.toNat + 10000) ∧
    ((at_ 0).power.limits.length = 4 ∧ 100 < (101 : BitVec 8).toNat ∧ 0 < (at_ 0).power.limits.getD 0 0 ∧ (at_ 0).power.off = false ∧
      115 ≤ (115 : BitVec 8).toNat) := by decide +kernel

theorem witness_ResetAndBoot :
    romAccepts (fused 3) (image 0x39514657) = true ∧ romAccepts (fused 3) (image 0) = false ∧ imageSecver (image 0x39514657) < 4 ∧
    mapped.fw.running = true ∧ (5 ≤ 10 ∧ 1023 < 2 ^ 10) ∧ (State.reset.mgmtRec = 0 ∧ mgmtQueue ≠ 0) := by decide +kernel

/-- A package that runs nothing, with the header of that image in its window. -/
def windowed_ : State := { at_ 0 with
  fw := { fused 3 with window := (List.range 10).map (fun k => (k, dw (natLE ((imageHeader 0x39514657 3).drop (8 * k) |>.take 8)))) } }

theorem witness_ResetAndBoot_window :
    let i : FwImage := { header := windowHeader windowed_, checks := imageChecks }
    windowed_.fw.running = false ∧ windowed_.power.off = false ∧ romAccepts windowed_.fw i = true ∧ 5632 + imageLength i ≤ 33554432 ∧
      romAccepts windowed_.fw { i with checks := { imageChecks with payload := 6 } } = false := by decide +kernel

/-! ### Caches -/

/-- A core whose carve-out leaves two ways to L1, with an owned line of superblock 0 and a line of superblock 64 of the same set. -/
def cacheCore : Core := fillLine 0 256 false (writeLine 0 1 (fillLine 0 0 false { Core.start with carve := 5 }))

/-- R241, R243: the lines lie in ways 8 and 9 of set 0, under tags 0 and 1. -/
theorem test_l1_fill : (cacheCore.l1.map (fun b => (b.way, b.set_, b.tag))) = [(8, 0, 0), (9, 0, 1)] := by decide

/-- R163: an acquire leaves the owned line alone. -/
theorem test_l1_acquire : (keepLines (fun _ x => x.owned) cacheCore).l1.map (fun b => (b.tag, b.lines.map (fun x => x.dirty))) = [(0, [true])] := by
  decide

end Sys2Proof.Tests.Slice0
end

section
/-! What an operation on the groups, the contexts and the memory of a package leaves alone: the package itself, with its clock, identity, time base,
sources and ports, repairs, power and firmware. One lemma for each operation that taking a context down (R349) is made of. -/

namespace Sys2Proof.Machine

/-- A view of a state, or of a part of one, is as before. -/
def Keeps {σ : Type} {α : Type} (p : σ → α) (s t : σ) : Prop := p t = p s

namespace Keeps

variable {σ : Type} {α : Type} {p : σ → α} {s t u : σ}

theorem refl (s : σ) : Keeps p s s := rfl

/-- Two operations, the later one first. -/
theorem after (h : Keeps p t u) (k : Keeps p s t) : Keeps p s u := Eq.trans h k

/-- An update of fields that the view does not show, after an operation. -/
theorem update (k : Keeps p s t) (h : p u = p t := by rfl) : Keeps p s u := Eq.trans h k

/-- Either outcome of a test. -/
theorem branch {c : Prop} [Decidable c] (h : Keeps p s t) (k : Keeps p s u) : Keeps p s (if c then t else u) := by
  split
  · exact h
  · exact k

/-- The state of a pair that an operation answers. -/
theorem snd {β : Type} {x : β × σ} {b : β} (h : Keeps p s x.2) (e : x = (b, t)) : Keeps p s t := by subst e; exact h

/-- A fold of operations each of which keeps the view, from the states that show it as the first does. -/
theorem foldl_of {β : Type} {f : σ → β → σ} : ∀ (l : List β) (s : σ), (∀ t b, Keeps p s t → Keeps p t (f t b)) →
    Keeps p s (l.foldl f s)
  | [], s, _ => refl s
  | b :: l, s, h =>
    have h1 := h s b (refl s)
    (foldl_of l (f s b) (fun t c k => h t c (k.after h1))).after h1

/-- A fold of operations each of which keeps the view. -/
theorem foldl {β : Type} {f : σ → β → σ} (h : ∀ s b, Keeps p s (f s b)) (l : List β) (s : σ) : Keeps p s (l.foldl f s) :=
  foldl_of l s (fun t b _ => h t b)

end Keeps

/-- What belongs to the package itself, and not to its groups, contexts, memory or copies. -/
structure Package where
  steps    : Nat
  time     : DWord
  rampUp   : BitVec 8
  rampDn   : BitVec 8
  code     : BitVec 8
  lgpod    : Nat
  pkg      : Nat
  relayq   : BitVec 16
  recovb   : Word
  sources  : Sparse Source
  ports    : Sparse Port
  repairs  : List Repair
  tbase    : TimeBase
  power    : Power
  clocks   : Sparse Clock
  bars     : Sparse Nat
  fw       : Firmware
  apbase   : DWord
  mgmtRec  : DWord

/-- The package of a state. -/
def packageOf (s : State) : Package :=
  { steps := s.steps, time := s.time, rampUp := s.rampUp, rampDn := s.rampDn, code := s.code, lgpod := s.lgpod, pkg := s.pkg, relayq := s.relayq,
    recovb := s.recovb, sources := s.sources, ports := s.ports, repairs := s.repairs, tbase := s.tbase, power := s.power, clocks := s.clocks,
    bars := s.bars, fw := s.fw, apbase := s.apbase, mgmtRec := s.mgmtRec }

/-- The package itself is as before. -/
abbrev SamePackage (s t : State) : Prop := Keeps packageOf s t

namespace SamePackage

open Keeps

variable {s t u : State}

/-! ### Groups, traps and records -/

theorem mapGroups {p : Group → Bool} {f : Group → Group} : SamePackage s (mapGroups p f s) := rfl
theorem modGroup {gid : Nat} {f : Group → Group} : SamePackage s (modGroup gid f s) := rfl
theorem modCur {f : Group → Group} : SamePackage s (modCur f s) := rfl
theorem due {i : Instr} : SamePackage s (due i s) := rfl
theorem emit {o : Output} : SamePackage s (emit o s) := rfl
theorem interruptCtx {c v : Nat} : SamePackage s (interruptCtx c v s) := rfl
theorem interruptPf {v : Nat} : SamePackage s (interruptPf v s) := rfl
theorem dayRecord {r : DayRecord} : SamePackage s (dayRecord r s) := rfl
theorem dayGroup {k : Nat} {g : Group} {c i : Nat} {v a : DWord} : SamePackage s (dayGroup k g c i v a s) := rfl
theorem setTeam {k : Nat} {v : Team} : SamePackage s (setTeam k v s) := rfl
theorem setGang {k : Nat} {v : Gang} : SamePackage s (setGang k v s) := rfl
theorem setCtx {k : Nat} {v : Ctx} : SamePackage s (setCtx k v s) := rfl
theorem setCore {p k : Nat} {v : Core} : SamePackage s (setCore p k v s) := rfl
theorem setQueue {k : Nat} {v : Queue} : SamePackage s (setQueue k v s) := rfl
theorem setPeer {k : Nat} {v : Peer} : SamePackage s (setPeer k v s) := rfl
theorem setBin {k : Nat} {v : Bin} : SamePackage s (setBin k v s) := rfl
theorem modPeer {q : Nat} {f : Peer → Peer} : SamePackage s (modPeer q f s) := rfl
theorem modEngine {e : Nat} {f : EngOp → EngOp} : SamePackage s (modEngine e f s) := rfl
theorem modEntry {e : Nat} {f : Barrow → Barrow} : SamePackage s (modEntry e f s) := rfl
theorem dropEngine {e : Nat} : SamePackage s (dropEngine e s) := rfl
theorem modStream {tm k : Nat} {f : TileStream → TileStream} : SamePackage s (modStream tm k f s) := rfl
theorem modHead {tm k : Nat} {f : TileOp → TileOp} : SamePackage s (modHead tm k f s) := rfl
theorem modL1 {p c : Nat} {f : Core → Core} : SamePackage s (modL1 p c f s) := rfl
theorem dropArea {c : Nat} {a : DWord} : SamePackage s (dropArea c a s) := rfl
theorem failAt {q k : Nat} {c : Cause} : SamePackage s (failAt q k c s) := rfl
theorem copyReplied {e : Nat} {c : Option Cause} : SamePackage s (copyReplied e c s) := rfl

theorem dropGroups {p : Group → Bool} : SamePackage s (dropGroups p s) := by
  unfold Machine.dropGroups
  split
  · exact rfl
  · split <;> exact rfl

theorem focus {gid : Nat} : SamePackage s (focus gid s) := by
  unfold Machine.focus
  split
  · exact refl s
  · split
    · split <;> exact rfl
    · exact refl s

theorem focusLane {gid l : Nat} : SamePackage s (focusLane gid l s) := modCur.after focus

theorem endFuseOf {g : Group} {c : Nat} : SamePackage s (endFuseOf g c s) := rfl

theorem settleGroup {gid : Nat} : SamePackage s (settleGroup gid s) := by
  unfold Machine.settleGroup
  dsimp only
  split
  · split
    · exact endFuseOf.after modGroup
    · exact modGroup
  · exact modGroup

theorem abortGang {g c : Nat} : SamePackage s (abortGang g c s) := rfl
theorem abortFor {c : Nat} {v : DWord} : SamePackage s (abortFor c v s) := rfl
theorem machineCheck {t : Trap} : SamePackage s (machineCheck t s) := rfl
theorem contextError {c : Nat} {v : DWord} : SamePackage s (contextError c v s) := rfl

theorem takeTrap {t : Trap} : SamePackage s (takeTrap t s) := by
  unfold Machine.takeTrap classGTrap
  split
  · exact machineCheck
  · split <;> exact rfl

theorem consumePoison {a : DWord} : SamePackage s (consumePoison a s) := by
  unfold Machine.consumePoison
  split
  · split
    · exact rfl
    · exact takeTrap
  · exact takeTrap

theorem poisonGroup {gid : Nat} {a : DWord} : SamePackage s (poisonGroup gid a s) := by
  unfold Machine.poisonGroup
  split
  · split
    · exact refl s
    · exact consumePoison.after focus
  · exact refl s

theorem replayTrap {gid l : Nat} {m : Mask} {t : Trap} : SamePackage s (replayTrap gid l m t s) :=
  takeTrap.after (modCur.after focusLane)

theorem remoteFail {gid op : Nat} {c : Cause} {v : DWord} : SamePackage s (remoteFail gid op c v s) := by
  unfold Machine.remoteFail
  split
  · exact refl s
  · split
    · split
      · exact rfl
      · exact contextError.after focus
    · exact contextError.after focus

/-! ### Memory and the bench -/

theorem writeList {tm : Nat} {l : Loc} {bs : List Byte} : SamePackage s (writeList tm l bs s) := by
  cases l with
  | dev pa => exact rfl
  | scr f o => exact setTeam
  | host a => exact rfl
  | pod p o => exact refl s

theorem writeBytes {tm : Nat} {l : Loc} {n v : Nat} : SamePackage s (writeBytes tm l n v s) := writeList

theorem writeFe {tm : Nat} {l : Loc} {b : Bool} : SamePackage s (writeFe tm l b s) := by
  cases l with
  | dev pa => exact rfl
  | scr f o => exact setTeam
  | host a => exact refl s
  | pod p o => exact refl s

theorem setPoison {tm : Nat} {l : Loc} {n : Nat} {b : Bool} : SamePackage s (setPoison tm l n b s) := by
  cases l with
  | dev pa => exact rfl
  | scr f o => exact setTeam
  | host a => exact refl s
  | pod p o => exact refl s

theorem storeAt {tm : Nat} {l : Loc} {z v : Nat} : SamePackage s (storeAt tm l z v s) := by
  unfold Machine.storeAt
  split
  · dsimp only; split
    · exact setPoison.after writeBytes
    · exact writeBytes
  · dsimp only; split
    · exact setPoison.after writeBytes
    · exact writeBytes
  · exact writeBytes
  · exact writeBytes

theorem recallLines {but : Option Nat} {lo hi : Nat} : SamePackage s (recallLines but lo hi s) := by
  rw [recallLines_cores]; exact rfl

theorem homeServes {l : Loc} {n : Nat} : SamePackage s (homeServes l n s) := by rw [homeServes_cores]; exact rfl

theorem acquireAt {k : Nat} {g : Group} : SamePackage s (acquireAt k g s) := by rw [acquireAt_caches]; exact rfl

theorem syncWait {w : FeWait} {b : Bool} : SamePackage s (syncWait w b s) := by
  unfold Machine.syncWait syncEntry syncBucket
  dsimp only
  split
  · exact writeList.after writeList
  · exact writeList

theorem dropWait {w : FeWait} : SamePackage s (dropWait w s) := syncWait.after rfl

theorem parkWait {w : FeWait} : SamePackage s (parkWait w s) := syncWait.after rfl

theorem dropWaits (l : List FeWait) (s : State) : SamePackage s (l.foldl (fun s w => Machine.dropWait w s) s) := foldl (fun _ _ => dropWait) l s

/-! ### Faults and translation -/

theorem recordFault {c : Nat} {f : FaultRec} : SamePackage s (recordFault c f s) := by
  unfold Machine.recordFault
  dsimp only
  split
  · exact setCtx
  · exact interruptPf.after (interruptCtx.after setCtx)

theorem reportFault {c va : Nat} {k : AccKind} {src p : Nat} {b : Bool} : SamePackage s (reportFault c va k src p b s) := by
  unfold Machine.reportFault
  dsimp only
  split
  · exact refl s
  · split
    · exact rfl
    · exact recordFault

theorem tlbRoom {p : Nat} {c : Option Nat} : SamePackage s (tlbRoom p c s) := by
  unfold Machine.tlbRoom
  dsimp only
  split
  · exact refl s
  · split
    · exact setCtx
    · exact refl s

theorem tlbPut {c : Nat} {e : TlbEntry} : SamePackage s (tlbPut c e s) := setCtx.after (tlbRoom.after setCtx)

theorem tlbFill {c p k : Nat} {l : Leaf} : SamePackage s (tlbFill c p k l s) := by
  unfold Machine.tlbFill
  split
  · dsimp only; split
    · exact tlbPut
    · exact tlbPut.after tlbPut
  · exact refl s

theorem useLeaf {c va : Nat} {k : AccKind} {l : Leaf} {w : Bool} {p n : Nat} : SamePackage s (useLeaf c va k l w p n s).2 := by
  unfold Machine.useLeaf
  split
  · exact refl s
  · have hw : SamePackage s (if (w && mustDirty s c k l.dirty) = true then
        Machine.writeBytes 0 (.dev l.entry) 1 (readBytes s 0 (.dev l.entry) 1 ||| 4) s else s) := by
      split
      · exact writeBytes
      · exact refl s
    dsimp only
    split
    · exact tlbFill.after hw
    · exact hw

theorem translate {c p n va : Nat} {k : AccKind} : SamePackage s (translate c p n va k s).2 := by
  unfold Machine.translate
  split
  · split
    · split
      · exact useLeaf
      · exact refl s
      · exact refl s
    · exact useLeaf
  · split
    · exact useLeaf
    · exact refl s
    · exact refl s

theorem frontTarget {c : Nat} {a : DWord} {k : AccKind} : SamePackage s (frontTarget c a k s).2 := by
  unfold Machine.frontTarget
  split
  · split <;> rename_i e
    · exact homeServes.after (translate.snd e)
    all_goals exact translate.snd e
  all_goals exact refl s

/-! ### Replies, barrow entries and ends of operations -/

theorem completeEpisodes : SamePackage s (completeEpisodes s) := (foldl (fun _ _ => acquireAt) _ _).after rfl

theorem retireEntry {b : Nat} : SamePackage s (retireEntry b s) := completeEpisodes.after rfl

theorem answerEntry {b : Barrow} : SamePackage s (answerEntry b s) := by
  unfold Machine.answerEntry
  split
  · exact modEntry
  · exact retireEntry

theorem endOpen {gid op : Nat} : SamePackage s (endOpen gid op s) := settleGroup.after modGroup

theorem pushRemote {g : Group} {o : MemOp} : ∀ (l : List LaneAcc) (s : State), SamePackage s (pushRemote g o l s)
  | [], s => refl s
  | a :: l, s => by
    unfold Machine.pushRemote
    split
    · exact (pushRemote l _).after rfl
    all_goals exact pushRemote l s

theorem resumeOp {g : Group} {o : MemOp} : SamePackage s (resumeOp g o s) := (pushRemote _ _).after modGroup

theorem finishEnd {gid op : Nat} : SamePackage s (finishEnd gid op s) := by
  unfold Machine.finishEnd
  split
  · exact refl s
  · split
    · exact refl s
    · split
      · exact refl s
      · split
        · exact refl s
        · exact replayTrap.after endOpen
        · exact replayTrap.after endOpen
        · exact endOpen.after modGroup
        · exact endOpen
        · split
          · exact resumeOp
          · exact endOpen.after modGroup

theorem withdrawn {b : Barrow} {k v : Nat} : SamePackage s (withdrawn b k v s) := by
  unfold Machine.withdrawn
  have h : SamePackage s (if v = 1 then (match findEntry k s with | some e => Machine.answerEntry e s | none => s) else s) := by
    split
    · split
      · exact answerEntry
      · exact refl s
    · exact refl s
  dsimp only
  split
  · exact finishEnd.after (answerEntry.after h)
  · exact answerEntry.after h

theorem completeLane {gid op l v : Nat} : SamePackage s (completeLane gid op l v s) := by
  unfold Machine.completeLane
  dsimp only
  split
  · exact acquireAt.after (settleGroup.after modGroup)
  · exact settleGroup.after modGroup

theorem deliverReply {r : Reply} : SamePackage s (deliverReply r s) := by
  unfold Machine.deliverReply
  split
  · exact refl s
  · split
    · exact withdrawn
    · dsimp only; split
      · exact answerEntry.after (remoteFail.after copyReplied)
      · exact answerEntry.after copyReplied
    · exact answerEntry
    · split
      · exact answerEntry.after remoteFail
      · exact finishEnd.after (completeLane.after answerEntry)

theorem replyTo {r : OpRecord} {d : Nat} {f : Option Cause} : SamePackage s (replyTo r d f s) := by
  unfold Machine.replyTo
  dsimp only
  split
  · exact deliverReply
  · split
    · exact refl s
    · exact setPeer

theorem dropRemote {q k : Nat} (e : dropRemote q k s = some t) : SamePackage s t := by
  unfold Machine.dropRemote at e
  split at e
  · cases e; exact dropWait
  · dsimp only at e
    split at e
    · cases e; exact rfl
    · cases e

theorem withdrawEntry {b : Barrow} : SamePackage s (withdrawEntry b s) := by
  unfold Machine.withdrawEntry
  split
  · exact retireEntry
  · split
    · split
      · rename_i e; exact retireEntry.after (dropRemote e)
      · exact refl s
    · split
      · exact refl s
      · exact rfl

theorem endOp {gid op : Nat} {e : OpEnd} : SamePackage s (endOp gid op e s) :=
  finishEnd.after ((foldl (fun _ _ => withdrawEntry) _ _).after ((dropWaits _ _).after modGroup))

/-! ### Wakes -/

theorem feStep {k : FeKind} {tm : Nat} {l : Loc} {d : DWord} {v : Nat} {b : Bool} (e : feStep k tm l d s = some (v, t, b)) :
    SamePackage s t := by
  unfold Machine.feStep at e
  cases k <;> simp only [Option.ite_none_right_eq_some, Option.ite_none_left_eq_some, Option.some.injEq, Prod.mk.injEq] at e
  case ldwt => obtain ⟨-, -, rfl, -⟩ := e; exact refl s
  case ldcn => obtain ⟨-, -, rfl, -⟩ := e; exact writeFe
  case stfl => obtain ⟨-, -, rfl, -⟩ := e; exact writeFe.after writeBytes
  case stfu => obtain ⟨-, rfl, -⟩ := e; exact writeFe.after writeBytes
  case fefull => obtain ⟨-, rfl, -⟩ := e; exact writeFe
  case feempty => obtain ⟨-, rfl, -⟩ := e; exact writeFe
  case fetest => obtain ⟨-, rfl, -⟩ := e; exact refl s

theorem countArrival {r : OpRecord} : SamePackage s (countArrival r s) := by
  unfold Machine.countArrival
  split
  · exact refl s
  · exact setCtx

theorem poisonWaiter {w : Waiter} {a : DWord} : SamePackage s (poisonWaiter w a s) := by
  unfold Machine.poisonWaiter
  split
  · exact poisonGroup
  · exact replyTo
  · exact modEngine
  · split
    · exact poisonGroup
    · exact refl s

theorem completeWaiter {w : Waiter} {v : Nat} : SamePackage s (completeWaiter w v s) := by
  unfold Machine.completeWaiter
  split
  · exact completeLane
  · split
    · exact replyTo.after countArrival
    · exact replyTo
  · exact modEngine
  · exact modHead

theorem wakeWord {c tm va : Nat} {l : Loc} : ∀ (n : Nat) (s : State), SamePackage s (wakeWord c tm va l n s)
  | 0, s => refl s
  | n + 1, s => by
    have pass (w : FeWait) : SamePackage s
        (if isPoisoned s tm l 8 then Machine.poisonWaiter w.who (poisonLocator l) (Machine.dropWait w s)
          else match Machine.feStep w.kind tm l w.data s with
            | some (v, s1, _) => Machine.wakeWord c tm va l n (Machine.completeWaiter w.who v (Machine.dropWait w s1))
            | none => s) := by
      split
      · exact poisonWaiter.after dropWait
      · split
        · rename_i e
          exact (wakeWord n _).after (completeWaiter.after (dropWait.after (feStep e)))
        · exact refl s
    unfold Machine.wakeWord
    dsimp only
    split
    · split
      · exact pass _
      · split
        · exact pass _
        · exact refl s
    · split
      · exact pass _
      · exact refl s

theorem wakeFills {pa : Nat} : ∀ (n : Nat) (s : State), SamePackage s (wakeFills pa n s)
  | 0, s => refl s
  | n + 1, s => by
    unfold Machine.wakeFills
    split
    · exact refl s
    · split
      · exact refl s
      · dsimp only
        split
        · exact (wakeFills n _).after rfl
        · split
          · exact (wakeFills n _).after ((wakeWord _ _).after (writeFe.after (writeBytes.after rfl)))
          · exact (wakeFills n _).after (writeFe.after (writeBytes.after rfl))

theorem wake {c tm va : Nat} {l : Loc} : SamePackage s (wake c tm va l s) := by
  unfold Machine.wake
  cases l with
  | dev pa => exact (wakeFills _ _).after (wakeWord _ _)
  | scr f o => exact wakeWord _ _
  | host a => exact wakeWord _ _
  | pod p o => exact wakeWord _ _

theorem feAttempt {k : FeKind} {c tm va : Nat} {l : Loc} {d : DWord} {v : Nat} (e : feAttempt k c tm va l d s = some (v, t)) :
    SamePackage s t := by
  unfold Machine.feAttempt at e
  split at e
  · rename_i h
    cases e
    split
    · exact wake.after (feStep h)
    · exact feStep h
  · cases e

/-! ### Queues and their records -/

theorem writeRecord {k off n v : Nat} : SamePackage s (writeRecord k off n v s) := by
  unfold Machine.writeRecord
  split <;> rename_i e
  · exact writeBytes.after (frontTarget.snd e)
  · exact reportFault.after (setQueue.after (frontTarget.snd e))
  · exact frontTarget.snd e

theorem raiseStatus {k f : Nat} : SamePackage s (raiseStatus k f s) := by
  unfold Machine.raiseStatus
  split
  · exact writeRecord
  · exact setQueue

theorem setLast {k i : Nat} : SamePackage s (setLast k i s) := writeRecord.after (writeRecord.after setQueue)

theorem emptySlot {k i : Nat} : SamePackage s (emptySlot k i s) := by
  unfold Machine.emptySlot
  split
  · split
    · exact wake.after writeFe
    · exact refl s
  · exact setQueue

theorem registerQueue {k : Nat} {rcd : DWord} {bs : List Byte} : SamePackage s (registerQueue k rcd bs s) :=
  writeRecord.after (writeRecord.after ((foldl (fun _ _ => emptySlot) _ _).after setQueue))

theorem registerMgmt {rcd : DWord} : SamePackage s (registerMgmt rcd s) := by
  unfold Machine.registerMgmt
  split
  · split
    · exact registerQueue
    · exact refl s
  · exact refl s

theorem fillWord {c : Nat} {a v : DWord} (e : fillWord c a v s = some t) : SamePackage s t := by
  unfold Machine.fillWord at e
  split at e
  · cases e; exact refl s
  · split at e <;> rename_i h
    · cases e; exact writeBytes.after (frontTarget.snd h)
    · split at e <;> rename_i k
      · cases e
        have hs := (frontTarget.snd k).after (frontTarget.snd h)
        split
        · exact hs
        · split
          · rename_i f; exact (feAttempt f).after hs
          · exact hs
      · cases e; exact (frontTarget.snd k).after (frontTarget.snd h)
    · cases e
    · cases e; exact frontTarget.snd h

theorem fillHeld {c : Nat} {a : DWord} : SamePackage s (fillHeld c a s) := by
  unfold Machine.fillHeld
  split
  · exact reportFault
  · exact refl s

theorem fillStatus {pa : Nat} {st : MgmtStatus} : SamePackage s (fillStatus pa st s) := by
  unfold Machine.fillStatus
  refine interruptPf.after ?_
  split
  · exact refl s
  · exact writeFe.after writeBytes

/-! ### Gangs -/

theorem retireTile {tm k i : Nat} : SamePackage s (retireTile tm k i s) := by
  unfold Machine.retireTile
  split
  · exact refl s
  · exact settleGroup.after (modGroup.after (mapGroups.after modStream))

theorem abandonTile {tm k : Nat} {o : TileOp} : SamePackage s (abandonTile tm k o s) := by
  unfold Machine.abandonTile
  refine retireTile.after ?_
  split
  · exact dropEngine.after (dropWaits _ _)
  · exact dropWaits _ _

theorem abandonTiles {gid n : Nat} : SamePackage s (abandonTiles gid n s) := by
  unfold Machine.abandonTiles
  split
  · exact refl s
  · exact foldl (fun _ _ => foldl (fun _ _ => abandonTile) _ _) _ _

theorem withdrawWaits {gid : Nat} : SamePackage s (withdrawWaits gid s) := by
  unfold Machine.withdrawWaits
  split
  · exact refl s
  · exact settleGroup.after ((foldl (fun _ _ => modGroup) _ _).after (foldl (fun _ _ => endOp) _ _))

theorem dropRestored {g : Group} : SamePackage s (dropRestored g s) := by
  unfold Machine.dropRestored
  split
  · exact refl s
  · exact dropArea

theorem stopGroup {g : Group} : SamePackage s (stopGroup g s) := by
  have h : SamePackage s (Machine.abandonTiles g.id 0 (Machine.withdrawWaits g.id s)) := abandonTiles.after withdrawWaits
  exact dropRestored.after (branch ((foldl (fun _ _ => dropEngine) _ _).after ((dropWaits _ _).after h))
    (dropArea.after ((foldl (fun _ _ => dropEngine) _ _).after ((dropWaits _ _).after h))))

theorem freeWindow {p w : Nat} : SamePackage s (freeWindow p w s) := rfl
theorem freePlaces {gid : Nat} : SamePackage s (freePlaces gid s) := foldl (fun _ _ => foldl (fun _ _ => freeWindow) _ _) _ _

theorem idleCore {p c : Nat} : SamePackage s (idleCore p c s) := by
  unfold Machine.idleCore
  dsimp only
  split
  · exact refl s
  · split
    · exact setCore.after rfl
    · exact refl s

theorem releaseTeam {x : Team} : SamePackage s (releaseTeam x s) := (foldl (fun _ _ => idleCore) _ _).after rfl

theorem clearTeams {gid : Nat} : SamePackage s (clearTeams gid s) :=
  foldl (fun _ _ => releaseTeam.after ((foldl (fun _ _ => dropArea) _ _).after setTeam)) _ _

theorem spawnInto {g : Group} {k : DWord} {l : List Word} (e : spawnInto g k l s = .entered t) : SamePackage s t := by
  unfold Machine.spawnInto at e
  split at e
  · cases e; exact setBin
  · split at e
    · cases e
    · split at e <;> cases e
      exact setBin

theorem enterAgain {g : Group} {w : Nat × DWord × List Word} : SamePackage s (enterAgain g w s) := by
  unfold Machine.enterAgain
  split
  · rename_i e; exact settleGroup.after (modGroup.after (spawnInto e))
  · exact refl s
  · exact reportFault
  · exact contextError.after focusLane

theorem enterHeld {p : Nat} : SamePackage s (enterHeld p s) := by
  refine foldl (fun s g => ?_) _ _
  split
  · exact refl s
  · exact foldl (fun _ _ => enterAgain) _ _

theorem clearBins {gid : Nat} : SamePackage s (clearBins gid s) := foldl (fun _ _ => enterHeld.after setBin) _ _

theorem withdrawFill {b : Barrow} : SamePackage s (withdrawFill b s) := by
  unfold Machine.withdrawFill
  split
  · split <;> exact rfl
  · exact refl s

theorem abandonBarrow {gid : Nat} : SamePackage s (abandonBarrow gid s) :=
  update (foldl (fun _ _ => retireEntry.after withdrawFill) _ _)

theorem releaseGang {gid : Nat} : SamePackage s (releaseGang gid s) :=
  setGang.after (freePlaces.after (clearTeams.after (dropGroups.after (clearBins.after (abandonBarrow.after
    (foldl (fun _ _ => stopGroup) _ _))))))

theorem reportAbort {gid : Nat} {g : Gang} : SamePackage s (reportAbort gid g s) := by
  unfold Machine.reportAbort
  refine interruptCtx.after (dayRecord.after ?_)
  split
  · exact raiseStatus.after (setLast.after (setQueue.after setQueue))
  · exact refl s

theorem resumeFork {c k : Nat} : SamePackage s (resumeFork c k s) := by
  unfold Machine.resumeFork
  refine mapGroups.after ?_
  split
  · exact refl s
  · exact setTeam

theorem abortOne {gid : Nat} : SamePackage s (abortOne gid s) := by
  unfold Machine.abortOne
  dsimp only
  split
  · exact fillHeld.after releaseGang
  · rename_i e
    split
    · exact resumeFork.after (setGang.after (setCtx.after (reportAbort.after ((fillWord e).after releaseGang))))
    · exact setGang.after (setCtx.after (reportAbort.after ((fillWord e).after releaseGang)))

theorem abortTree : ∀ (n gid : Nat) (s : State), SamePackage s (abortTree n gid s)
  | 0, _, _ => abortOne
  | n + 1, _, _ => abortOne.after (foldl (fun _ c => (abortTree n c _).after setGang) _ _)

/-! ### What arrives from other packages -/

theorem ingress {c o n : Nat} {k : AccKind} : SamePackage s (ingress c o n k s).2 := by
  unfold Machine.ingress
  split
  · exact refl s
  · split <;> rename_i e
    · exact homeServes.after (translate.snd e)
    all_goals exact translate.snd e

theorem countOnce {r : OpRecord} : SamePackage s (countOnce r s).2 := by
  unfold Machine.countOnce
  split
  · exact countArrival
  · exact refl s

theorem pullPiece {r : OpRecord} {fe o n : Nat} : SamePackage s (pullPiece r fe o n s).2 := by
  unfold Machine.pullPiece
  split <;> rename_i e
  · exact ingress.snd e
  · exact ingress.snd e
  · split <;> exact ingress.snd e

theorem pullData {r : OpRecord} {fe : Nat} : ∀ (k o : Nat) (l : List ParcelFlit) (s : State), SamePackage s (pullData r fe k o l s).2
  | 0, _, _, s => refl s
  | k + 1, o, l, s => by
    unfold Machine.pullData
    dsimp only
    split
    · exact refl s
    · split <;> rename_i e
      · exact (pullData k _ _ _).after (pullPiece.snd e)
      · exact pullPiece.snd e

theorem servePull {r : OpRecord} {fe : Nat} : SamePackage s (servePull r fe s) := by
  unfold Machine.servePull
  split <;> rename_i e
  · exact setPeer.after ((pullData _ _ _ _).snd e)
  · exact replyTo.after ((pullData _ _ _ _).snd e)
  · exact reportFault.after (update ((pullData _ _ _ _).snd e))

theorem remoteWait {r : OpRecord} {k : FeKind} {va : Nat} {l : Loc} : SamePackage s (remoteWait r k va l s) := by
  unfold Machine.remoteWait
  dsimp only
  split
  · exact parkWait.after rfl
  · exact rfl

theorem serveAt {r : OpRecord} {va : Nat} {l : Loc} : SamePackage s (serveAt r va l s) := by
  unfold Machine.serveAt
  split
  · split
    · exact replyTo
    · split
      · exact replyTo
      · split
        · rename_i e; exact completeWaiter.after (feAttempt e)
        · exact remoteWait
  · split
    · split <;> exact replyTo
    · exact replyTo.after (countArrival.after storeAt)
    · exact replyTo.after (countArrival.after storeAt)
    · split
      · exact replyTo
      · split
        · exact replyTo
        · exact replyTo.after (countArrival.after writeBytes)
    all_goals exact rfl

theorem serveNow {r : OpRecord} : SamePackage s (serveNow r s) := by
  unfold Machine.serveNow
  have h := countOnce (s := s) (r := r)
  dsimp only
  split
  · exact replyTo.after h
  · exact servePull.after h
  · split <;> rename_i e
    · exact serveAt.after ((ingress.snd e).after h)
    · exact replyTo.after ((ingress.snd e).after h)
    · exact reportFault.after (update ((ingress.snd e).after h))

theorem serveWithdrawal {r : OpRecord} {k : Nat} : SamePackage s (serveWithdrawal r k s) := by
  unfold Machine.serveWithdrawal
  split
  · rename_i e; exact replyTo.after (dropRemote e)
  · exact replyTo

theorem serveOp {r : OpRecord} : SamePackage s (serveOp r s) := by
  unfold Machine.serveOp
  split
  · exact serveWithdrawal
  · split
    · exact serveNow
    · dsimp only
      split
      · exact rfl
      · exact update countOnce

theorem takeRecord {r : OpRecord} : SamePackage s (takeRecord r s) := by
  unfold Machine.takeRecord
  split
  any_goals exact rfl
  exact serveOp

/-! ### Barrier objects, and the bytes that engines and parcels bring -/

theorem setBar {tm o v : Nat} : SamePackage s (setBar tm o v s) := writeBytes
theorem releaseBarw {tm : Nat} : SamePackage s (releaseBarw tm s) := mapGroups
theorem flipObj {tm o : Nat} : SamePackage s (flipObj tm o s) := releaseBarw.after setBar

theorem bumpArr {tm o : Nat} : SamePackage s (bumpArr tm o s) := by
  unfold Machine.bumpArr
  dsimp only
  split
  · exact flipObj.after setBar
  · exact setBar

theorem shapeBara {gid : Nat} {m : Mask} {r : Nat} : SamePackage s (shapeBara gid m r s) := takeTrap.after (modCur.after focusLane)

theorem serveBaras {tm o : Nat} : ∀ (n : Nat) (s : State), SamePackage s (serveBaras tm o n s)
  | 0, s => refl s
  | n + 1, s => by
    unfold Machine.serveBaras
    split
    · exact refl s
    · dsimp only
      split
      · exact (serveBaras n _).after shapeBara
      · refine (serveBaras n _).after ?_
        split
        · exact bumpArr.after modGroup
        · exact modGroup

theorem flip {tm o : Nat} : SamePackage s (flip tm o s) := update ((serveBaras _ _).after flipObj)

theorem landPend {tm o n : Nat} : SamePackage s (landPend tm o n s) := by
  unfold Machine.landPend testFlip
  dsimp only
  split
  · exact flip.after setBar
  · exact setBar

theorem arriveOwn {x : EngOp} : SamePackage s (arriveOwn x s) := by
  unfold Machine.arriveOwn
  split
  · exact refl s
  · exact setCtx

theorem landed {x : EngOp} {n : Nat} : SamePackage s (landed x n s) := by
  unfold Machine.landed
  dsimp only
  split <;> split
  · exact arriveOwn.after (landPend.after modEngine)
  · exact arriveOwn.after modEngine
  · exact landPend.after modEngine
  · exact modEngine

theorem markUnits {tm : Nat} {l : Loc} {n : Nat} {b : Nat → Bool} : SamePackage s (markUnits tm l n b s) := by
  refine foldl (fun s j => ?_) _ _
  exact branch setPoison (branch setPoison (refl s))

theorem engPut {tm : Nat} {l : Loc} {bs : List Byte} {b : Nat → Bool} : SamePackage s (engPut tm l bs b s) := by
  unfold Machine.engPut
  split
  · exact refl s
  · exact markUnits.after writeList

theorem feWords {c tm fe va : Nat} {l : Loc} {b : Nat → Bool} : ∀ (ks : List Nat) (s : State), SamePackage s (feWords c tm fe va l b ks s)
  | [], s => refl s
  | k :: ks, s => by
    unfold Machine.feWords
    refine (feWords ks _).after ?_
    split
    · exact writeFe
    · exact wake.after writeFe

theorem engWrite {c tm fe va : Nat} {l : Loc} {bs : List Byte} {b d : Nat → Bool} : SamePackage s (engWrite c tm fe va l bs b d s) := by
  unfold Machine.engWrite
  refine releaseBarw.after ?_
  split
  · exact engPut
  · exact (feWords _ _).after engPut

theorem reachLocal {x : EngOp} {a : DWord} {va : Nat} {o : Bool} {k : AccKind} : SamePackage s (reachLocal x a va o k s).2 := by
  unfold Machine.reachLocal
  split <;> rename_i e <;> exact translate.snd e

theorem reachPlace {x : EngOp} {a : DWord} {n : Nat} {k : AccKind} : SamePackage s (reachPlace x a n k s).2 := by
  unfold Machine.reachPlace
  split
  · split <;> exact refl s
  · exact reachLocal
  · split
    · split
      · exact reachLocal
      · exact refl s
    · exact refl s
  · exact refl s
  · exact refl s

theorem reach {x : EngOp} {a : DWord} {n : Nat} {k : AccKind} : SamePackage s (reach x a n k s).2 := by
  unfold Machine.reach
  split <;> rename_i e
  · exact homeServes.after (reachPlace.snd e)
  all_goals exact reachPlace.snd e

theorem engStop {x : EngOp} {k : AccKind} {r : Reach} : SamePackage s (engStop x k r s) := by
  unfold Machine.engStop
  split
  · exact reportFault.after modEngine
  · exact modEngine
  · dsimp only
    split
    · exact remoteFail.after modEngine
    · exact modEngine
  · exact modEngine
  · exact refl s
  · exact refl s

theorem landRun {x : EngOp} {n : Nat} {bs : List Byte} {b d : List Bool} : SamePackage s (landRun x n bs b d s) := by
  unfold Machine.landRun
  dsimp only
  split <;> rename_i e
  · split
    · exact reach.snd e
    · exact modEngine.after (landed.after (engWrite.after (reach.snd e)))
  · exact engStop.after (reach.snd e)

theorem landArrived {e : Nat} : ∀ (n : Nat) (s : State), SamePackage s (landArrived e n s)
  | 0, s => refl s
  | n + 1, s => by
    unfold Machine.landArrived
    split
    · exact refl s
    · split
      · exact refl s
      · dsimp only
        split
        · split
          · exact landRun
          · exact (landArrived n _).after landRun
        · exact landRun

theorem settlePull {e : Nat} : SamePackage s (settlePull e s) := by
  unfold Machine.settlePull
  split
  · split
    · exact answerEntry.after modEngine
    · exact refl s
  · exact refl s

theorem landPull {k : Nat} {p : ParcelFlit} : SamePackage s (landPull k p s) := by
  unfold Machine.landPull
  split
  · exact refl s
  · exact settlePull.after ((landArrived _ _).after modEngine)

/-! ### Flits -/

theorem brokerParcel {p : ParcelFlit} : SamePackage s (brokerParcel p s) := by
  unfold Machine.brokerParcel
  dsimp only
  split
  · split
    · exact modPeer
    · exact rfl
  · split <;> exact rfl

theorem placePieces {c o : Nat} {k : AccKind} : ∀ (l : List (Nat × Nat)) (s : State), SamePackage s (placePieces c o k l s).2
  | [], s => refl s
  | (a, n) :: l, s => by
    unfold Machine.placePieces
    split <;> rename_i e
    · exact ingress.snd e
    · exact ingress.snd e
    · split <;> rename_i f <;> exact ((placePieces l _).snd f).after (ingress.snd e)

theorem addSplit {p : ParcelFlit} {o n va : Nat} {l : Loc} : SamePackage s (addSplit p o n va l s) := by
  exact branch (engWrite.after rfl) rfl

theorem writePiece {p : ParcelFlit} {o n va : Nat} {l : Loc} : SamePackage s (writePiece p o n va l s) := by
  have head : SamePackage s (if min n ((8 - va % 8) % 8) = 0 then s else Machine.addSplit p o (min n ((8 - va % 8) % 8)) va l s) :=
    branch (refl s) addSplit
  exact branch engWrite (branch (engWrite.after head) (addSplit.after (engWrite.after head)))

theorem writePieces {p : ParcelFlit} : ∀ (l : List (Nat × Nat × Nat × Loc)) (s : State), SamePackage s (writePieces p l s)
  | [], s => refl s
  | _ :: l, _ => (writePieces l _).after writePiece

theorem noteApplied {p : ParcelFlit} : SamePackage s (noteApplied p s) := modPeer

theorem applyParcel {p : ParcelFlit} : SamePackage s (applyParcel p s).1 := by
  unfold Machine.applyParcel
  split
  · dsimp only
    split
    · exact modPeer
    · exact refl s
  · dsimp only
    split <;> rename_i e
    · split
      · exact failAt.after ((placePieces _ _).snd e)
      · exact noteApplied.after ((writePieces _ _).after ((placePieces _ _).snd e))
    · exact failAt.after ((placePieces _ _).snd e)
    · exact (placePieces _ _).snd e

theorem landParcel {q : Nat} {p : ParcelFlit} : SamePackage s (landParcel q p s).1 := by
  unfold Machine.landParcel
  have h := applyParcel (s := s) (p := p)
  split
  · exact rfl
  · split <;> rename_i e <;> rw [e] at h
    · exact h
    · exact reportFault.after (modPeer.after h)

theorem withhold {q k : Nat} {l : List Nat} : SamePackage s (withhold q k l s) := by
  unfold Machine.withhold
  split
  · exact refl s
  · exact modPeer

theorem toTail {k : Nat} {f : Barrow → Barrow} : SamePackage s (toTail k f s) := by
  unfold Machine.toTail
  split <;> exact rfl

theorem ackBytes {b : Barrow} {n : Nat} : SamePackage s (ackBytes b n s) := by
  unfold Machine.ackBytes
  split
  · exact refl s
  · split
    · exact refl s
    · split
      · exact landPend
      · exact refl s

theorem takeE2E {q : Nat} {a : E2EAck} : SamePackage s (takeE2E q a s) := by
  unfold Machine.takeE2E
  split
  · exact refl s
  · dsimp only
    split
    · exact modEntry
    · refine ackBytes.after ?_
      split
      · exact toTail.after modEntry
      · exact modEntry

theorem failEpisode {e : Episode} {c : Cause} : SamePackage s (failEpisode e c s) :=
  completeEpisodes.after ((foldl (fun _ _ => remoteFail) _ _).after rfl)

theorem takeToken {q : Nat} {k : Token} : SamePackage s (takeToken q k s) := by
  unfold Machine.takeToken
  split
  · split
    · exact refl s
    · split
      · exact failEpisode
      · exact completeEpisodes.after rfl
  · dsimp only
    split
    · exact refl s
    · split <;> exact rfl

theorem applyBody {q k : Nat} {f : FlitBody} : SamePackage s (applyBody q k f s).1 := by
  unfold Machine.applyBody
  split
  · split
    · exact brokerParcel
    · split
      · exact landPull
      · dsimp only
        split
        · exact withhold.after landParcel
        · exact landParcel
  · exact withhold.after (foldl (fun _ _ => takeRecord) _ _)
  · exact foldl (fun _ _ => deliverReply) _ _
  · exact refl s
  · exact (foldl (fun _ _ => takeE2E) _ _).after (foldl (fun _ _ => takeToken) _ _)
  · exact refl s

theorem applyNext {q : Nat} : ∀ (n : Nat) (s : State), SamePackage s (applyNext q n s)
  | 0, s => refl s
  | n + 1, s => by
    unfold Machine.applyNext
    dsimp only
    split
    · exact refl s
    · split
      · exact refl s
      · rename_i k f _
        have h := applyBody (s := s) (q := q) (k := k) (f := f)
        split <;> rename_i e <;> rw [e] at h
        · exact (applyNext n _).after (modPeer.after h)
        · exact h

/-! ### Contexts -/

theorem failArrived {c : Nat} : SamePackage s (failArrived c s) :=
  (foldl (fun _ _ => replyTo) _ _).after ((dropWaits _ _).after rfl)

theorem failPeer {c : Cause} {q : Nat} : SamePackage s (failPeer c q s) := by
  unfold Machine.failPeer
  refine (applyNext _ _).after (modPeer.after ?_)
  split
  · split
    · exact refl s
    · exact failAt
  · exact refl s

theorem failStreams {c : Nat} : SamePackage s (failStreams c s) := foldl (fun _ _ => failPeer) _ _

theorem endMoves {c : Nat} : SamePackage s (endMoves c s) := by
  unfold Machine.endMoves
  split
  · exact fillStatus
  · exact refl s

theorem dropCtx {c : Nat} : SamePackage s (dropCtx c s) := by
  have gangs (l : List Nat) (s : State) : SamePackage s (l.foldl (fun s g =>
      if gangGone s g then s else Machine.abortTree forkDepth g (Machine.setGang g { getGang s g with status := .aborting } s)) s) := by
    refine foldl (fun s g => ?_) l s
    split
    · exact refl s
    · exact (abortTree _ _ _).after setGang
  exact failStreams.after (setCtx.after (endMoves.after (update ((dropWaits _ _).after ((foldl (fun _ _ => dropEngine) _ _).after
    (failArrived.after (gangs _ _)))))))

/-- R349: taking every context down leaves the package itself as it was. -/
theorem dropContexts : SamePackage s (dropContexts s) := by
  refine foldl (fun s c => ?_) _ _
  split
  · exact dropCtx
  · exact refl s

end SamePackage
end Sys2Proof.Machine
end

section
/-! Resets and boot (R15, R350, R386, R414, R420, R426 to R429): what leaving the rota, the scheduled repairs and the registration of the management
queue keep, and the statement O59. -/

namespace Sys2Proof.Machine

/-! ### Leaving the rota -/

/-- What a package keeps as it leaves the rota: the firmware, the ordering code, the repair store, the reference delay and the management record's
address. -/
def storeOf (s : State) : Firmware × BitVec 8 × List Repair × BitVec 24 × DWord := (s.fw, s.code, s.repairs, s.tbase.refdly, s.mgmtRec)

/-- The store of a package is as before. -/
abbrev SameStore (s t : State) : Prop := Keeps storeOf s t

namespace SameStore

open Keeps

variable {s t : State}

theorem of_package (h : SamePackage s t) : SameStore s t :=
  congrArg (fun p : Package => (p.fw, p.code, p.repairs, p.tbase.refdly, p.mgmtRec)) h

theorem emit {o : Output} : SameStore s (emit o s) := rfl

theorem interruptPf {v : Nat} : SameStore s (interruptPf v s) := rfl

theorem dayPackage {k c i : Nat} {v a : DWord} : SameStore s (dayPackage k c i v a s) := rfl

theorem linkRecord {e : LinkEvent} : SameStore s (linkRecord e s) :=
  branch (emit.after (interruptPf.after (dayPackage.after rfl))) (interruptPf.after (dayPackage.after rfl))

theorem lossRecord {e : LinkEvent} : SameStore s (lossRecord e s) := branch rfl linkRecord

theorem setPort {p : Nat} {x : Port} : SameStore s (setPort p x s) := rfl

theorem errorRate {p : Nat} : SameStore s (errorRate p s) := branch (refl s) (branch (lossRecord.after setPort) setPort)

theorem closeLosses {p : Nat} : SameStore s (closeLosses p s) := by
  refine foldl (fun s l => ?_) _ _
  exact rfl

theorem flushEvents : SameStore s (flushEvents s) := (foldl (fun _ _ => linkRecord) _ _).after rfl

theorem endSlot : SameStore s (endSlot s) := branch (refl s) (flushEvents.after (foldl (fun _ _ => errorRate.after closeLosses) _ _))

theorem takeFixed {p n : Nat} : SameStore s (takeFixed p n s).2 := by
  unfold Machine.takeFixed
  split
  · exact refl s
  · dsimp only
    split <;> exact rfl

theorem dropHeaders : SameStore s (dropHeaders s) := foldl (fun _ _ => takeFixed) _ _

theorem settleError : SameStore s (settleError s) := rfl

/-- R417, R419: the reference delay and the store survive as the package leaves the rota. -/
theorem leaveRota : SameStore s (leaveRota s) := update (branch (settleError.after (dropHeaders.after endSlot)) (refl s))

end SameStore

theorem leaveRota_inrota (s : State) : (leaveRota s).tbase.inrota = false := rfl

/-! ### Scheduled repairs -/

/-- A view of what scheduled repairs leave alone. -/
def deskOf (s : State) : Firmware × BitVec 8 × TimeBase × DWord := (s.fw, s.code, s.tbase, s.mgmtRec)

/-- A repair leaves the firmware and the time base as they were, and takes no entry out of the repair store (R414). -/
structure Repaired (s t : State) : Prop where
  desk : Keeps deskOf s t
  grows : s.repairs.length ≤ t.repairs.length

namespace Repaired

variable {s t u : State}

theorem refl (s : State) : Repaired s s := ⟨Keeps.refl s, Nat.le_refl _⟩

theorem after (h : Repaired t u) (k : Repaired s t) : Repaired s u := ⟨h.desk.after k.desk, Nat.le_trans k.grows h.grows⟩

theorem foldl {β : Type} {f : State → β → State} (h : ∀ s b, Repaired s (f s b)) : ∀ (l : List β) (s : State), Repaired s (l.foldl f s)
  | [], s => refl s
  | b :: l, s => (foldl h l (f s b)).after (h s b)

theorem storeFull : Repaired s (storeFull s) := ⟨rfl, Nat.le_refl _⟩

theorem addRepair {r : Repair} {v : DWord} : Repaired s (addRepair r v s) := by
  unfold Machine.addRepair
  split
  · exact ⟨rfl, by simp [dayPackage, Machine.dayRecord]⟩
  · exact storeFull

theorem dropCore {p c : Nat} : Repaired s (dropCore p c s) := addRepair.after ⟨rfl, by simp⟩

theorem retireCores : Repaired s (retireCores s) := by
  refine foldl (fun s e => ?_) _ _
  split
  · exact dropCore
  · exact storeFull

theorem reduceBanks {l : List (Nat × Nat)} : Repaired s (reduceBanks l s) := by
  refine foldl (fun s b => ?_) _ _
  split
  · exact storeFull
  · split
    · exact addRepair.after ⟨rfl, Nat.le_refl _⟩
    · exact refl s

end Repaired

/-! ### The registration of the management queue -/

/-- What the registration of the management queue leaves as it was: the groups, gangs and teams, what waits, which contexts are live, and the other
queues. -/
def residentsOf (s : State) :
    (Group × List Group) × (Sparse Gang × Sparse Team) × (List FeWait × List HostFill) × (Nat → Bool) × (Nat → Queue) :=
  ((s.cur, s.others), (s.gangs, s.teams), (s.waits, s.fills), fun c => (getCtx s c).live,
    fun k => if k = mgmtQueue then Queue.vacant else getQueue s k)

/-- The residents of a package are as before. -/
abbrev SameResidents (s t : State) : Prop := Keeps residentsOf s t

namespace SameResidents

open Keeps

variable {s t : State}

theorem waits (h : SameResidents s t) : t.waits = s.waits := congrArg (fun r => r.2.2.1.1) h

theorem fills (h : SameResidents s t) : t.fills = s.fills := congrArg (fun r => r.2.2.1.2) h

theorem setCtx {c : Nat} {v : Ctx} (h : v.live = (getCtx s c).live := by rfl) : SameResidents s (setCtx c v s) := by
  have live : (fun k => (getCtx (Machine.setCtx c v s) k).live) = fun k => (getCtx s k).live := by
    funext k
    rw [getCtx_setCtx]
    split
    · subst_vars; exact h
    · rfl
  simp only [Keeps, residentsOf, live]
  rfl

theorem setQueue {q : Queue} : SameResidents s (setQueue mgmtQueue q s) := by
  have queues : (fun k => if k = mgmtQueue then Queue.vacant else getQueue (Machine.setQueue mgmtQueue q s) k) =
      fun k => if k = mgmtQueue then Queue.vacant else getQueue s k := by
    funext k
    rw [getQueue_setQueue]
    split <;> rfl
  simp only [Keeps, residentsOf, queues]
  rfl

theorem writeList {pa : Nat} {m : MemType} {bs : List Byte} : SameResidents s (writeList 0 (placeOf pa m) bs s) := by
  cases m <;> rfl

theorem writeFe {pa : Nat} {m : MemType} {b : Bool} : SameResidents s (writeFe 0 (placeOf pa m) b s) := by
  cases m <;> rfl

theorem homeServes {l : Loc} {n : Nat} : SameResidents s (homeServes l n s) := by rw [homeServes_cores]; rfl

theorem tlbRoom {p : Nat} {c : Option Nat} : SameResidents s (tlbRoom p c s) := by
  unfold Machine.tlbRoom
  dsimp only
  split
  · exact refl s
  · split
    · exact setCtx
    · exact refl s

theorem tlbPut {c : Nat} {e : TlbEntry} : SameResidents s (tlbPut c e s) := by
  unfold Machine.tlbPut
  exact Keeps.after setCtx (tlbRoom.after setCtx)

theorem tlbFill {c p k : Nat} {l : Leaf} : SameResidents s (tlbFill c p k l s) :=
  branch (branch tlbPut (tlbPut.after tlbPut)) (refl s)

theorem useLeaf {c va : Nat} {k : AccKind} {l : Leaf} {w : Bool} {p n : Nat} : SameResidents s (useLeaf c va k l w p n s).2 := by
  have dirty : SameResidents s (if (w && mustDirty s c k l.dirty) = true then
      writeBytes 0 (.dev l.entry) 1 (readBytes s 0 (.dev l.entry) 1 ||| 4) s else s) := branch rfl (refl s)
  unfold Machine.useLeaf
  split
  · exact refl s
  · exact branch (tlbFill.after dirty) dirty

theorem translate {c p n va : Nat} {k : AccKind} : SameResidents s (translate c p n va k s).2 := by
  unfold Machine.translate
  split
  · split
    · split
      · exact useLeaf
      · exact refl s
      · exact refl s
    · exact useLeaf
  · split
    · exact useLeaf
    · exact refl s
    · exact refl s

/-- The front end leaves the residents, and what it reaches is device or host memory. -/
theorem frontTarget {c : Nat} {a : DWord} {k : AccKind} {va : Nat} {l : Loc} (e : frontTarget c a k s = (.ok (va, l), t)) :
    SameResidents s t ∧ ∃ pa m, l = placeOf pa m := by
  unfold Machine.frontTarget at e
  split at e
  · split at e <;> rename_i h <;> simp only [Prod.mk.injEq, Got.ok.injEq, reduceCtorEq, false_and] at e
    obtain ⟨⟨-, rfl⟩, rfl⟩ := e
    exact ⟨homeServes.after (translate.snd h), _, _, rfl⟩
  all_goals simp at e

theorem frontTarget_snd {c : Nat} {a : DWord} {k : AccKind} : SameResidents s (Machine.frontTarget c a k s).2 := by
  unfold Machine.frontTarget
  split
  · split <;> rename_i e
    · exact homeServes.after (translate.snd e)
    all_goals exact translate.snd e
  all_goals exact refl s

theorem interruptCtx {c v : Nat} : SameResidents s (interruptCtx c v s) := rfl

theorem interruptPf {v : Nat} : SameResidents s (interruptPf v s) := rfl

theorem recordFault {c : Nat} {f : FaultRec} : SameResidents s (recordFault c f s) :=
  branch setCtx (interruptPf.after (interruptCtx.after setCtx))

theorem reportFault {c va : Nat} {k : AccKind} {src p : Nat} {b : Bool} : SameResidents s (reportFault c va k src p b s) :=
  branch (refl s) (branch setCtx recordFault)

theorem writeRecord {off n v : Nat} : SameResidents s (writeRecord mgmtQueue off n v s) := by
  unfold Machine.writeRecord
  split <;> rename_i e
  · obtain ⟨h, pa, m, rfl⟩ := frontTarget e
    exact writeList.after h
  · exact reportFault.after (setQueue.after (frontTarget_snd.snd e))
  · exact frontTarget_snd.snd e

/-- Where nothing waits, nothing is woken. -/
theorem wakeWord_idle {c tm va : Nat} {l : Loc} (hw : s.waits = []) : ∀ n, wakeWord c tm va l n s = s
  | 0 => rfl
  | n + 1 => by simp [Machine.wakeWord, oldest, hw]

theorem wakeFills_idle {pa : Nat} (hf : s.fills = []) : ∀ n, wakeFills pa n s = s
  | 0 => rfl
  | n + 1 => by simp [Machine.wakeFills, hf]

theorem wake_idle {c tm va : Nat} {l : Loc} (hw : s.waits = []) (hf : s.fills = []) : wake c tm va l s = s := by
  cases l <;> simp [Machine.wake, wakeWord_idle hw, wakeFills_idle hf]

/-- A slot lies in device or host memory. -/
theorem slotPlace_placeOf {k i va : Nat} {l : Loc} (e : slotPlace s k i = some (va, l)) : ∃ pa m, l = placeOf pa m := by
  unfold slotPlace at e
  split at e
  · split at e <;> simp only [Option.some.injEq, Prod.mk.injEq, reduceCtorEq] at e
    exact ⟨_, _, e.2.symm⟩
  · cases e

theorem emptySlot {i : Nat} (hw : s.waits = []) (hf : s.fills = []) : SameResidents s (emptySlot mgmtQueue i s) := by
  unfold Machine.emptySlot
  split
  · rename_i va l e
    obtain ⟨pa, m, rfl⟩ := slotPlace_placeOf e
    have h : SameResidents s (Machine.writeFe 0 (placeOf pa m) false s) := writeFe
    refine branch ?_ (refl s)
    rw [wake_idle (h.waits.trans hw) (h.fills.trans hf)]
    exact h
  · exact setQueue

theorem emptySlots (hw : s.waits = []) (hf : s.fills = []) : SameResidents s (emptySlots mgmtQueue s) :=
  foldl_of _ _ (fun _ _ k => emptySlot ((SameResidents.waits k).trans hw) ((SameResidents.fills k).trans hf))

theorem registerQueue {rcd : DWord} {bs : List Byte} (hw : s.waits = []) (hf : s.fills = []) :
    SameResidents s (registerQueue mgmtQueue rcd bs s) :=
  writeRecord.after (writeRecord.after ((emptySlots (s := Machine.setQueue mgmtQueue _ s) hw hf).after setQueue))

/-- R347: in a package in which nothing waits, the registration of the management queue leaves every resident as it was. -/
theorem registerMgmt {rcd : DWord} (hw : s.waits = []) (hf : s.fills = []) : SameResidents s (registerMgmt rcd s) := by
  unfold Machine.registerMgmt
  split
  · exact branch (registerQueue hw hf) (refl s)
  · exact refl s

end SameResidents

/-! ### The warm reset -/

/-- The state from which a warm reset starts anew (R426): no context is left, the package has left the rota, and its repairs are applied. -/
def quiesced (banks : List (Nat × Nat)) (s : State) : State := reduceBanks banks (retireCores (leaveRota (dropContexts s)))

/-- What a warm reset finds as it starts anew: the firmware, the ordering code, the reference delay and the management record's address as before, the
package outside the rota, and no fewer entries in the repair store. -/
theorem quiesced_keeps (banks : List (Nat × Nat)) (s : State) :
    (quiesced banks s).fw = s.fw ∧ (quiesced banks s).code = s.code ∧ (quiesced banks s).tbase.inrota = false ∧
      (quiesced banks s).tbase.refdly = s.tbase.refdly ∧ (quiesced banks s).mgmtRec = s.mgmtRec ∧
      s.repairs.length ≤ (quiesced banks s).repairs.length := by
  have left : SameStore s (leaveRota (dropContexts s)) := SameStore.leaveRota.after (SameStore.of_package SamePackage.dropContexts)
  obtain ⟨desk, grows⟩ : Repaired (leaveRota (dropContexts s)) (quiesced banks s) := Repaired.reduceBanks.after Repaired.retireCores
  simp only [Keeps, storeOf, Prod.mk.injEq] at left
  simp only [Keeps, deskOf, Prod.mk.injEq] at desk
  obtain ⟨fw, code, repairs, refdly, rcd⟩ := left
  obtain ⟨fw1, code1, tbase1, rcd1⟩ := desk
  exact ⟨fw1.trans fw, code1.trans code, by rw [tbase1, leaveRota_inrota], by rw [tbase1, refdly], rcd1.trans rcd, repairs ▸ grows⟩

theorem warm_samePackage (banks : List (Nat × Nat)) (s : State) : SamePackage (warmState banks s) (warm banks s) :=
  Keeps.branch (Keeps.refl _) SamePackage.registerMgmt

theorem warm_sameResidents (banks : List (Nat × Nat)) (s : State) : SameResidents (warmState banks s) (warm banks s) :=
  Keeps.branch (Keeps.refl _) (SameResidents.registerMgmt rfl rfl)

/-- R15, R349: a warm reset leaves no group, no team, no gang, no live context, and no queue but the management queue. -/
theorem warm_residents (banks : List (Nat × Nat)) (s : State) :
    groups (warm banks s) = [] ∧ (∀ c, (getCtx (warm banks s) c).live = false) ∧
      (∀ k, k ≠ mgmtQueue → getQueue (warm banks s) k = Queue.vacant) ∧ (warm banks s).gangs = [] ∧ (warm banks s).teams = [] := by
  have h := warm_sameResidents banks s
  simp only [Keeps, residentsOf, Prod.mk.injEq] at h
  obtain ⟨⟨cur, others⟩, ⟨gangs, teams⟩, -, live, queues⟩ := h
  refine ⟨?_, fun c => congrFun live c, fun k hk => ?_, gangs, teams⟩
  · simp only [groups, cur, others]; rfl
  · have hq := congrFun queues k
    simp only [if_neg hk] at hq
    exact hq

/-- R15, R386, R414, R426, R429: what of the package itself a warm reset sets, and what it leaves. -/
theorem warm_package (banks : List (Nat × Nat)) (s : State) :
    ((warm banks s).tbase.inrota = false ∧ (warm banks s).tbase.join = false ∧ (warm banks s).tbase.refdly = s.tbase.refdly) ∧
    ((warm banks s).rampUp = 0x08 ∧ (warm banks s).rampDn = 0x08 ∧ (warm banks s).relayq = 0x0580 ∧ (warm banks s).recovb = 0x14002710) ∧
    (warm banks s).fw.counter = s.fw.counter ∧ (warm banks s).fw.image = s.fw.image ∧ (warm banks s).code = s.code ∧
    s.repairs.length ≤ (warm banks s).repairs.length := by
  have h := warm_samePackage banks s
  have tbase : (warm banks s).tbase = { (quiesced banks s).tbase with join := false } := congrArg Package.tbase h
  have fw : (warm banks s).fw = { (quiesced banks s).fw with runners := [], service := (quiesced banks s).time } := congrArg Package.fw h
  have code : (warm banks s).code = (quiesced banks s).code := congrArg Package.code h
  have repairs : (warm banks s).repairs = (quiesced banks s).repairs := congrArg Package.repairs h
  obtain ⟨fw1, code1, inrota1, refdly1, -, grows⟩ := quiesced_keeps banks s
  refine ⟨?_, ⟨congrArg Package.rampUp h, congrArg Package.rampDn h, congrArg Package.relayq h, congrArg Package.recovb h⟩, ?_⟩
  · rw [tbase]
    exact ⟨inrota1, rfl, refdly1⟩
  · rw [fw, code, repairs, fw1]
    exact ⟨rfl, rfl, code1, grows⟩

/-- Without a management record a warm reset leaves no queue and no context (R347). -/
theorem warm_unregistered (banks : List (Nat × Nat)) (s : State) (h : s.mgmtRec = 0) : (warm banks s).ctxs = [] ∧ (warm banks s).queues = [] := by
  have rcd : (warmState banks s).mgmtRec = 0 := (quiesced_keeps banks s).2.2.2.2.1.trans h
  simp only [warm, rcd, if_true]
  exact ⟨rfl, rfl⟩

/-! ### The cold reset -/

/-- The cores that the repair store names start anew, but for their words (R350, R414). -/
theorem repairedCores_clk (l : List Repair) : ∀ k, (Sparse.get Core.start (repairedCores l) k).clk = 0 := by
  refine List.foldlRecOn (motive := fun m => ∀ k, (Sparse.get Core.start m k).clk = 0) l _ (fun k => rfl) (fun m hm r _ => ?_)
  cases r with
  | bank p c =>
    dsimp only
    split
    · exact hm
    · intro k
      rw [Sparse.get_set]
      split
      · exact (hm (coreKey p c) :)
      · exact hm k
  | core p c => exact hm
  | row u => exact hm
  | lane n => exact hm

/-- A sparse map whose values are changed by a function that keeps the default. -/
theorem Sparse.get_map {α : Type} (d : α) (f : α → α) (hf : f d = d) (k : Nat) : ∀ l : List (Nat × α),
    Sparse.get d (l.map (fun e => (e.1, f e.2))) k = f (Sparse.get d l k)
  | [] => hf.symm
  | e :: l => by
    have ih := Sparse.get_map d f hf k l
    simp only [List.map_cons, Sparse.get]
    split
    · rfl
    · exact ih

/-- R386, R414: a cold reset keeps LIMIT and RETIRE of every source, and retires the lanes of the repair store. -/
theorem coldSources_keeps (l : List Repair) (sources : Sparse Source) : ∀ n,
    (Sparse.get Source.start (coldSources l sources) n).limit = (Sparse.get Source.start sources n).limit ∧
    ((Sparse.get Source.start sources n).retire = true → (Sparse.get Source.start (coldSources l sources) n).retire = true) := by
  refine List.foldlRecOn (motive := fun m => ∀ n, (Sparse.get Source.start m n).limit = (Sparse.get Source.start sources n).limit ∧
    ((Sparse.get Source.start sources n).retire = true → (Sparse.get Source.start m n).retire = true)) l _ (fun n => ?_) (fun m hm r _ => ?_)
  · rw [Sparse.get_map Source.start (fun x => { Source.start with retire := x.retire, limit := x.limit }) rfl]
    exact ⟨rfl, id⟩
  · cases r with
    | lane i =>
      intro n
      rw [Sparse.get_set]
      split
      · subst_vars; exact ⟨(hm _).1, fun _ => rfl⟩
      · exact hm n
    | bank p c => exact hm
    | core p c => exact hm
    | row u => exact hm

/-! ### The ROM's choice -/

/-- The firmware complex as a cold reset finds it: the fuses and the rollback counter are left (R428, R429). -/
def fusesOf (f : Firmware) : Firmware := { State.reset.fw with counter := f.counter, edFuse := f.edFuse, mlFuse := f.mlFuse }

/-- The firmware complex once the ROM has chosen (R428). -/
def romBoot (a b : FwImage) (f : Firmware) : Firmware := (romChoice f a b).elim f (fun i => bootImage i f)

theorem match_romChoice (a b : FwImage) (f : Firmware) :
    (match romChoice f a b with | some i => bootImage i f | none => f) = romBoot a b f := by
  unfold romBoot
  cases romChoice f a b <;> rfl

/-- The ROM reads the fuses and the rollback counter, and nothing else of the firmware complex. -/
theorem romChoice_fusesOf (f : Firmware) (a b : FwImage) : romChoice (fusesOf f) a b = romChoice f a b := rfl

theorem romBoot_counter (a b : FwImage) (f : Firmware) : (romBoot a b f).counter = f.counter := by
  unfold romBoot
  cases romChoice f a b <;> rfl

/-- R428: copy A boots where the ROM accepts it, else copy B, else nothing. -/
theorem romBoot_fusesOf (a b : FwImage) (f : Firmware) :
    (romAccepts f a = true → romBoot a b (fusesOf f) = bootImage a (fusesOf f)) ∧
    (romAccepts f a = false → romAccepts f b = true → romBoot a b (fusesOf f) = bootImage b (fusesOf f)) ∧
    (romAccepts f a = false → romAccepts f b = false → romBoot a b (fusesOf f) = fusesOf f) := by
  rw [romBoot, romChoice_fusesOf, romChoice]
  refine ⟨fun h => ?_, fun h k => ?_, fun h k => ?_⟩
  · rw [if_pos h]; rfl
  · rw [h, if_neg Bool.false_ne_true, if_pos k]; rfl
  · rw [h, k, if_neg Bool.false_ne_true]; rfl

/-- An image that is older than the rollback counter is not accepted (R428, R429). -/
theorem romAccepts_of_secver_lt (f : Firmware) (i : FwImage) (h : imageSecver i < f.counter) : romAccepts f i = false := by
  have : ¬ f.counter ≤ imageSecver i := by omega
  simp [romAccepts, this]

/-- What keeps the image in the window from being taken (R428). -/
theorem execRecoveryImage_closed_iff (i : FwImage) (s : State) :
    (s.fw.running || s.power.off || !romAccepts s.fw i || decide (32 * 2 ^ 20 < 5632 + imageLength i)) = true ↔
      s.fw.running = true ∨ s.power.off = true ∨ romAccepts s.fw i = false ∨ 33554432 < 5632 + imageLength i := by
  rw [show 32 * 2 ^ 20 = 33554432 from rfl]
  simp only [Bool.or_eq_true, Bool.not_eq_true', decide_eq_true_eq, or_assoc]

/-- The image in the window boots where no image runs, the package has power, and the ROM accepts it (R428). -/
theorem execRecoveryImage_open (k : ImageChecks) (i : FwImage) (s : State) (hi : i = { header := windowHeader s, checks := k })
    (h : ¬ (s.fw.running = true ∨ s.power.off = true ∨ romAccepts s.fw i = false ∨ 33554432 < 5632 + imageLength i)) :
    execRecoveryImage k s = .next { s with fw := bootImage i s.fw } := by
  subst hi
  exact if_neg (mt (execRecoveryImage_closed_iff _ s).mp h)

theorem execRecoveryImage_closed (k : ImageChecks) (i : FwImage) (s : State) (hi : i = { header := windowHeader s, checks := k })
    (h : s.fw.running = true ∨ s.power.off = true ∨ romAccepts s.fw i = false ∨ 33554432 < 5632 + imageLength i) :
    execRecoveryImage k s = .next s := by
  subst hi
  exact if_pos ((execRecoveryImage_closed_iff _ s).mpr h)

/-- The state that a cold reset leaves, field by field where a statement asks for it (R15, R350, R386, R414, R428, R429). -/
theorem execColdReset_eq (a b : FwImage) (code : BitVec 8) (lgpod pkg : Nat) (s : State) : ∃ t, execColdReset a b code lgpod pkg s = .next t ∧
    (groups t = [] ∧ t.mem = [] ∧ t.time = 0 ∧ t.ctxs = [] ∧ t.daybook = []) ∧ t.repairs = s.repairs ∧ t.cores = repairedCores s.repairs ∧
    t.sources = coldSources s.repairs s.sources ∧ t.fw = romBoot a b (fusesOf s.fw) ∧
    (5 ≤ lgpod → lgpod ≤ 10 → pkg < 2 ^ lgpod → t.lgpod = lgpod ∧ t.pkg = pkg) := by
  refine ⟨_, rfl, ⟨rfl, rfl, rfl, rfl, rfl⟩, rfl, rfl, rfl, match_romChoice a b (fusesOf s.fw), fun h5 h10 hp => ?_⟩
  have pod : (5 ≤ lgpod && lgpod ≤ 10 && pkg < 2 ^ lgpod : Bool) = true := by simp [h5, h10, hp]
  simp only [pod, if_true]
  exact ⟨trivial, if_neg (by omega)⟩

/-! ### O59 -/

open Sys2Proof.Safety

theorem warmReset_holds (s : State) (banks : List (Nat × Nat)) :
    ∃ t, exec (.warmReset banks) s = .next t ∧ groups t = [] ∧ (∀ c, (getCtx t c).live = false) ∧
      (∀ k, k ≠ mgmtQueue → getQueue t k = Queue.vacant) ∧ (s.mgmtRec = 0 → t.ctxs = [] ∧ t.queues = []) ∧
      t.gangs = [] ∧ t.teams = [] ∧ t.tbase.inrota = false ∧ t.tbase.join = false ∧ t.tbase.refdly = s.tbase.refdly ∧ t.rampUp = 0x08 ∧
      t.rampDn = 0x08 ∧ t.relayq = 0x0580 ∧ t.recovb = 0x14002710 ∧ t.fw.counter = s.fw.counter ∧ t.fw.image = s.fw.image ∧
      t.code = s.code ∧ s.repairs.length ≤ t.repairs.length := by
  obtain ⟨groups, live, queues, gangs, teams⟩ := warm_residents banks s
  obtain ⟨⟨inrota, join, refdly⟩, ⟨rampUp, rampDn, relayq, recovb⟩, counter, image, code, repairs⟩ := warm_package banks s
  exact ⟨warm banks s, rfl, groups, live, queues, warm_unregistered banks s, gangs, teams, inrota, join, refdly, rampUp, rampDn, relayq, recovb,
    counter, image, code, repairs⟩

/-- Settles O59: what the resets keep follows from the frames of the operations that they are made of; the rest is what they set. -/
theorem resetAndBoot : Obligations.ResetAndBoot := by
  unfold Obligations.ResetAndBoot
  refine ⟨⟨warmReset_holds, fun s => rfl, fun s a b code lgpod pkg => ?_, fun s k i hi => ?_, romAccepts_of_secver_lt⟩, ?_⟩
  · obtain ⟨t, ht, ⟨groups, mem, time, ctxs, daybook⟩, repairs, cores, sources, fw, pod⟩ := execColdReset_eq a b code lgpod pkg s
    obtain ⟨bootA, bootB, bootNone⟩ := romBoot_fusesOf a b s.fw
    refine ⟨t, ht, groups, mem, time, fun p c => ?_, ctxs, daybook, repairs, ?_, fun n => ?_, fun h => ?_, fun h k => ?_, fun h k => ?_, pod⟩
    · rw [getCore, cores]; exact repairedCores_clk _ _
    · rw [fw, romBoot_counter]; rfl
    · rw [getSource, sources]; exact coldSources_keeps _ _ n
    · rw [fw, bootA h]; exact ⟨rfl, rfl⟩
    · rw [fw, bootB h k]; exact ⟨rfl, rfl⟩
    · rw [fw, bootNone h k]; exact ⟨rfl, rfl⟩
  · refine ⟨fun run off acc len => execRecoveryImage_open k i s hi ?_, execRecoveryImage_closed k i s hi⟩
    simp only [run, off, acc, reduceCtorEq, Bool.false_eq_true, false_or]
    omega
  · exact ⟨rfl, rfl, fun _ _ => rfl, rfl, rfl, rfl, rfl, rfl, rfl, rfl, rfl, rfl, rfl, rfl, rfl, fun _ => rfl, fun _ => rfl, rfl, rfl⟩

end Sys2Proof.Machine
end

section
/-! An operation of the group at the issue port that has one lane completes (R11, R40, R157): bytes as numbers, what a completed lane writes, and
what settling the group leaves alone. -/

namespace Sys2Proof.Machine

/-! ### Bytes as numbers (R11) -/

theorem natLE_bytesLE (n : Nat) : ∀ v, natLE (bytesLE n v) = v % 2 ^ (8 * n) := by
  induction n with
  | zero => intro v; simp [bytesLE, natLE, Nat.mod_one]
  | succ n ih =>
    intro v
    have e : 2 ^ (8 * (n + 1)) = 256 * 2 ^ (8 * n) := by rw [Nat.mul_add, Nat.pow_add, Nat.mul_comm]
    rw [bytesLE, natLE, ih, e, Nat.mod_mul, BitVec.toNat_ofNat]

theorem natLE_lt : ∀ bs : List Byte, natLE bs < 2 ^ (8 * bs.length)
  | [] => by simp [natLE]
  | b :: bs => by
    have ih := natLE_lt bs
    have hb := b.isLt
    have e : 2 ^ (8 * (bs.length + 1)) = 256 * 2 ^ (8 * bs.length) := by rw [Nat.mul_add, Nat.pow_add, Nat.mul_comm]
    rw [natLE, List.length_cons, e]
    omega

theorem bytesLE_natLE : ∀ bs : List Byte, bytesLE bs.length (natLE bs) = bs
  | [] => rfl
  | b :: bs => by
    have hb := b.isLt
    have low : BitVec.ofNat 8 (b.toNat + 256 * natLE bs) = b := by
      apply BitVec.eq_of_toNat_eq
      rw [BitVec.toNat_ofNat]
      omega
    have high : (b.toNat + 256 * natLE bs) / 256 = natLE bs := by omega
    rw [List.length_cons, natLE, bytesLE, low, high, bytesLE_natLE bs]

/-- The bytes of a list, read one by one. -/
theorem map_range_getD {bs : List Byte} {n : Nat} (h : bs.length = n) (f : Nat → Byte) (hf : ∀ i < n, f i = bs.getD i unwritten) :
    (List.range n).map f = bs := by
  subst h
  apply List.ext_getElem
  · simp
  · intro i h1 h2
    simp only [List.getElem_map, List.getElem_range]
    rw [hf i h2, List.getD_eq_getElem?_getD, List.getElem?_eq_getElem h2, Option.getD_some]

/-- Host memory after a write at a place of it. -/
theorem readByte_writeList_host (s : State) (tm tm' pa a i : Nat) (bs : List Byte) :
    readByte (writeList tm (.host pa) bs s) tm' (.host a) i =
      if pa ≤ a + i ∧ a + i < pa + bs.length then bs.getD (a + i - pa) unwritten else readByte s tm' (.host a) i := by
  simp [writeList, readByte]

/-- What is read at a place of device memory or of the host's after a write there: the bytes written. -/
theorem readByte_writeList_same (s : State) (tm tm' : Nat) (l : Loc) (bs : List Byte) (i : Nat) (hi : i < bs.length)
    (hl : (∃ pa, l = .dev pa) ∨ ∃ ha, l = .host ha) : readByte (writeList tm l bs s) tm' l i = bs.getD i unwritten := by
  obtain ⟨a, rfl⟩ | ⟨a, rfl⟩ := hl
  · rw [readByte_writeList_dev, if_pos (by omega), Nat.add_sub_cancel_left]
  · rw [readByte_writeList_host, if_pos (by omega), Nat.add_sub_cancel_left]

/-- The number that is read where a number has been stored. -/
theorem readBytes_writeBytes (s : State) (tm tm' : Nat) (l : Loc) (n v : Nat) (hl : (∃ pa, l = .dev pa) ∨ ∃ ha, l = .host ha) :
    readBytes (writeBytes tm l n v s) tm' l n = v % 2 ^ (8 * n) := by
  rw [readBytes, map_range_getD (bytesLE_length n v), natLE_bytesLE]
  exact fun i hi => readByte_writeList_same s tm tm' l _ i (by rwa [bytesLE_length]) hl

theorem readBytes_lt (s : State) (tm : Nat) (l : Loc) (n : Nat) : readBytes s tm l n < 2 ^ (8 * n) := by
  have h := natLE_lt ((List.range n).map (fun i => readByte s tm l i))
  rwa [List.length_map, List.length_range] at h

/-! ### The group at the issue port -/

theorem findGroup_cur {s : State} {gid : Nat} (h : s.cur.live = true) (hg : s.cur.id = gid) : findGroup gid s = some s.cur := by
  simp [findGroup, groups, h, hg]

theorem modGroup_cur (s : State) (f : Group → Group) (h : s.cur.live = true) : (modGroup s.cur.id f s).cur = f s.cur := by
  simp [modGroup, mapGroups, h]

/-- A group's standing: who and how wide it is, its counters of loads and stores, and its operations. -/
def standingOf (g : Group) : (Bool × Nat × Nat) × (Nat × Mask) × (BitVec 6 × BitVec 6) × List MemOp :=
  ((g.live, g.id, g.team), (g.lgw, g.exited), (g.cntL, g.cntS), g.outs)

/-- A group's standing and its registers: what the settling of a group leaves of it. -/
def holdingsOf (g : Group) : ((Bool × Nat × Nat) × (Nat × Mask) × (BitVec 6 × BitVec 6) × List MemOp) × Sparse RegVal :=
  (standingOf g, g.regs)

theorem Keeps.regs_eq {g h : Group} (e : Keeps holdingsOf g h) : h.regs = g.regs := congrArg (·.2) e

theorem Keeps.outs_eq {g h : Group} (e : Keeps holdingsOf g h) : h.outs = g.outs := congrArg (·.1.2.2.2) e

theorem Keeps.cntL_eq {g h : Group} (e : Keeps holdingsOf g h) : h.cntL = g.cntL := congrArg (·.1.2.2.1.1) e

/-- Settling a group leaves its holdings (R116, R119). -/
theorem releaseWaits_holdings (g : Group) : Keeps holdingsOf g (releaseWaits g) := by
  unfold releaseWaits
  have begun : Keeps holdingsOf g (progress (mapStrands (releaseStrand g) g)) := rfl
  generalize progress (mapStrands (releaseStrand g) g) = h at begun
  dsimp only
  split
  · refine Keeps.branch ?_ begun
    split
    · exact Keeps.branch begun begun
    · exact begun
  · exact begun

/-- A group is no buddy of its own, so the end of its buddies' fusings leaves it as it is. -/
theorem endFuseOf_cur (code : Nat) (s : State) : (endFuseOf s.cur code s).cur = s.cur := by
  simp [endFuseOf, mapGroups, isBuddy]

/-- Settling changes groups only. -/
theorem settleGroup_groups (gid : Nat) (s : State) :
    settleGroup gid s = { s with cur := (settleGroup gid s).cur, others := (settleGroup gid s).others } := by
  unfold settleGroup
  dsimp only
  split
  · split <;> rfl
  · rfl

theorem settleGroup_cur (s : State) (h : s.cur.live = true) : (settleGroup s.cur.id s).cur = releaseWaits s.cur := by
  have port := modGroup_cur s releaseWaits h
  have found : findGroup s.cur.id (modGroup s.cur.id releaseWaits s) = some (releaseWaits s.cur) := by
    have hl : (releaseWaits s.cur).live = s.cur.live := congrArg (·.1.1.1) (releaseWaits_holdings s.cur)
    have hi : (releaseWaits s.cur).id = s.cur.id := congrArg (·.1.1.2.1) (releaseWaits_holdings s.cur)
    rw [← port] at hl hi ⊢
    exact findGroup_cur (hl.trans h) hi
  unfold settleGroup
  simp only [findGroup_cur h rfl, found]
  split
  · rw [← port, endFuseOf_cur]
  · exact port

/-! ### What a load writes (R157, R159) -/

theorem writeReg_standing (en : Mask) (r : Nat) (v : RegVal) (g : Group) : Keeps standingOf g (writeReg en r v g) := by
  have saved : Keeps standingOf g (saveFirst r g) := by
    unfold saveFirst
    split
    · exact Keeps.branch rfl rfl
    · rfl
  have begun : Keeps standingOf g (if en = 0 then g else saveFirst r g) := Keeps.branch rfl saved
  exact begun

theorem writeRegs_standing (en : Mask) (ws : List (Nat × RegVal)) (g : Group) : Keeps standingOf g (writeRegs en ws g) :=
  Keeps.foldl (f := fun g w => writeReg en w.1 w.2 g) (fun g w => writeReg_standing en w.1 w.2 g) ws g

theorem writeLoaded_standing (o : MemOp) (en : Mask) (v : Nat) (g : Group) : Keeps standingOf g (writeLoaded o en v g) := by
  unfold writeLoaded
  split
  · exact Keeps.branch rfl rfl
  · exact Keeps.branch rfl (writeRegs_standing ..)

/-- The words of a load of four or eight bytes begin with the low one, whatever the type. -/
theorem loadWords_head {z : Nat} (h : z = 4 ∨ z = 8) (v : Nat) : ∃ ws, ∀ ty, loadWords z ty v = wd v :: ws := by
  obtain rfl | rfl := h
  · exact ⟨[], fun ty => by simp [loadWords]⟩
  · exact ⟨[wd (v / 2 ^ 32)], fun ty => by simp [loadWords, List.range_succ]⟩

/-- The first of consecutive registers that are written: the merge there. -/
theorem readReg_writeRegs_first (en : Mask) (d : Nat) (x : RegVal) (xs : List RegVal) (g : Group) :
    readReg (writeRegs en (((List.range (x :: xs).length).map (fun k => d + k)).zip (x :: xs)) g) d = mergeReg g en (readReg g d) x := by
  have later : ∀ w ∈ ((List.range xs.length).map (fun k => d + (k + 1))).zip xs, w.1 ≠ d := by
    intro w hw
    obtain ⟨k, -, e⟩ := List.mem_map.1 (List.of_mem_zip hw).1
    omega
  have cut : ((List.range (x :: xs).length).map (fun k => d + k)).zip (x :: xs) =
      (d, x) :: ((List.range xs.length).map (fun k => d + (k + 1))).zip xs := by
    simp [List.range_succ_eq_map, Function.comp_def]
  rw [cut]
  exact (readReg_writeRegs_other en d _ (writeReg en d x g) later).trans (by rw [readReg_writeReg, if_pos rfl])

/-- What a load of four or eight bytes leaves in a lane that it writes: the low word. -/
theorem writeLoaded_lane (o : MemOp) (en : Mask) (v i : Nat) (g : Group) (hz : o.z = 4 ∨ o.z = 8) (hp : o.pred = none) (hr : o.ret = true)
    (hd : o.d < 0xF0) (hw : i < width g) (hi : i < 128) (hx : g.exited.getLsbD i = false) (he : en.getLsbD i = true) :
    (readReg (writeLoaded o en v g) o.d).lane i = wd v := by
  obtain ⟨ws, hws⟩ := loadWords_head hz v
  have low : (if o.uni then RegVal.u (wd v) else .g (List.replicate (width g) (wd v))).lane i = wd v := by
    split <;> simp [RegVal.lane, List.getD, hw]
  have open_ : ¬ ((!o.ret || decide (0xF0 ≤ o.d)) = true) := by simp [hr, hd]
  unfold writeLoaded
  simp only [hp, hws, if_neg open_, List.map_cons]
  have first := readReg_writeRegs_first en o.d (if o.uni then RegVal.u (wd v) else .g (List.replicate (width g) (wd v)))
    (ws.map (fun w => if o.uni then RegVal.u w else .g (List.replicate (width g) w))) g
  rw [List.length_cons, List.length_map] at first
  rw [List.length_cons, first, mergeReg_lane g en _ _ i hw hi hx, if_pos he, low]

/-! ### The only lane of an operation is done -/

/-- An operation whose only lane is done. -/
def soleDone (o : MemOp) (l : LaneAcc) (v : Nat) : MemOp := { o with lanes := [{ l with done := true, ret := BitVec.ofNat 512 v }] }

/-- The lanes that the only lane of an operation writes for: the resident lanes where the access is one for all of them. -/
def soleMask (o : MemOp) (l : LaneAcc) (g : Group) : Mask := if o.uni then residentLanes g else maskOfLanes [l.lane] &&& residentLanes g

/-- A group to which the only lane of an operation has answered v. -/
def soleWritten (o : MemOp) (l : LaneAcc) (v : Nat) (g : Group) : Group :=
  writeLoaded (soleDone o l v) (soleMask o l g) v (modOp o.id (fun _ => soleDone o l v) g)

theorem findOp_id {k : Nat} {g : Group} {o : MemOp} (h : findOp k g = some o) : o.id = k := by
  simpa using List.find?_some h

/-- The operation that is found by a number, after a change of it that keeps numbers. -/
theorem findOp_modOp {k : Nat} {g : Group} {o : MemOp} {f : MemOp → MemOp} (h : findOp k g = some o) (hf : ∀ x, x.id = k → (f x).id = k) :
    findOp k (modOp k f g) = some (f o) := by
  unfold findOp modOp updateWhere at *
  simp only at *
  generalize g.outs = xs at h
  induction xs with
  | nil => simp at h
  | cons x xs ih =>
    by_cases hx : x.id = k
    · simp_all
    · simp_all

theorem soleWritten_standing (o : MemOp) (l : LaneAcc) (v : Nat) (g : Group) :
    Keeps standingOf (modOp o.id (fun _ => soleDone o l v) g) (soleWritten o l v g) := writeLoaded_standing ..

/-- The answer of an operation's only lane: what the load writes, and changes of its strands. -/
theorem laneDone_eq {k : Nat} {g : Group} {o : MemOp} {l : LaneAcc} (v : Nat) (h : findOp k g = some o) (hl : o.lanes = [l]) :
    ∃ f, laneDone k l.lane v g = mapStrands f (soleWritten o l v g) := by
  have lanes : updateWhere (fun a => a.lane == l.lane) (fun a => { a with done := true, ret := BitVec.ofNat 512 v }) o.lanes =
      (soleDone o l v).lanes := by
    simp [hl, updateWhere, soleDone]
  obtain rfl := findOp_id h
  refine ⟨fun t => if t.hold = .op o.id then { t with pend := t.pend &&& ~~~(maskOfLanes [l.lane]) } else t, ?_⟩
  unfold laneDone soleWritten soleMask
  simp only [h, lanes]
  congr 1
  by_cases one : o.uni = true
  · rw [if_pos one, if_pos one]
    rfl
  · rw [if_neg one, if_neg one]
    rfl

/-- A group whose operation ends as its only lane answers v: its counter falls and it is gone. -/
def soleEnded (o : MemOp) (l : LaneAcc) (v : Nat) (g : Group) : Group :=
  dropCtr o.ctr { soleWritten o l v g with outs := (soleWritten o l v g).outs.filter (fun x => x.id != o.id) }

theorem soleEnded_who (o : MemOp) (l : LaneAcc) (v : Nat) (g : Group) :
    ((soleEnded o l v g).live, (soleEnded o l v g).id, (soleEnded o l v g).team) = (g.live, g.id, g.team) := by
  refine Eq.trans ?_ (congrArg (·.1) (soleWritten_standing o l v g))
  unfold soleEnded
  cases o.ctr <;> rfl

theorem soleEnded_cntL (o : MemOp) (l : LaneAcc) (v : Nat) (g : Group) (hc : o.ctr = .l) : (soleEnded o l v g).cntL = g.cntL - 1 := by
  have count : (soleWritten o l v g).cntL = g.cntL := congrArg (·.2.2.1.1) (soleWritten_standing o l v g)
  rw [← count, soleEnded, hc]
  rfl

theorem soleEnded_outs (o : MemOp) (l : LaneAcc) (v : Nat) (g : Group) : ∀ x ∈ (soleEnded o l v g).outs, x.id ≠ o.id := by
  have outs : (soleEnded o l v g).outs = (soleWritten o l v g).outs.filter (fun x => x.id != o.id) := by
    unfold soleEnded
    cases o.ctr <;> rfl
  intro x hx
  rw [outs] at hx
  simpa using (List.mem_filter.1 hx).2

theorem soleEnded_regs (o : MemOp) (l : LaneAcc) (v : Nat) (g : Group) : (soleEnded o l v g).regs = (soleWritten o l v g).regs := by
  unfold soleEnded
  cases o.ctr <;> rfl

theorem getLsbD_maskOfLanes_one (i : Nat) (h : i < 128) : (maskOfLanes [i]).getLsbD i = true := by
  rw [maskOfLanes, List.foldl_cons, List.foldl_nil, BitVec.getLsbD_or, BitVec.getLsbD_ofNat, Nat.testBit_two_pow_self, decide_eq_true h]
  simp

/-- The only lane of an operation is among those that it writes for. -/
theorem soleMask_lane (o : MemOp) (l : LaneAcc) (g : Group) (hw : l.lane < width g) (hi : l.lane < 128)
    (hx : g.exited.getLsbD l.lane = false) : (soleMask o l g).getLsbD l.lane = true := by
  have resident : (residentLanes g).getLsbD l.lane = true := by simp [getLsbD_residentLanes g _ hi, hw, hx]
  unfold soleMask
  split
  · exact resident
  · rw [BitVec.getLsbD_and, getLsbD_maskOfLanes_one _ hi, resident]
    rfl

/-- The lane of the first register of an operation of four or eight bytes that answers v: the low word (R159). -/
theorem soleEnded_lane (o : MemOp) (l : LaneAcc) (v : Nat) (g : Group) (hz : o.z = 4 ∨ o.z = 8) (hp : o.pred = none) (hr : o.ret = true)
    (hd : o.d < 0xF0) (hw : l.lane < width g) (hi : l.lane < 128) (hx : g.exited.getLsbD l.lane = false) :
    (readReg (soleEnded o l v g) o.d).lane l.lane = wd v := by
  rw [readReg, soleEnded_regs]
  exact writeLoaded_lane (soleDone o l v) (soleMask o l g) v l.lane (modOp o.id (fun _ => soleDone o l v) g) hz hp hr hd hw hi hx
    (soleMask_lane o l g hw hi hx)

/-- When its only lane completes, an operation ends. -/
theorem closeOp_laneDone {k : Nat} {g : Group} {o : MemOp} {l : LaneAcc} (v : Nat) (h : findOp k g = some o) (hl : o.lanes = [l]) :
    Keeps holdingsOf (soleEnded o l v g) (closeOp k (laneDone k l.lane v g)) := by
  obtain ⟨f, written⟩ := laneDone_eq v h hl
  have hid : o.id = k := findOp_id h
  have found : findOp k (soleWritten o l v g) = some (soleDone o l v) := by
    have outs : (soleWritten o l v g).outs = (modOp k (fun _ => soleDone o l v) g).outs :=
      findOp_id h ▸ congrArg (·.2.2.2) (soleWritten_standing o l v g)
    rw [findOp, outs]
    exact findOp_modOp (f := fun _ => soleDone o l v) h (fun _ _ => hid)
  rw [written]
  unfold closeOp soleEnded
  rw [findOp_id h]
  generalize soleWritten o l v g = w at found
  rw [show findOp k (mapStrands f w) = findOp k w from rfl, found]
  cases hc : o.ctr <;> simp only [soleDone, hc] <;> rfl

/-- The completion of a lane that is no acquire settles the group (R157, R281). -/
theorem completeLane_relaxed {k lane : Nat} {s : State} {o : MemOp} (v : Nat) (live : s.cur.live = true) (h : findOp k s.cur = some o)
    (ha : o.kind.acquires = false) :
    completeLane s.cur.id k lane v s = settleGroup s.cur.id (modGroup s.cur.id (fun g => closeOp k (laneDone k lane v g)) s) := by
  have due : acquireDue s.cur.id k lane s = none := by
    simp [acquireDue, findGroup_cur live rfl, h, ha]
  unfold completeLane
  rw [due]

/-- What the completion of an operation's only lane leaves of the group at the issue port: what the operation's answer writes, without the
operation (R157, R159). -/
theorem completeLane_sole {k : Nat} {s : State} {o : MemOp} {l : LaneAcc} (v : Nat) (live : s.cur.live = true) (h : findOp k s.cur = some o)
    (hl : o.lanes = [l]) (ha : o.kind.acquires = false) :
    Keeps holdingsOf (soleEnded o l v s.cur) (completeLane s.cur.id k l.lane v s).cur := by
  have closed := closeOp_laneDone v h hl
  have port := modGroup_cur s (fun g => closeOp k (laneDone k l.lane v g)) live
  rw [completeLane_relaxed v live h ha]
  generalize modGroup s.cur.id (fun g => closeOp k (laneDone k l.lane v g)) s = t at port
  rw [← port] at closed
  have who : (t.cur.live, t.cur.id, t.cur.team) = (s.cur.live, s.cur.id, s.cur.team) :=
    (congrArg (·.1.1) closed).trans (soleEnded_who o l v s.cur)
  have id : t.cur.id = s.cur.id := congrArg (·.2.1) who
  rw [← id, settleGroup_cur t ((congrArg (·.1) who).trans live)]
  exact (releaseWaits_holdings t.cur).after closed

end Sys2Proof.Machine
end

section
/-! O46, the answers of the host's link to an AtomicOp of a lane (R154, R176). -/

namespace Sys2Proof.Machine

open Sys2Proof.Safety

/-- The completion of a lane that is no acquire changes groups only. -/
theorem completeLane_groups {k lane : Nat} {s : State} {o : MemOp} (v : Nat) (live : s.cur.live = true) (h : findOp k s.cur = some o)
    (ha : o.kind.acquires = false) :
    completeLane s.cur.id k lane v s =
      { s with cur := (completeLane s.cur.id k lane v s).cur, others := (completeLane s.cur.id k lane v s).others } := by
  rw [completeLane_relaxed v live h ha, settleGroup_groups]
  rfl

/-- The only lane of an operation, at the host's memory, is the one that the host answers. -/
theorem hostLane_sole {o : MemOp} {l : LaneAcc} {ha : Nat} (hl : o.lanes = [l]) (done : l.done = false) (held : l.held = false)
    (loc : l.loc = .host ha) : hostLane o = some l := by
  simp [hostLane, hl, done, held, loc, Loc.isHost]

/-- The host's answer to the AtomicOp of an operation's only lane (R154, R176). -/
theorem execHostAtomicopCompletion_sole {s : State} {k : Nat} {o : MemOp} {l : LaneAcc} {op : AtomOp} (supported : Bool)
    (live : s.cur.live = true) (h : findOp k s.cur = some o) (kind : o.kind = .atomic op) (lane : hostLane o = some l)
    (now : canPerform s s.cur o = true) :
    execHostAtomicopCompletion s.cur.id k supported s = .next (if supported then
      completeLane s.cur.id k l.lane (readBytes s s.cur.team l.loc o.z) (writeBytes s.cur.team l.loc o.z
        (atomicNew op o.ty o.round (readBytes s s.cur.team l.loc o.z) (l.data.toNat % 2 ^ (8 * o.z)) l.data2.toNat) s)
      else failLane s.cur.id k l.lane .hostAtomic l.va s) := by
  unfold execHostAtomicopCompletion
  simp only [findGroup_cur live rfl, h, kind, lane, now]
  cases supported <;> rfl

/-- What host memory holds outside a place that is written. -/
theorem readByte_writeBytes_host_outside (s : State) (tm ha n v a : Nat) (h : a < ha ∨ ha + n ≤ a) :
    readByte (writeBytes tm (.host ha) n v s) 0 (.host a) 0 = readByte s 0 (.host a) 0 := by
  rw [writeBytes, readByte_writeList_host, bytesLE_length, if_neg (by omega)]

theorem hostAtomic_supported (s : State) (k ha v : Nat) (o : MemOp) (l : LaneAcc) (op : AtomOp) (live : s.cur.live = true)
    (h : findOp k s.cur = some o) (kind : o.kind = .atomic op) (hl : o.lanes = [l]) (lane : hostLane o = some l) (loc : l.loc = .host ha)
    (now : canPerform s s.cur o = true) (hw : l.lane < width s.cur) (hi : l.lane < 128) (hx : s.cur.exited.getLsbD l.lane = false)
    (hc : o.ctr = .l) (hr : o.ret = true) (hp : o.pred = none) (hd : o.d < 0xF0) (hz : o.z = 4 ∨ o.z = 8)
    (hv : v = atomicNew op o.ty o.round (readBytes s s.cur.team l.loc o.z) (l.data.toNat % 2 ^ (8 * o.z)) l.data2.toNat) :
    ∃ t, exec (.hostAtomicopCompletion s.cur.id k true) s = .next t ∧ readBytes t s.cur.team (.host ha) o.z = v % 2 ^ (8 * o.z) ∧
      (readReg t.cur o.d).lane l.lane = wd (readBytes s s.cur.team l.loc o.z) ∧ t.cur.cntL = s.cur.cntL - 1 ∧ t.mem = s.mem ∧
      (∀ a, (a < ha ∨ ha + o.z ≤ a) → readByte t 0 (.host a) 0 = readByte s 0 (.host a) 0) ∧ ∀ x ∈ t.cur.outs, x.id ≠ k := by
  have answer := execHostAtomicopCompletion_sole true live h kind lane now
  have relaxed : o.kind.acquires = false := by rw [kind]; rfl
  rw [if_pos rfl, ← hv, loc] at answer
  rw [loc]
  have port : (writeBytes s.cur.team (.host ha) o.z v s).cur = s.cur := rfl
  have ended := completeLane_sole (s := writeBytes s.cur.team (.host ha) o.z v s) (readBytes s s.cur.team (.host ha) o.z) live h hl relaxed
  have groups := completeLane_groups (s := writeBytes s.cur.team (.host ha) o.z v s) (lane := l.lane)
    (readBytes s s.cur.team (.host ha) o.z) live h relaxed
  rw [port] at ended groups
  generalize completeLane s.cur.id k l.lane (readBytes s s.cur.team (.host ha) o.z) (writeBytes s.cur.team (.host ha) o.z v s) = t
    at answer groups ended
  refine ⟨t, answer, ?_, ?_, ended.cntL_eq.trans (soleEnded_cntL o l _ s.cur hc), ?_, ?_, ?_⟩
  · rw [groups]
    exact readBytes_writeBytes s s.cur.team s.cur.team (.host ha) o.z v (.inr ⟨ha, rfl⟩)
  · rw [readReg, ended.regs_eq]
    exact soleEnded_lane o l _ s.cur hz hp hr hd hw hi hx
  · rw [groups]
    rfl
  · intro a out
    rw [groups]
    exact readByte_writeBytes_host_outside s s.cur.team ha o.z v a out
  · intro x hx'
    rw [← findOp_id h]
    exact soleEnded_outs o l _ s.cur x (ended.outs_eq ▸ hx')

/-! ### The trap at an unsupported AtomicOp -/

/-- What a trap of a lane of the group at the issue port depends on, and the registers. -/
def trapViewOf (g : Group) : (Bool × Nat) × (KHeader × Bool × Option DWord) × Strand × Sparse RegVal :=
  ((g.live, g.id), (g.hdr, g.inTrap, g.restoring), g.strand, g.regs)

/-- Settling leaves a strand that an operation holds (R119). -/
theorem releaseWaits_held {g : Group} {k : Nat} (h : g.strand.hold = .op k) : Keeps trapViewOf g (releaseWaits g) := by
  have strand : releaseStrand g g.strand = g.strand := by rw [releaseStrand, h]
  have hold : (progress (mapStrands (releaseStrand g) g)).strand = g.strand := strand
  have same : releaseWaits g = progress (mapStrands (releaseStrand g) g) := by
    unfold releaseWaits
    dsimp only
    rw [hold, h]
  rw [same]
  unfold Keeps trapViewOf
  rw [hold]
  rfl

theorem cancelOp_trapView (k : Nat) (g : Group) : Keeps trapViewOf g (cancelOp k g) := by
  unfold cancelOp
  split
  · rfl
  · rename_i o _
    cases o.ctr <;> rfl

theorem cancelOp_outs (k : Nat) (g : Group) : ∀ x ∈ (cancelOp k g).outs, x.id ≠ k := by
  intro x hx
  unfold cancelOp at hx
  split at hx
  · rename_i absent
    simpa using List.find?_eq_none.1 absent x hx
  · rename_i o _
    have gone : x ∈ g.outs.filter (fun x => x.id != k) := by cases hc : o.ctr <;> simpa [hc, dropCtr, progress] using hx
    simpa using (List.mem_filter.1 gone).2

/-- A trap of class G of a lane of the strand at the issue port enters the handler (R98, R154). -/
theorem replayTrap_enters (lane : Nat) (m : Mask) (tr : Trap) (s : State) (live : s.cur.live = true)
    (here : s.cur.strand.mask.getLsbD lane = true) (cls : tr.cause.classM = false) (free : s.cur.inTrap = false)
    (handler : s.cur.hdr.handler ≠ 0) (whole : s.cur.restoring = none) :
    replayTrap s.cur.id lane m tr s =
      { s with
        cur := enterHandler tr { s.cur with
          replay := some (s.cur.strand.pc, m), strand := { s.cur.strand with hold := .none, pend := 0, replay := none } },
        last := .trapped } := by
  have port : focusLane s.cur.id lane s = s := by
    simp [focusLane, focus, live, modCur, focusStrand, here]
  have go : (s.cur.inTrap || s.cur.hdr.handler == 0 || s.cur.restoring.isSome) = false := by
    rw [free, beq_eq_false_iff_ne.2 handler, whole]
    rfl
  unfold replayTrap takeTrap
  rw [port, if_neg (by simp [cls])]
  exact if_neg (by simpa using go)

/-- An operation that no lane waits for at a full/empty word has no waits to drop. -/
theorem dropWaitsOf_none (gid k : Nat) (s : State)
    (h : s.waits.any (fun w => match w.who with | .lane g p _ => g == gid && p == k | _ => false) = false) : dropWaitsOf gid k s = s := by
  have nil : s.waits.filter (fun w => match w.who with | .lane g p _ => g == gid && p == k | _ => false) = [] := by
    rw [List.filter_eq_nil_iff]
    exact fun w hw => by simpa using List.any_eq_false.1 h w hw
  exact congrArg (List.foldl (fun s w => dropWait w s) s) nil

/-- An operation with no request under way at another package has none to withdraw. -/
theorem withdrawRemote_none (gid k : Nat) (s : State) (h : s.barrow.any (fun b => b.gid == some gid && b.op == k) = false) :
    withdrawRemote gid k s = s := by
  have nil : s.barrow.filter (fun b => b.gid == some gid && b.op == k && b.copy.isNone && mayWait b.rcd.kind) = [] := by
    rw [List.filter_eq_nil_iff]
    intro b hb own
    simp only [Bool.and_eq_true] at own
    exact List.any_eq_false.1 h b hb (by simp [own.1.1.1, own.1.1.2])
  exact congrArg (List.foldl (fun s b => withdrawEntry b s) s) nil

/-- An operation that ends with a trap. -/
def trapEnded (c : Cause) (l : LaneAcc) (o : MemOp) : MemOp := { o with ending := some (.trap c l.lane l.va) }

/-- The end of an operation with a trap of its only lane, which is at the host's memory (R154). -/
theorem endOp_sole {s : State} {k : Nat} {o : MemOp} {l : LaneAcc} {ha : Nat} (c : Cause) (live : s.cur.live = true)
    (h : findOp k s.cur = some o) (hl : o.lanes = [l]) (loc : l.loc = .host ha)
    (remote : s.barrow.any (fun b => b.gid == some s.cur.id && b.op == k) = false)
    (waits : s.waits.any (fun w => match w.who with | .lane g p _ => g == s.cur.id && p == k | _ => false) = false) :
    endOp s.cur.id k (.trap c l.lane l.va) s =
      replayTrap s.cur.id l.lane (openLanes (trapEnded c l o)) (laneTrap c l.lane l.va)
        (endOpen s.cur.id k (modGroup s.cur.id (modOp k (trapEnded c l)) s)) := by
  have port := modGroup_cur s (modOp k (trapEnded c l)) live
  have found : findOp k (modOp k (trapEnded c l) s.cur) = some (trapEnded c l o) :=
    findOp_modOp h (fun _ hx => hx)
  have near : lanesAway (modGroup s.cur.id (modOp k (trapEnded c l)) s) s.cur.id (trapEnded c l o) = false := by
    simp [lanesAway, trapEnded, hl, loc, Loc.isPod]
  have group : findGroup s.cur.id (modGroup s.cur.id (modOp k (trapEnded c l)) s) = some (modOp k (trapEnded c l) s.cur) := by
    rw [← port]
    exact findGroup_cur (by rw [port]; exact live) (by rw [port]; rfl)
  show finishEnd s.cur.id k (withdrawRemote s.cur.id k (dropWaitsOf s.cur.id k (modGroup s.cur.id (modOp k (trapEnded c l)) s))) = _
  rw [dropWaitsOf_none _ _ (modGroup s.cur.id (modOp k (trapEnded c l)) s) waits,
    withdrawRemote_none _ _ (modGroup s.cur.id (modOp k (trapEnded c l)) s) remote]
  unfold finishEnd
  simp only [group, found, near]
  rfl

/-- What the end of an operation that the strand at the issue port waits for leaves of the group: all that a trap depends on, and none of
the operation. -/
theorem endOpen_cur {s : State} {k : Nat} (live : s.cur.live = true) (hold : s.cur.strand.hold = .op k) :
    Keeps trapViewOf s.cur (endOpen s.cur.id k s).cur ∧ ∀ x ∈ (endOpen s.cur.id k s).cur.outs, x.id ≠ k := by
  have port := modGroup_cur s (cancelOp k) live
  have view := cancelOp_trapView k s.cur
  have outs := cancelOp_outs k s.cur
  unfold endOpen
  generalize modGroup s.cur.id (cancelOp k) s = t at port
  rw [← port] at view outs
  have id : t.cur.id = s.cur.id := congrArg (·.1.2) view
  have held : t.cur.strand.hold = .op k := (congrArg (·.2.2.1.hold) view).trans hold
  rw [← id, settleGroup_cur t ((congrArg (·.1.1) view).trans live)]
  exact ⟨(releaseWaits_held held).after view, fun x hx => outs x ((releaseWaits_holdings t.cur).outs_eq ▸ hx)⟩

theorem endOpen_groups (gid k : Nat) (s : State) :
    endOpen gid k s = { s with cur := (endOpen gid k s).cur, others := (endOpen gid k s).others } := by
  unfold endOpen
  rw [settleGroup_groups]
  rfl

theorem hostAtomic_unsupported (s : State) (k ha : Nat) (o : MemOp) (l : LaneAcc) (op : AtomOp) (live : s.cur.live = true)
    (h : findOp k s.cur = some o) (kind : o.kind = .atomic op) (hl : o.lanes = [l]) (lane : hostLane o = some l) (loc : l.loc = .host ha)
    (now : canPerform s s.cur o = true) (here : s.cur.strand.mask.getLsbD l.lane = true) (free : s.cur.inTrap = false)
    (handler : s.cur.hdr.handler ≠ 0) (whole : s.cur.restoring = none) (hold : s.cur.strand.hold = .op k)
    (remote : s.barrow.any (fun b => b.gid == some s.cur.id && b.op == k) = false)
    (waits : s.waits.any (fun w => match w.who with | .lane g p _ => g == s.cur.id && p == k | _ => false) = false) :
    ∃ t, exec (.hostAtomicopCompletion s.cur.id k false) s = .next t ∧ t.cur.tcause = tcauseOf (laneTrap .hostAtomic l.lane l.va) ∧
      t.cur.tval = l.va ∧ t.cur.inTrap = true ∧ t.cur.strand.pc = s.cur.hdr.handler ∧ t.cur.regs = s.cur.regs ∧ SameBytes s t ∧
      ∀ x ∈ t.cur.outs, x.id ≠ k := by
  have answer := execHostAtomicopCompletion_sole false live h kind lane now
  have full : s.cur.strand.mask ≠ 0 := by
    intro e
    rw [e] at here
    simp at here
  have waiting : (allStrands s.cur).any (fun t => t.hold == .op k) = true :=
    List.any_eq_true.2 ⟨s.cur.strand, by rw [allStrands, liveStrands, if_neg full]; simp, by simp [hold]⟩
  have fails : failLane s.cur.id k l.lane .hostAtomic l.va s = endOp s.cur.id k (.trap .hostAtomic l.lane l.va) s := by
    unfold failLane
    simp only [findGroup_cur live rfl, h, waiting, if_true]
  rw [if_neg (by decide), fails, endOp_sole .hostAtomic live h hl loc remote waits] at answer
  have port := modGroup_cur s (modOp k (trapEnded .hostAtomic l)) live
  have groups : modGroup s.cur.id (modOp k (trapEnded .hostAtomic l)) s =
    { s with cur := (modGroup s.cur.id (modOp k (trapEnded .hostAtomic l)) s).cur,
             others := (modGroup s.cur.id (modOp k (trapEnded .hostAtomic l)) s).others } := rfl
  generalize modGroup s.cur.id (modOp k (trapEnded .hostAtomic l)) s = s1 at answer port groups
  have view1 : Keeps trapViewOf s.cur s1.cur := (congrArg trapViewOf port).trans rfl
  have id1 : s1.cur.id = s.cur.id := congrArg (·.1.2) view1
  obtain ⟨view2, outs⟩ := endOpen_cur (s := s1) (k := k) ((congrArg (·.1.1) view1).trans live)
    ((congrArg (·.2.2.1.hold) view1).trans hold)
  have groups2 := endOpen_groups s1.cur.id k s1
  rw [← id1] at answer ⊢
  generalize endOpen s1.cur.id k s1 = s2 at answer view2 outs groups2
  have view : Keeps trapViewOf s.cur s2.cur := view2.after view1
  have handler2 : s2.cur.hdr.handler = s.cur.hdr.handler := congrArg (·.2.1.1.handler) view
  rw [show s1.cur.id = s2.cur.id from (congrArg (·.1.2) view2).symm,
    replayTrap_enters l.lane _ _ s2 ((congrArg (·.1.1) view).trans live) ((congrArg (·.2.2.1.mask.getLsbD l.lane) view).trans here) rfl
      ((congrArg (·.2.1.2.1) view).trans free) (fun e => handler (handler2.symm.trans e)) ((congrArg (·.2.1.2.2) view).trans whole)] at answer
  rw [show s1.cur.id = s2.cur.id from (congrArg (·.1.2) view2).symm]
  refine ⟨_, answer, rfl, rfl, rfl, handler2, congrArg (·.2.2.2) view, ?_, outs⟩
  intro tm place i
  rw [groups2, groups]
  cases place <;> rfl

end Sys2Proof.Machine
end

section
/-! O46, the host's accesses through BAR2 and BAR0 (R280, R324, R369, R370). -/

namespace Sys2Proof.Machine

/-! ### An access of one piece -/

/-- An access within 64 KiB is one piece. -/
theorem hostPieces_single (k off n : Nat) (h0 : 0 < n) (h : off % 65536 + n ≤ 65536) : hostPieces (k + 2) off n = [(off, n)] := by
  have whole : min n (65536 - off % 65536) = n := by omega
  have pos : n ≠ 0 := by omega
  simp [hostPieces, whole, pos]

theorem hostPieces_hostMax (off n : Nat) (h0 : 0 < n) (h : off % 65536 + n ≤ 65536) : hostPieces (hostMax / 8) off n = [(off, n)] :=
  hostPieces_single 510 off n h0 h

theorem hostPlaces_single_at {fn : HostFn} {k : AccKind} {off n va : Nat} {c : Option Nat} {loc : Loc} {s s1 : State}
    (h : hostPlace fn off n k s = (.at c va loc, s1)) : hostPlaces fn k [(off, n)] s = (.all [(off, n, c, va, loc)], s1) := by
  simp [hostPlaces, h]

theorem hostPlaces_single_absent {fn : HostFn} {k : AccKind} {off n c va : Nat} {p : Bool} {s s1 : State}
    (h : hostPlace fn off n k s = (.absent c va p, s1)) : hostPlaces fn k [(off, n)] s = (.absent c va p, s1) := by
  simp [hostPlaces, h]

theorem hostPlaces_single_none {fn : HostFn} {k : AccKind} {off n : Nat} {s s1 : State}
    (h : hostPlace fn off n k s = (.none, s1)) : hostPlaces fn k [(off, n)] s = (.none, s1) := by
  simp [hostPlaces, h]

/-! ### Bytes at a place of device memory -/

theorem readByte_writeList_inside (s : State) (tm pa j : Nat) (bs : List Byte) (h : j < bs.length) :
    readByte (writeList tm (.dev pa) bs s) 0 (.dev pa) j = bs.getD j 0 :=
  readByte_writeList_same s tm 0 (.dev pa) bs j h (.inl ⟨pa, rfl⟩)

theorem readByte_writeList_outside (s : State) (tm pa a : Nat) (bs : List Byte) (h : a < pa ∨ pa + bs.length ≤ a) :
    readByte (writeList tm (.dev pa) bs s) 0 (.dev a) 0 = readByte s 0 (.dev a) 0 := by
  rw [readByte_writeList_dev, if_neg (by omega)]

/-! ### Plain writes (R280, R369) -/

theorem hostPlainWrite_at (s s1 : State) (fn : HostFn) (off va pa : Nat) (c : Option Nat) (bytes : List Byte) (ne : bytes ≠ [])
    (within : off % 65536 + bytes.length ≤ 65536) (place : hostPlace fn off bytes.length .wr s = (.at c va (.dev pa), s1)) :
    ∃ t, exec (.hostPlainWrite fn off bytes) s = .next t ∧ t = { s1 with mem := t.mem } ∧
      (∀ j < bytes.length, readByte t 0 (.dev pa) j = bytes.getD j 0) ∧
      ∀ a, (a < pa ∨ pa + bytes.length ≤ a) → readByte t 0 (.dev a) 0 = readByte s1 0 (.dev a) 0 := by
  have run : exec (.hostPlainWrite fn off bytes) s = .next (writeList 0 (.dev pa) bytes s1) := by
    show hostWrite (.hostPlainWrite fn off bytes) fn off bytes s = _
    unfold hostWrite
    rw [hostPieces_hostMax off _ (List.length_pos_iff.2 ne) within, hostPlaces_single_at place]
    simp
  exact ⟨_, run, rfl, fun j hj => readByte_writeList_inside s1 0 pa j bytes hj, fun a ha => readByte_writeList_outside s1 0 pa a bytes ha⟩

theorem hostPlainWrite_none (s s1 : State) (fn : HostFn) (off : Nat) (bytes : List Byte) (ne : bytes ≠ [])
    (within : off % 65536 + bytes.length ≤ 65536) (place : hostPlace fn off bytes.length .wr s = (.none, s1)) :
    exec (.hostPlainWrite fn off bytes) s = .next { s1 with out := s1.out ++ [.aerDrop off] } := by
  show hostWrite (.hostPlainWrite fn off bytes) fn off bytes s = _
  unfold hostWrite
  rw [hostPieces_hostMax off _ (List.length_pos_iff.2 ne) within, hostPlaces_single_none place]
  rfl

/-- The host accesses that are held, and the bytes of device memory. -/
def heldViewOf (s : State) : List (Nat × Nat × Instr) × List Host.Cell := (s.hostHeld, s.mem)

theorem setCtx_held (c : Nat) (x : Ctx) (s : State) : Keeps heldViewOf s (setCtx c x s) := rfl

theorem interrupts_held (c v w : Nat) (s : State) : Keeps heldViewOf s (interruptPf w (interruptCtx c v s)) := rfl

theorem recordFault_held (c : Nat) (f : FaultRec) (s : State) : Keeps heldViewOf s (recordFault c f s) := by
  unfold recordFault
  exact Keeps.branch (setCtx_held ..) ((interrupts_held ..).after (setCtx_held ..))

/-- The report of a fault leaves the accesses that are held, and memory (R356). -/
theorem reportFault_held (c va : Nat) (k : AccKind) (src pkg : Nat) (paged : Bool) (s : State) :
    Keeps heldViewOf s (reportFault c va k src pkg paged s) := by
  unfold reportFault
  exact Keeps.branch (Keeps.refl s) (Keeps.branch (setCtx_held ..) (recordFault_held ..))

theorem hostPlainWrite_absent (s s1 : State) (fn : HostFn) (off c va : Nat) (p : Bool) (bytes : List Byte) (ne : bytes ≠ [])
    (within : off % 65536 + bytes.length ≤ 65536) (place : hostPlace fn off bytes.length .wr s = (.absent c va p, s1)) :
    ∃ t, exec (.hostPlainWrite fn off bytes) s = .next t ∧ (c, va, .hostPlainWrite fn off bytes) ∈ t.hostHeld ∧ t.mem = s1.mem := by
  have run : exec (.hostPlainWrite fn off bytes) s = .next (holdHost (.hostPlainWrite fn off bytes) c va .wr p s1) := by
    show hostWrite (.hostPlainWrite fn off bytes) fn off bytes s = _
    unfold hostWrite
    rw [hostPieces_hostMax off _ (List.length_pos_iff.2 ne) within, hostPlaces_single_absent place]
  have view := reportFault_held c va .wr 3 0 p { s1 with hostHeld := s1.hostHeld ++ [(c, va, .hostPlainWrite fn off bytes)] }
  have held : (holdHost (.hostPlainWrite fn off bytes) c va .wr p s1).hostHeld = s1.hostHeld ++ [(c, va, .hostPlainWrite fn off bytes)] :=
    congrArg (·.1) view
  refine ⟨_, run, ?_, congrArg (·.2) view⟩
  rw [held]
  simp

/-! ### Fills (R280, R324, R370) -/

theorem fillWords_aligned (off : Nat) (h : off % 8 = 0) : fillWords off 8 = [off] := by
  have first : (off + 7) / 8 = off / 8 := by omega
  have back : 8 * (off / 8) = off := by omega
  simp [fillWords, first, back]

/-- An aligned word of a fill, at its place. -/
theorem hostFillWrite_word {s : State} {off pa va : Nat} {bytes : List Byte} (aligned : off % 8 = 0) (eight : bytes.length = 8)
    (free : heldWrite s = none) (place : hostPlace .physical off 8 .feWrite s = (.at none va (.dev pa), s)) :
    exec (.hostFillWrite .physical off bytes) s = .next (hostFill none va pa (dw (natLE bytes)) s) := by
  have places : fillPlaces .physical off bytes s = (.all [(off, 8, none, va, .dev pa)], s) := by
    rw [fillPlaces, eight, fillWords_aligned off aligned]
    exact hostPlaces_single_at place
  have all : bytes.take 8 = bytes := List.take_of_length_le (by omega)
  show hostFillsOf (.hostFillWrite .physical off bytes) .physical off bytes s = _
  unfold hostFillsOf
  rw [free]
  simp only [eight, fillWords_aligned off aligned, List.length_singleton, if_true, places, hostFillAll, Nat.sub_self, List.drop_zero, all]

theorem toNat_dw_natLE {bytes : List Byte} (eight : bytes.length = 8) : (dw (natLE bytes)).toNat = natLE bytes := by
  have small := natLE_lt bytes
  rw [eight] at small
  rw [dw, BitVec.toNat_ofNat]
  omega

theorem hostFillWrite_empty (s : State) (off pa va : Nat) (bytes : List Byte) (aligned : off % 8 = 0) (eight : bytes.length = 8)
    (free : heldWrite s = none) (place : hostPlace .physical off 8 .feWrite s = (.at none va (.dev pa), s))
    (clean : isPoisoned s 0 (.dev pa) 8 = false) (empty : readFe s 0 (.dev pa) = false) :
    ∃ t, exec (.hostFillWrite .physical off bytes) s = .next t ∧ t = { s with mem := t.mem, fe := t.fe } ∧
      readFe t 0 (.dev pa) = true ∧ (∀ j < 8, readByte t 0 (.dev pa) j = bytes.getD j 0) ∧
      ∀ a, (a < pa ∨ pa + 8 ≤ a) → readByte t 0 (.dev a) 0 = readByte s 0 (.dev a) 0 := by
  have run := hostFillWrite_word aligned eight free place
  have back : bytesLE 8 (dw (natLE bytes)).toNat = bytes := by
    rw [toNat_dw_natLE eight, ← eight]
    exact bytesLE_natLE bytes
  have fill : hostFill none va pa (dw (natLE bytes)) s = writeFe 0 (.dev pa) true (writeList 0 (.dev pa) bytes s) := by
    simp only [hostFill, clean, empty, Bool.false_eq_true, if_false, writeBytes, back]
  rw [fill] at run
  refine ⟨_, run, rfl, ?_, fun j hj => readByte_writeList_inside s 0 pa j bytes (by omega),
    fun a ha => readByte_writeList_outside s 0 pa a bytes (by omega)⟩
  simp [readFe, writeFe]

theorem hostFillWrite_full (s : State) (off pa va : Nat) (bytes : List Byte) (aligned : off % 8 = 0) (eight : bytes.length = 8)
    (free : heldWrite s = none) (place : hostPlace .physical off 8 .feWrite s = (.at none va (.dev pa), s))
    (clean : isPoisoned s 0 (.dev pa) 8 = false) (full : readFe s 0 (.dev pa) = true) :
    ∃ t f, exec (.hostFillWrite .physical off bytes) s = .next t ∧ t = { s with fills := s.fills ++ [f] } ∧
      f.ctx = none ∧ f.pa = pa ∧ f.val.toNat = natLE bytes ∧ f.since = s.time := by
  have run := hostFillWrite_word aligned eight free place
  simp only [hostFill, clean, full, Bool.false_eq_true, if_false, if_true] at run
  exact ⟨_, _, run, rfl, rfl, rfl, toNat_dw_natLE eight, rfl⟩

theorem hostFillWrite_behind (s : State) (fn : HostFn) (off c va : Nat) (bytes : List Byte) (held : heldWrite s = some (c, va)) :
    exec (.hostFillWrite fn off bytes) s = .next { s with hostHeld := s.hostHeld ++ [(c, va, .hostFillWrite fn off bytes)] } := by
  show hostFillsOf (.hostFillWrite fn off bytes) fn off bytes s = _
  unfold hostFillsOf
  rw [held]

/-! ### Reads (R280, R369) -/

theorem hostRead_at (s s1 : State) (fn : HostFn) (off n va : Nat) (c : Option Nat) (loc : Loc) (pos : 0 < n)
    (within : off % 65536 + n ≤ 65536) (place : hostPlace fn off n .rd s = (.at c va loc, s1)) :
    exec (.hostRead fn false off n) s =
      .next { s1 with out := s1.out ++ [.hostData off ((List.range n).map (fun k => readByte s1 0 loc k))] } := by
  show hostReadOf (.hostRead fn false off n) fn false off n s = _
  unfold hostReadOf
  rw [hostPieces_hostMax off n pos within, hostPlaces_single_at place]
  simp [emit]

theorem hostRead_dark (s : State) (c off n : Nat) (dark : s.fw.running = false) :
    exec (.hostRead (.virtual c) true off n) s = .next { s with out := s.out ++ [.unsupported off] } := by
  show hostReadOf (.hostRead (.virtual c) true off n) (.virtual c) true off n s = _
  unfold hostReadOf
  simp only [dark]
  rfl

/-- Nothing lies beyond half of BAR2 (R369). -/
theorem hostPlace_beyond (s : State) (fn : HostFn) (off n : Nat) (k : AccKind) (h : barHalf s fn < off + n) :
    hostPlace fn off n k s = (.none, s) := if_pos h

/-! ### AtomicOps (R370) -/

/-- What an AtomicOp of the host leaves in a word of z bytes that holds m. -/
def hostAtomNew (op : HostAtom) (z m : Nat) (val cmp : DWord) : Nat :=
  match op with
  | .fetchAdd => (m + val.toNat) % 2 ^ (8 * z)
  | .swap => val.toNat % 2 ^ (8 * z)
  | .cas => if m = cmp.toNat % 2 ^ (8 * z) then val.toNat % 2 ^ (8 * z) else m

theorem hostAtomNew_lt (op : HostAtom) (z m : Nat) (val cmp : DWord) (h : m < 2 ^ (8 * z)) : hostAtomNew op z m val cmp < 2 ^ (8 * z) := by
  have pos : 0 < 2 ^ (8 * z) := Nat.two_pow_pos _
  cases op with
  | fetchAdd => exact Nat.mod_lt _ pos
  | swap => exact Nat.mod_lt _ pos
  | cas =>
    unfold hostAtomNew
    dsimp only
    split
    · exact Nat.mod_lt _ pos
    · exact h

theorem hostAtomicop_at (s s1 : State) (fn : HostFn) (op : HostAtom) (z off va pa : Nat) (c : Option Nat) (val cmp : DWord)
    (hz : z = 4 ∨ z = 8) (aligned : off % z = 0) (place : hostPlace fn off z .at s = (.at c va (.dev pa), s1))
    (clean : isPoisoned s1 0 (.dev pa) z = false) :
    ∃ t, exec (.hostAtomicop fn false op z off val cmp) s = .next t ∧ t = { s1 with mem := t.mem, out := t.out } ∧
      t.out = s1.out ++ [.hostData off (bytesLE z (readBytes s1 0 (.dev pa) z))] ∧
      readBytes t 0 (.dev pa) z = hostAtomNew op z (readBytes s1 0 (.dev pa) z) val cmp ∧
      ∀ a, (a < pa ∨ pa + z ≤ a) → readByte t 0 (.dev a) 0 = readByte s1 0 (.dev a) 0 := by
  have fits : (false || !(z == 4 || z == 8) || off % z != 0) = false := by
    obtain rfl | rfl := hz <;> simp [aligned]
  have run : exec (.hostAtomicop fn false op z off val cmp) s =
      .next (emit (.hostData off (bytesLE z (readBytes s1 0 (.dev pa) z)))
        (writeBytes 0 (.dev pa) z (hostAtomNew op z (readBytes s1 0 (.dev pa) z) val cmp) s1)) := by
    show hostAtomic (.hostAtomicop fn false op z off val cmp) fn false op z off val cmp s = _
    unfold hostAtomic
    rw [fits, place]
    simp only [Loc.isHost, clean]
    rfl
  refine ⟨_, run, rfl, rfl, ?_, fun a ha => readByte_writeList_outside s1 0 pa a _ (by rwa [bytesLE_length])⟩
  have read : readBytes (writeBytes 0 (.dev pa) z (hostAtomNew op z (readBytes s1 0 (.dev pa) z) val cmp) s1) 0 (.dev pa) z = _ :=
    readBytes_writeBytes s1 0 0 (.dev pa) z _ (.inl ⟨pa, rfl⟩)
  rw [Nat.mod_eq_of_lt (hostAtomNew_lt op z _ val cmp (readBytes_lt s1 0 (.dev pa) z))] at read
  exact read

theorem hostAtomicop_fillAlias (s : State) (fn : HostFn) (op : HostAtom) (z off : Nat) (val cmp : DWord) :
    exec (.hostAtomicop fn true op z off val cmp) s = .next { s with out := s.out ++ [.unsupported off] } := rfl

end Sys2Proof.Machine
end

section
/-! O46, the registers that the host and the steward write, and the proof of O46 (R13, R61 to R63, R336, R369, R423, R428). -/

namespace Sys2Proof.Machine

open Sys2Proof.Safety

/-! ### Register writes (R13, R336, R369, R423) -/

theorem fieldD_low_byte (v : DWord) : fieldD v 0 8 = v.toNat % 256 := by
  simp [fieldD, bits]

theorem stewardWrite_rampUp (s : State) (v : DWord) :
    exec (.registerWrite true (.sr 0x8010) v) s = .next { s with rampUp := BitVec.ofNat 8 (min 92 (max 1 (v.toNat % 256))) } := by
  rw [← fieldD_low_byte]
  rfl

theorem stewardWrite_rampDn (s : State) (v : DWord) :
    exec (.registerWrite true (.sr 0x8011) v) s = .next { s with rampDn := BitVec.ofNat 8 (min 92 (max 1 (v.toNat % 256))) } := by
  rw [← fieldD_low_byte]
  rfl

theorem resize_bars (s : State) (st : Bool) (fn : HostFn) (lg : Nat) (v : DWord) (lo : 30 ≤ lg) (hi : lg ≤ 40) :
    exec (.registerWrite st (.resize fn lg) v) s = .next { s with bars := Sparse.set 0 s.bars (bar2Key fn) lg } := by
  have legal : (decide (30 ≤ lg) && decide (lg ≤ 40)) = true := by simp [lo, hi]
  exact congrArg Host.Outcome.next (if_pos (by simpa using legal))

/-- A write of a word of the window for a recovery image (R428). -/
theorem bar0Write_window (s : State) (st : Bool) (k : Nat) (v : DWord) (idle : s.fw.running = false) (h : k < 0x400000) :
    bar0Write st (0x2000000 + 8 * k) v s = { s with fw := { s.fw with window := Sparse.set 0 s.fw.window k v } } := by
  have base : ¬ 0x2000000 + 8 * k = 0x48 := by omega
  have mgmt : ¬ 0x2000000 + 8 * k = 0x40 := by omega
  have inside : inWindow (0x2000000 + 8 * k) = true := by simp [inWindow]; omega
  have word : windowWord (0x2000000 + 8 * k) = k := by unfold windowWord; omega
  have aligned : (0x2000000 + 8 * k) % 8 = 0 := by omega
  unfold bar0Write
  rw [if_neg base, if_neg (by simp [mgmt]), if_pos inside, idle, aligned, word]
  rfl

theorem registerWrite_window (s : State) (st : Bool) (k : Nat) (v : DWord) (idle : s.fw.running = false) (h : k < 0x400000) :
    ∃ t, exec (.registerWrite st (.bar0 (0x2000000 + 8 * k)) v) s = .next t ∧ t = { s with fw := t.fw } ∧ Sparse.get 0 t.fw.window k = v ∧
      ∀ j, j ≠ k → Sparse.get 0 t.fw.window j = Sparse.get 0 s.fw.window j := by
  have run : exec (.registerWrite st (.bar0 (0x2000000 + 8 * k)) v) s =
      .next { s with fw := { s.fw with window := Sparse.set 0 s.fw.window k v } } :=
    congrArg Host.Outcome.next (bar0Write_window s st k v idle h)
  exact ⟨_, run, rfl, by simp, fun j hj => by simp [hj]⟩

/-- The power limit of the ordering code 1 is from 2000 to 4200 (R423, R424). -/
theorem registerWrite_plim (s : State) (v : DWord) (code : s.code = 1) :
    ∃ t, exec (.registerWrite true (.bar0 0x610000) v) s = .next t ∧
      t = { s with power := { s.power with plim := t.power.plim } } ∧ 2000 ≤ t.power.plim.toNat ∧ t.power.plim.toNat ≤ 4200 := by
  have top : plimMax s = 4200 := by simp [plimMax, code]
  have run : exec (.registerWrite true (.bar0 0x610000) v) s =
      .next { s with power := { s.power with plim := BitVec.ofNat 16 (min (plimMax s) (max 2000 (fieldD v 0 16))) } } := rfl
  have value : (BitVec.ofNat 16 (min (plimMax s) (max 2000 (fieldD v 0 16)))).toNat = min 4200 (max 2000 (fieldD v 0 16)) := by
    rw [BitVec.toNat_ofNat, top]
    omega
  refine ⟨_, run, rfl, ?_, ?_⟩
  · show 2000 ≤ (BitVec.ofNat 16 (min (plimMax s) (max 2000 (fieldD v 0 16)))).toNat
    rw [value]
    omega
  · show (BitVec.ofNat 16 (min (plimMax s) (max 2000 (fieldD v 0 16)))).toNat ≤ 4200
    rw [value]
    omega

/-! ### The format-window service (R61 to R63) -/

theorem registerWrite_serve (s : State) (n c : Nat) (rcd v : DWord) (running : s.fw.running = true) (h : n < 8) :
    exec (.registerWrite true (.window n c rcd) v) s = .next (serveWindow n c rcd s) :=
  congrArg Host.Outcome.next (if_pos (by simp [running, h]))

theorem serveWindow_legal (s : State) (n c d k : Nat) (rcd : DWord) (bs : List Byte) (got : frontBytes s c rcd 64 = .ok bs)
    (aligned : rcd.toNat % 64 = 0) (legal : tensorLegal bs = true) (scaled : (tensorOf bs).format = 7)
    (data : devicePa s c (tensorOf bs).data = some d) (scales : devicePa s c (tensorOf bs).scales = some k) :
    serveWindow n c rcd s = setWindow n (0x8000000000000000 ||| (dw d &&& 0x000FFFFFFFFFF000))
      (dw (d + ((tensorOf bs).rows - 1) * (tensorOf bs).pitch + 4 * (((tensorOf bs).cols + 7) / 8) - 1) &&& 0x000FFFFFFFFFF000)
      (dw k &&& 0x000FFFFFFFFFFC00) s := by
  unfold serveWindow
  simp only [got, aligned, legal, scaled, data, scales]
  rfl

theorem serveWindow_illegal (s : State) (n c : Nat) (rcd : DWord) (bs : List Byte) (got : frontBytes s c rcd 64 = .ok bs)
    (illegal : tensorLegal bs = false) : serveWindow n c rcd s = { s with out := s.out ++ [.badTensorHeader c rcd] } := by
  unfold serveWindow
  simp only [got, illegal]
  exact if_pos (by simp)

/-- The registers of a format window are three different ones (R63). -/
theorem setWindow_get (n : Nat) (base limit scale : DWord) (s : State) :
    Sparse.get 0 (setWindow n base limit scale s).fwin n = base ∧ Sparse.get 0 (setWindow n base limit scale s).fwin (8 + n) = limit ∧
      Sparse.get 0 (setWindow n base limit scale s).fwin (16 + n) = scale := by
  simp [setWindow]

theorem registerWrite_service (s : State) (n c d k : Nat) (rcd v : DWord) (bs : List Byte) (running : s.fw.running = true) (hn : n < 8)
    (got : frontBytes s c rcd 64 = .ok bs) (aligned : rcd.toNat % 64 = 0) :
    (tensorLegal bs = true → (tensorOf bs).format = 7 → devicePa s c (tensorOf bs).data = some d →
      devicePa s c (tensorOf bs).scales = some k →
      ∃ t, exec (.registerWrite true (.window n c rcd) v) s = .next t ∧ t = { s with fwin := t.fwin } ∧
        Sparse.get 0 t.fwin n = 0x8000000000000000 ||| (dw d &&& 0x000FFFFFFFFFF000) ∧
        Sparse.get 0 t.fwin (8 + n) = dw (d + ((tensorOf bs).rows - 1) * (tensorOf bs).pitch + 4 * (((tensorOf bs).cols + 7) / 8) - 1) &&&
          0x000FFFFFFFFFF000 ∧
        Sparse.get 0 t.fwin (16 + n) = dw k &&& 0x000FFFFFFFFFFC00) ∧
    (tensorLegal bs = false → exec (.registerWrite true (.window n c rcd) v) s = .next { s with out := s.out ++ [.badTensorHeader c rcd] }) := by
  have run := registerWrite_serve s n c rcd v running hn
  constructor
  · intro legal scaled data scales
    rw [serveWindow_legal s n c d k rcd bs got aligned legal scaled data scales] at run
    exact ⟨_, run, rfl, setWindow_get n _ _ _ s⟩
  · intro illegal
    rw [run, serveWindow_illegal s n c rcd bs got illegal]

/-! ### O46 -/

/-- Settles O46, clause by clause: an answer of the host to an AtomicOp of a lane (R154, R176), the host's accesses (R280, R324, R369, R370),
and the registers that the host and the steward write (R13, R61 to R63, R336, R369, R423, R428). -/
theorem hostLink : Obligations.HostLink := by
  unfold Obligations.HostLink
  refine ⟨?_, ⟨hostPlainWrite_at, ?_, ?_, hostFillWrite_behind, hostRead_at, fun _ _ _ => rfl, hostRead_dark, hostPlace_beyond, ?_,
    hostAtomicop_fillAlias⟩, fun _ _ => rfl, stewardWrite_rampUp, stewardWrite_rampDn, fun _ _ _ => rfl, fun _ _ _ => rfl, fun _ _ => rfl,
    resize_bars, registerWrite_window, registerWrite_service, registerWrite_plim⟩
  · intro s k ha v o l op port h kind hl done held loc now hw hi hx here hc hr hp hd hz hv
    obtain ⟨live, -, -⟩ := port
    have lane := hostLane_sole hl done held loc
    exact ⟨hostAtomic_supported s k ha v o l op live h kind hl lane loc now hw hi hx hc hr hp hd hz hv,
      hostAtomic_unsupported s k ha o l op live h kind hl lane loc now here⟩
  · intro s s1 fn off bytes ne within
    exact ⟨hostPlainWrite_none s s1 fn off bytes ne within, fun c va p => hostPlainWrite_absent s s1 fn off c va p bytes ne within⟩
  · intro s off pa va bytes aligned eight free place clean
    exact ⟨hostFillWrite_empty s off pa va bytes aligned eight free place clean,
      hostFillWrite_full s off pa va bytes aligned eight free place clean⟩
  · intro s s1 fn op z off va pa v c val cmp hz aligned place clean hv
    subst hv
    exact hostAtomicop_at s s1 fn op z off va pa c val cmp hz aligned place clean

end Sys2Proof.Machine
end

section
/-! O29 fails: an operation of no byte writes a register all the same (R159). -/

namespace Sys2Proof.Machine

/-- A load of no byte: `OneLane` bounds neither end of the number of bytes. -/
def emptyLoad : MemOp :=
  { id := 5, kind := .load, z := 0, d := 4, ret := true, pred := none, uni := true, ctr := .l, scope := 0, hint := 0, ty := 1, round := 0,
    spins := 0, limit := 0, again := false, via := false, ending := none,
    lanes := [{ lane := 0, va := 0, loc := .scr false 0, data := 0, data2 := 0, held := false, done := false, ret := 0 }] }

/-- A group at the issue port with 7 in register 4, to which its one outstanding operation, `emptyLoad`, returns. -/
def emptyLoadState : State :=
  { State.reset with cur := { Group.vacant with live := true, id := 1, regs := [(4, .u 7)], cntL := 1, outs := [emptyLoad] } }

theorem emptyLoad_oneLane : ∃ l, OneLane emptyLoadState 5 emptyLoad l := by
  refine ⟨_, ?_, ?_, ?_, ?_, rfl, ?_⟩ <;> decide +kernel

/-- The return of `emptyLoad` clears register 4. -/
theorem emptyLoad_return : ∃ t, exec (.loadReturn 1 5) emptyLoadState = .next t ∧ readReg t.cur 4 ≠ readReg emptyLoadState.cur 4 := by
  refine ⟨_, rfl, ?_⟩
  decide +kernel

/-- Refutes O29: a load of no byte answers one word, as every load of less than a word does (`loadWords`), so its return writes the register
d, though the span of no byte, from d to d, holds no register. `OneLane` does not ask that the operation has a byte. -/
theorem not_loadsAndStoresPerform : ¬ Obligations.LoadsAndStoresPerform := by
  unfold Obligations.LoadsAndStoresPerform
  rintro ⟨load, -⟩
  obtain ⟨l, one⟩ := emptyLoad_oneLane
  obtain ⟨t, run, -, -, -, kept, -⟩ := load emptyLoadState 5 emptyLoad l one (.inl rfl) rfl rfl rfl (by decide)
  obtain ⟨t', run', changed⟩ := emptyLoad_return
  obtain rfl : t = t' := Host.Outcome.next.inj (run.symm.trans run')
  exact changed (kept 4 (.inr (by decide)))

end Sys2Proof.Machine
end

section
/-! What an instruction that writes registers leaves (R25 to R27, R45): the merge of each register of its destination, the frame of the writes, and
the registers that may trap SHAPE. One lemma for every instruction that ends in `writeBack`. -/

namespace Sys2Proof.Machine

open Sys2Proof.Safety

/-! ### The merge of one register -/

/-- The merge of a register depends on the width of the group and on its exited lanes only. -/
theorem mergeReg_congr {g h : Group} (k : Keeps standingOf g h) : mergeReg h = mergeReg g := by
  have lgw : h.lgw = g.lgw := congrArg (·.2.1.1) k
  have exited : h.exited = g.exited := congrArg (·.2.1.2) k
  unfold mergeReg mergeLanes residentLanes width
  rw [lgw, exited]

/-- A U value that the whole group writes, or no lane of it, makes no register G (R25, R26). -/
theorem mergeReg_isG_of_whole {g : Group} {en : Mask} {old new : RegVal} (ho : old.isG = false) (hn : new.isU = true)
    (whole : en = 0 ∨ en = residentLanes g) : (mergeReg g en old new).isG = false := by
  cases new with
  | u v =>
    unfold mergeReg
    by_cases h : en = 0
    · rw [if_pos h]; exact ho
    · rw [if_neg h, if_pos (whole.resolve_left h)]; rfl
  | a b s => cases hn
  | g ls => cases hn

/-! ### Writes of several registers -/

/-- Registers that are written at different numbers: each one is merged with what it held before. -/
theorem readReg_writeRegs_mem (en : Mask) (w : Nat × RegVal) (ws : List (Nat × RegVal)) (g : Group) (distinct : (ws.map (·.1)).Nodup)
    (hw : w ∈ ws) : readReg (writeRegs en ws g) w.1 = mergeReg g en (readReg g w.1) w.2 := by
  induction ws generalizing g with
  | nil => cases hw
  | cons x ws ih =>
    rw [List.map_cons, List.nodup_cons] at distinct
    obtain ⟨fresh, later⟩ := distinct
    have apart : ∀ y ∈ ws, y.1 ≠ x.1 := fun y hy e => fresh (e ▸ List.mem_map_of_mem hy)
    rw [show writeRegs en (x :: ws) g = writeRegs en ws (writeReg en x.1 x.2 g) from rfl]
    rcases List.mem_cons.1 hw with rfl | hw
    · rw [readReg_writeRegs_other en w.1 ws _ apart, readReg_writeReg, if_pos rfl]
    · rw [ih _ later hw, mergeReg_congr (writeReg_standing ..), readReg_writeReg, if_neg (apart w hw)]

/-- A group without its registers, their poison and its remote region. -/
def bareOf (g : Group) : Group := { g with regs := [], rpoison := [], region := none }

theorem Keeps.bare_eq {g h : Group} (k : Keeps bareOf g h) : h = { g with regs := h.regs, rpoison := h.rpoison, region := h.region } :=
  congrArg (fun x : Group => { x with regs := h.regs, rpoison := h.rpoison, region := h.region }) k

theorem saveFirst_bare (r : Nat) (g : Group) : Keeps bareOf g (saveFirst r g) := by
  unfold saveFirst
  split
  · exact Keeps.branch rfl rfl
  · rfl

theorem writeReg_bare (en : Mask) (r : Nat) (v : RegVal) (g : Group) : Keeps bareOf g (writeReg en r v g) :=
  Keeps.update (t := if en = 0 then g else saveFirst r g) (Keeps.branch rfl (saveFirst_bare r g))

theorem writeRegs_bare (en : Mask) (ws : List (Nat × RegVal)) (g : Group) : Keeps bareOf g (writeRegs en ws g) :=
  Keeps.foldl (f := fun g w => writeReg en w.1 w.2 g) (fun g w => writeReg_bare en w.1 w.2 g) ws g

@[simp] theorem saveFirst_rpoison (r : Nat) (g : Group) : (saveFirst r g).rpoison = g.rpoison := by
  unfold saveFirst
  split
  · split <;> rfl
  · rfl

/-- Only the register that is written may lose poison (R395). -/
theorem rpoison_writeReg_other (en : Mask) {r q : Nat} (v : RegVal) (g : Group) (h : q ≠ r) :
    Sparse.get 0 (writeReg en r v g).rpoison q = Sparse.get 0 g.rpoison q := by
  unfold writeReg
  split <;> simp [h]

theorem rpoison_writeRegs_other (en : Mask) (q : Nat) (ws : List (Nat × RegVal)) (g : Group) (h : ∀ w ∈ ws, w.1 ≠ q) :
    Sparse.get 0 (writeRegs en ws g).rpoison q = Sparse.get 0 g.rpoison q := by
  induction ws generalizing g with
  | nil => rfl
  | cons w ws ih =>
    exact (ih (writeReg en w.1 w.2 g) (fun x hx => h x (List.mem_cons_of_mem w hx))).trans
      (rpoison_writeReg_other en w.2 g (h w List.mem_cons_self).symm)

/-- Where no remote region is open, a write opens none (R197). -/
theorem region_writeReg (en : Mask) (r : Nat) (v : RegVal) (g : Group) (h : g.region = none) : (writeReg en r v g).region = none := by
  have saved : saveFirst r g = g := by unfold saveFirst; rw [h]
  unfold writeReg
  rw [saved, ite_self]
  exact h

theorem region_writeRegs (en : Mask) (ws : List (Nat × RegVal)) (g : Group) (h : g.region = none) : (writeRegs en ws g).region = none := by
  induction ws generalizing g with
  | nil => exact h
  | cons w ws ih => exact ih _ (region_writeReg en w.1 w.2 g h)

/-! ### The writes of a destination (R45) -/

theorem mem_of_mem_destWrites {g : Group} {o : Opnd} {vs : List RegVal} {w : Nat × RegVal} (hw : w ∈ destWrites g o vs) : w.2 ∈ vs := by
  unfold destWrites at hw
  split at hw
  · cases hw
  · exact (List.of_mem_zip hw).2

/-- Result k goes to the k-th register of the destination. -/
theorem destWrites_getElem {g : Group} {o : Opnd} {vs : List RegVal} (code : o.code.toNat < 0xF0) {k : Nat} (hk : k < vs.length) :
    (effReg g o + k, vs[k]) ∈ destWrites g o vs := by
  unfold destWrites
  rw [if_neg (by omega), List.mem_iff_getElem]
  exact ⟨k, by simpa using hk, by simp⟩

section
variable {g : Group} {o : Opnd} {vs : List RegVal} (hl : vs.length = o.span)
include hl

theorem destWrites_fst : (destWrites g o vs).map (·.1) = destRegs g o := by
  unfold destWrites destRegs
  split
  · rfl
  · rw [← hl, List.map_fst_zip (by simp)]

theorem destWrites_nodup : ((destWrites g o vs).map (·.1)).Nodup := by
  rw [destWrites_fst hl]
  unfold destRegs
  split
  · exact List.nodup_nil
  · exact List.Pairwise.map _ (fun _ _ apart e => apart (Nat.add_left_cancel e)) List.nodup_range

theorem mem_destRegs_of_mem_destWrites {w : Nat × RegVal} (hw : w ∈ destWrites g o vs) : w.1 ∈ destRegs g o :=
  destWrites_fst hl ▸ List.mem_map_of_mem hw

end

/-! ### Narrow registers (R27) -/

theorem narrowFault_some {en : Mask} {g : Group} {ws : List (Nat × RegVal)} {r : Nat} (h : narrowFault en g ws = some r) :
    ∃ w ∈ ws, w.1 = r ∧ narrow g r = true := by
  obtain ⟨w, found, rfl⟩ := Option.map_eq_some_iff.1 h
  have fault := List.find?_some found
  rw [Bool.and_eq_true] at fault
  exact ⟨w, List.mem_of_find?_eq_some found, rfl, fault.1⟩

/-- No register traps where none is narrow, or where the results are U and the whole group writes them over values that are not G. -/
theorem narrowFault_of_narrowOk {s : State} {o : Opnd} {srcs vs : List RegVal} (hl : vs.length = o.span)
    (hu : srcs.all RegVal.isU = true → ∀ v ∈ vs, v.isU = true) (ok : NarrowOk s o srcs) :
    narrowFault (enabled s.cur) s.cur (destWrites s.cur o vs) = none := by
  refine Option.map_eq_none_iff.2 (List.find?_eq_none.2 fun w hw => ?_)
  rw [Bool.and_eq_true, not_and, Bool.not_eq_true]
  intro isNarrow
  rcases ok w.1 (mem_destRegs_of_mem_destWrites hl hw) with wide | ⟨old, uniform, whole⟩
  · rw [wide] at isNarrow; cases isNarrow
  · exact mergeReg_isG_of_whole old (hu uniform w.2 (mem_of_mem_destWrites hw)) whole

/-! ### Instructions that compute in every enabled lane -/

section
variable {s : State} {o : Opnd} {vs : List RegVal} (hl : vs.length = o.span)
include hl

theorem writeRegs_regsOnly (en : Mask) : RegsOnly s { s with cur := nextPc (writeRegs en (destWrites s.cur o vs) s.cur) } o := by
  refine ⟨?_, fun r hr => ?_, region_writeRegs en _ s.cur, fun tm l k => by cases l <;> rfl⟩
  · have bare := (writeRegs_bare en (destWrites s.cur o vs) s.cur).bare_eq
    exact congrArg (fun g : Group => { s with cur := nextPc g }) bare
  · have apart : ∀ w ∈ destWrites s.cur o vs, w.1 ≠ r := fun w hw e => hr (e ▸ mem_destRegs_of_mem_destWrites hl hw)
    exact ⟨readReg_writeRegs_other en r _ s.cur apart, rpoison_writeRegs_other en r _ s.cur apart⟩

theorem writeRegs_laneResult {f : Nat → Nat} (hv : ∀ k (hk : k < vs.length), ∀ l < width s.cur, vs[k].lane l = wd (f l / 2 ^ (32 * k))) :
    LaneResult s { s with cur := nextPc (writeRegs (enabled s.cur) (destWrites s.cur o vs) s.cur) } o f := by
  intro code k hk l hl128 hw hx
  rw [← hl] at hk
  have before : opLane s o k l = (readReg s.cur (effReg s.cur o + k)).lane l := by
    unfold opLane opWord
    rw [if_neg (by omega)]
  have after : opLane { s with cur := nextPc (writeRegs (enabled s.cur) (destWrites s.cur o vs) s.cur) } o k l =
      (readReg (writeRegs (enabled s.cur) (destWrites s.cur o vs) s.cur) (effReg s.cur o + k)).lane l := by
    unfold opLane opWord
    rw [if_neg (by omega), (writeRegs_bare (enabled s.cur) (destWrites s.cur o vs) s.cur).bare_eq]
    rfl
  rw [after, readReg_writeRegs_mem (enabled s.cur) _ _ s.cur (destWrites_nodup hl) (destWrites_getElem code hk),
    mergeReg_lane s.cur _ _ _ l hw hl128 hx, hv k hk l hw, before]

end

/-- An instruction that ends in the write of its results: word k of the destination receives bits [32k+31:32k] of f, and the results are U where
every source is. -/
theorem writesLanes_of_writeBack {i : Instr} {s : State} {o : Opnd} {srcs vs : List RegVal} {f : Nat → Nat} (hl : vs.length = o.span)
    (hu : srcs.all RegVal.isU = true → ∀ v ∈ vs, v.isU = true)
    (hv : ∀ k (hk : k < vs.length), ∀ l < width s.cur, vs[k].lane l = wd (f l / 2 ^ (32 * k)))
    (run : exec i s = writeBack (enabled s.cur) (destWrites s.cur o vs) s) : WritesLanes i s o srcs f := by
  have wrote := And.intro (writeRegs_regsOnly (s := s) hl (enabled s.cur)) (writeRegs_laneResult hl hv)
  rcases writeBack_cases (enabled s.cur) (destWrites s.cur o vs) s with ⟨r, fault, e⟩ | ⟨-, e⟩
  · obtain ⟨w, hw, rfl, isNarrow⟩ := narrowFault_some fault
    refine ⟨fun ok => ?_, _, run.trans e, .inr ⟨w.1, mem_destRegs_of_mem_destWrites hl hw, isNarrow, rfl⟩⟩
    rw [narrowFault_of_narrowOk hl hu ok] at fault
    cases fault
  · exact ⟨fun _ => ⟨_, run.trans e, wrote⟩, _, run.trans e, .inl wrote⟩

/-! ### Results by lane (R25) -/

theorem isU_resultOf {g : Group} {srcs : List RegVal} {f : Nat → Word} (h : srcs.all RegVal.isU = true) : (resultOf g srcs f).isU = true := by
  unfold resultOf
  rw [if_pos h]
  rfl

/-- The shape of a result never changes a value: a function of U sources is the same in every lane. -/
theorem resultOf_lane {g : Group} {srcs : List RegVal} {f : Nat → Word} (same : srcs.all RegVal.isU = true → ∀ l, f l = f 0) {l : Nat}
    (h : l < width g) : (resultOf g srcs f).lane l = f l := by
  unfold resultOf
  split
  · rename_i uniform
    exact (same uniform l).symm
  · simp [RegVal.lane, List.getD, h]

theorem laneResults_length (g : Group) (srcs : List RegVal) (n : Nat) (f : Nat → Nat) : (laneResults g srcs n f).length = n := by
  simp [laneResults]

theorem isU_laneResults {g : Group} {srcs : List RegVal} {n : Nat} {f : Nat → Nat} (h : srcs.all RegVal.isU = true) :
    ∀ v ∈ laneResults g srcs n f, v.isU = true := by
  intro v hv
  obtain ⟨k, -, rfl⟩ := List.mem_map.1 hv
  exact isU_resultOf h

theorem laneResults_lane {g : Group} {srcs : List RegVal} {n : Nat} {f : Nat → Nat} (same : srcs.all RegVal.isU = true → ∀ l, f l = f 0)
    {k : Nat} (hk : k < (laneResults g srcs n f).length) {l : Nat} (h : l < width g) :
    (laneResults g srcs n f)[k].lane l = wd (f l / 2 ^ (32 * k)) := by
  simp only [laneResults, List.getElem_map, List.getElem_range]
  exact resultOf_lane (fun uniform l => by rw [same uniform l]) h

/-- An instruction that writes a function of its sources, lane by lane. -/
theorem writesLanes_of_laneResults {i : Instr} {s : State} {o : Opnd} {srcs : List RegVal} {f : Nat → Nat}
    (same : srcs.all RegVal.isU = true → ∀ l, f l = f 0)
    (run : exec i s = writeBack (enabled s.cur) (destWrites s.cur o (laneResults s.cur srcs o.span f)) s) : WritesLanes i s o srcs f :=
  writesLanes_of_writeBack (laneResults_length ..) isU_laneResults (fun _ hk _ h => laneResults_lane same hk h) run

/-! ### Operands that are U -/

theorem lane_of_isU {v : RegVal} (h : v.isU = true) (l : Nat) : v.lane l = v.lane 0 := by
  cases v with
  | u a => rfl
  | a b s => cases h
  | g ls => cases h

section
variable {s : State} {o : Opnd} (h : (opWords s o).all RegVal.isU = true)
include h

theorem opLane_of_isU {k : Nat} (hk : k < o.span) (l : Nat) : opLane s o k l = opLane s o k 0 :=
  lane_of_isU (List.all_eq_true.1 h _ (List.mem_map.2 ⟨k, List.mem_range.2 hk, rfl⟩)) l

theorem opNat_of_isU (hs : o.span = 1 ∨ o.span = 2) (l : Nat) : opNat s o l = opNat s o 0 := by
  unfold opNat
  rw [opLane_of_isU h (by omega) l]
  split
  · rfl
  · rw [opLane_of_isU h (by omega) l]

theorem map_opLane_of_isU {β : Type} (f : Word → β) (l : Nat) :
    (List.range o.span).map (fun k => f (opLane s o k l)) = (List.range o.span).map (fun k => f (opLane s o k 0)) :=
  List.map_congr_left fun _ hk => congrArg f (opLane_of_isU h (List.mem_range.1 hk) l)

theorem opAll_of_isU (l : Nat) : opAll s o l = opAll s o 0 :=
  congrArg (packEls 32) (map_opLane_of_isU h BitVec.toNat l)

end

/-- An instruction that no check stops, and that closes no region of R397, runs its own meaning in the state as it stands. -/
theorem issue_of_clean {i : Instr} {s : State} {body : State → Result} (clean : Clean i s) (opens : closesIdem i = false) :
    issue i body s = body s := by
  rw [issue_clean i body s clean.1 clean.2, enterInstr_of_open i s opens]

end Sys2Proof.Machine
end

section
/-! O15: CVT, DOT4, QNT8 and DQN8 (R143 to R147). Each writes a function of the lane's values of its sources. -/

namespace Sys2Proof.Machine

open Sys2Proof.Safety

/-! ### The meanings of the four -/

theorem exec_cvt (d a x : RegCode) (s : State) : exec (.cvt d a x) s = execCvt d a x s := rfl
theorem exec_dot4 (d a b : RegCode) (s : State) : exec (.dot4 d a b) s = execDot4 d a b s := rfl
theorem exec_qnt8 (d a b : RegCode) (s : State) : exec (.qnt8 d a b) s = execQnt8 d a b s := rfl
theorem exec_dqn8 (d a b : RegCode) (s : State) : exec (.dqn8 d a b) s = execDqn8 d a b s := rfl

/-! ### O15 -/

theorem cvt_writesLanes (d a x : RegCode) (s : State) (clean : Clean (.cvt d a x) s) :
    WritesLanes (.cvt d a x) s (cvtDst (gmType s.cur) x.toNat d) (opWords s (cvtSrc (gmType s.cur) x.toNat a))
      (fun l => cvtLane (gmType s.cur) x.toNat (gmRound s.cur) (gmSat s.cur) (opAll s (cvtSrc (gmType s.cur) x.toNat a) l)) := by
  refine writesLanes_of_laneResults (fun uniform l => ?_) (by rw [exec_cvt, execCvt, issue_of_clean clean rfl])
  rw [opAll_of_isU uniform l]

theorem dot4_writesLanes (d a b : RegCode) (s : State) (clean : Clean (.dot4 d a b) s) :
    WritesLanes (.dot4 d a b) s (wrOp d) (opWords s (rdOp 1 a) ++ opWords s (rdOp 2 b) ++ opWords s (rwOp d))
      (fun l => dotLane (gmType s.cur) (gmRound s.cur) (gmSat s.cur) (opNat s (rdOp 1 a) l) (opNat s (rdOp 2 b) l)
        (opNat s (rwOp d) l)) := by
  refine writesLanes_of_laneResults (fun uniform l => ?_) (by rw [exec_dot4, execDot4, issue_of_clean clean rfl]; rfl)
  rw [List.all_append, List.all_append, Bool.and_eq_true, Bool.and_eq_true] at uniform
  obtain ⟨⟨ha, hb⟩, hd⟩ := uniform
  rw [opNat_of_isU ha (.inl rfl) l, opNat_of_isU hb (.inl rfl) l, opNat_of_isU hd (.inl rfl) l]

theorem qnt8_writesLanes (d a b : RegCode) (s : State) (clean : Clean (.qnt8 d a b) s) :
    WritesLanes (.qnt8 d a b) s ((wrOp d).many 2 false) (opWords s ((rdOp 1 a).many 8 false) ++ opWords s (rdOp 2 b))
      (fun l =>
        let r := quantise8 ((List.range 8).map (fun k => (opLane s ((rdOp 1 a).many 8 false) k l).toNat)) (opLane s (rdOp 2 b) 0 l).toNat
        r.1 + 2 ^ 32 * r.2) := by
  refine writesLanes_of_laneResults (fun uniform l => ?_) (by rw [exec_qnt8, execQnt8, issue_of_clean clean rfl]; rfl)
  rw [List.all_append, Bool.and_eq_true] at uniform
  obtain ⟨ha, hb⟩ := uniform
  have values : (List.range 8).map (fun k => (opLane s ((rdOp 1 a).many 8 false) k l).toNat) =
      (List.range 8).map (fun k => (opLane s ((rdOp 1 a).many 8 false) k 0).toNat) := map_opLane_of_isU ha BitVec.toNat l
  rw [values, opLane_of_isU hb Nat.one_pos l]

theorem dqn8_writesLanes (d a b : RegCode) (s : State) (clean : Clean (.dqn8 d a b) s) :
    WritesLanes (.dqn8 d a b) s ((wrOp d).many 8 false) (opWords s ((rdOp 1 a).many 2 false) ++ opWords s (rdOp 2 b))
      (fun l => packEls 32 ((List.range 8).map (fun e =>
        dequantEl ((opLane s ((rdOp 1 a).many 2 false) 1 l).toNat % 256) (opLane s (rdOp 2 b) 0 l).toNat
          (bits (opLane s ((rdOp 1 a).many 2 false) 0 l).toNat (4 * e) 4)))) := by
  refine writesLanes_of_laneResults (fun uniform l => ?_) (by rw [exec_dqn8, execDqn8, issue_of_clean clean rfl]; rfl)
  rw [List.all_append, Bool.and_eq_true] at uniform
  obtain ⟨ha, hb⟩ := uniform
  rw [opLane_of_isU ha Nat.two_pos l, opLane_of_isU ha Nat.one_lt_two l, opLane_of_isU hb Nat.one_pos l]

/-- Settles O15: the results of each of the four are U where its sources are, since the lane's value is then the same in every lane (R25), and the
write of results does the rest. -/
theorem conversions : Obligations.Conversions := by
  unfold Obligations.Conversions
  exact ⟨cvt_writesLanes, dot4_writesLanes, qnt8_writesLanes, dqn8_writesLanes⟩

end Sys2Proof.Machine
end

section
/-! O14: the floating-point instructions (R135 to R142). Those of two or three sources are one element-wise operation, `floatThree`, and those of one
source another, `floatUnary`; FSCL reads its exponent from a single register. -/

namespace Sys2Proof.Machine

open Sys2Proof.Safety

/-! ### Operands of the GM type -/

theorem tyOp_span (g : Group) (o : Opnd) (single : o.span = 1) : (tyOp g o).span = tyRegs (gmType g) := by
  unfold tyOp Opnd.pair tyRegs
  split
  · rfl
  · exact single

/-- An operand of the GM type is a register or a pair, so that a lane of it is the same number in every lane where its words are U. -/
theorem opNat_tyOp_of_isU {s : State} {o : Opnd} (single : o.span = 1) (h : (opWords s (tyOp s.cur o)).all RegVal.isU = true) (l : Nat) :
    opNat s (tyOp s.cur o) l = opNat s (tyOp s.cur o) 0 := by
  refine opNat_of_isU h ?_ l
  rw [tyOp_span _ _ single, tyRegs]
  split
  · exact .inr rfl
  · exact .inl rfl

/-- An element operation that does not read its third value gives the same for any. -/
theorem mapElems_third {ty : Nat} {f : Nat → Nat → Nat → Nat} (unread : ∀ x y z z', f x y z = f x y z') (x y z z' : Nat) :
    mapElems ty f x y z = mapElems ty f x y z' :=
  congrArg (packEls _) (List.map_congr_left fun _ _ => unread ..)

/-! ### What each instruction runs -/

/-- Whether d is read too does not change the registers that it names. -/
theorem floatThree_rwOp (i : Instr) (d : RegCode) (oa ob : Opnd) (useD : Bool) (f : Fmt → Nat → Nat → Nat → Nat → Nat) (s : State) :
    floatThree i (tyOp s.cur (rwOp d)) oa ob useD f s = floatThree i (tyOp s.cur (wrOp d)) oa ob useD f s := by
  unfold tyOp Opnd.pair
  split <;> rfl

theorem exec_fma (d a b : RegCode) (s : State) : exec (.fma d a b) s = execFma d a b s := rfl
theorem exec_fms (d a b : RegCode) (s : State) : exec (.fms d a b) s = execFms d a b s := rfl
theorem exec_fscl (d a b : RegCode) (s : State) : exec (.fscl d a b) s = execFscl d a b s := rfl

theorem exec_of_mem_floatThrees : ∀ p ∈ floatThrees, ∀ (d a b : RegCode) (s : State),
    exec (p.1 d a b) s =
      floatThree (p.1 d a b) (tyOp s.cur (wrOp d)) (tyOp s.cur (rdOp 1 a)) (tyOp s.cur (rdOp 2 b)) p.2.1 p.2.2 s := by
  simp only [floatThrees, List.forall_mem_cons]
  exact ⟨fun _ _ _ _ => rfl, fun _ _ _ _ => rfl, fun _ _ _ _ => rfl,
    fun d a b s => (exec_fma d a b s).trans (floatThree_rwOp ..), fun d a b s => (exec_fms d a b s).trans (floatThree_rwOp ..),
    fun _ _ _ _ => rfl, fun _ _ _ _ => rfl, fun _ _ _ _ => rfl, nofun⟩

/-- The instructions that do not read d compute the same whatever it holds (R137, R138). -/
theorem unread_of_mem_floatThrees : ∀ p ∈ floatThrees, p.2.1 = false → ∀ f m x y z z', p.2.2 f m x y z = p.2.2 f m x y z' := by
  simp [floatThrees]

theorem closesIdem_of_mem_floatThrees : ∀ p ∈ floatThrees, ∀ d a b : RegCode, closesIdem (p.1 d a b) = false := by
  simp only [floatThrees, List.forall_mem_cons]
  exact ⟨fun _ _ _ => rfl, fun _ _ _ => rfl, fun _ _ _ => rfl, fun _ _ _ => rfl, fun _ _ _ => rfl, fun _ _ _ => rfl,
    fun _ _ _ => rfl, fun _ _ _ => rfl, nofun⟩

theorem exec_of_mem_floatUnaries : ∀ p ∈ floatUnaries, ∀ (d a : RegCode) (s : State),
    exec (p.1 d a) s = floatUnary (p.1 d a) p.2 d a s := by
  simp only [floatUnaries, List.forall_mem_cons]
  exact ⟨fun _ _ _ => rfl, fun _ _ _ => rfl, fun _ _ _ => rfl, fun _ _ _ => rfl, fun _ _ _ => rfl, fun _ _ _ => rfl,
    fun _ _ _ => rfl, fun _ _ _ => rfl, fun _ _ _ => rfl, fun _ _ _ => rfl, fun _ _ _ => rfl, nofun⟩

theorem closesIdem_of_mem_floatUnaries : ∀ p ∈ floatUnaries, ∀ d a : RegCode, closesIdem (p.1 d a) = false := by
  simp only [floatUnaries, List.forall_mem_cons]
  exact ⟨fun _ _ => rfl, fun _ _ => rfl, fun _ _ => rfl, fun _ _ => rfl, fun _ _ => rfl, fun _ _ => rfl,
    fun _ _ => rfl, fun _ _ => rfl, fun _ _ => rfl, fun _ _ => rfl, fun _ _ => rfl, nofun⟩

/-! ### What it leaves -/

theorem floatThree_writesLanes {i : Instr} {od oa ob : Opnd} {useD : Bool} {f : Fmt → Nat → Nat → Nat → Nat → Nat} {s : State}
    (hd : od.span = 1) (ha : oa.span = 1) (hb : ob.span = 1) (clean : Clean i s) (opens : closesIdem i = false)
    (unread : useD = false → ∀ F m x y z z', f F m x y z = f F m x y z')
    (run : exec i s = floatThree i (tyOp s.cur od) (tyOp s.cur oa) (tyOp s.cur ob) useD f s) :
    WritesLanes i s (tyOp s.cur od)
      (opWords s (tyOp s.cur oa) ++ opWords s (tyOp s.cur ob) ++ (if useD then opWords s (tyOp s.cur od) else []))
      (fun l => mapElems (gmType s.cur) (f (fmtOf (gmType s.cur)) (gmRound s.cur))
        (opNat s (tyOp s.cur oa) l) (opNat s (tyOp s.cur ob) l) (opNat s (tyOp s.cur od) l)) := by
  refine writesLanes_of_laneResults (fun uniform l => ?_) (by rw [run, floatThree, issue_of_clean clean opens, tyOp_span _ _ hd])
  rw [List.all_append, List.all_append, Bool.and_eq_true, Bool.and_eq_true] at uniform
  obtain ⟨⟨ua, ub⟩, ud⟩ := uniform
  rw [opNat_tyOp_of_isU ha ua l, opNat_tyOp_of_isU hb ub l]
  cases useD with
  | true => rw [opNat_tyOp_of_isU hd ud l]
  | false => exact mapElems_third (unread rfl _ _) _ _ _ _

theorem floatUnary_writesLanes {i : Instr} {f : Fmt → Nat → Nat → Nat} {d a : RegCode} {s : State} (clean : Clean i s)
    (opens : closesIdem i = false) (run : exec i s = floatUnary i f d a s) :
    WritesLanes i s (tyOp s.cur (wrOp d)) (opWords s (tyOp s.cur (rdOp 1 a)))
      (fun l => mapElems (gmType s.cur) (fun x _ _ => f (fmtOf (gmType s.cur)) (gmRound s.cur) x) (opNat s (tyOp s.cur (rdOp 1 a)) l) 0 0) := by
  refine writesLanes_of_laneResults (fun uniform l => ?_) (by rw [run, floatUnary, issue_of_clean clean opens, tyOp_span _ _ rfl])
  rw [opNat_tyOp_of_isU rfl uniform l]

theorem fscl_writesLanes (d a b : RegCode) (s : State) (clean : Clean (.fscl d a b) s) :
    WritesLanes (.fscl d a b) s (tyOp s.cur (wrOp d)) (opWords s (tyOp s.cur (rdOp 1 a)) ++ opWords s (rdOp 2 b))
      (fun l => mapElems (gmType s.cur)
        (fun x _ _ => scaleF (fmtOf (gmType s.cur)) (gmRound s.cur) (opLane s (rdOp 2 b) 0 l).toInt (decodeF (fmtOf (gmType s.cur)) x))
        (opNat s (tyOp s.cur (rdOp 1 a)) l) 0 0) := by
  refine writesLanes_of_laneResults (fun uniform l => ?_) (by rw [exec_fscl, execFscl, issue_of_clean clean rfl, tyOp_span _ _ rfl])
  rw [List.all_append, Bool.and_eq_true] at uniform
  obtain ⟨ua, ub⟩ := uniform
  rw [opNat_tyOp_of_isU rfl ua l, opLane_of_isU ub Nat.one_pos l]

/-! ### Values of the 32-bit format -/

/-- FMIN and FMAX order −0 below +0 and ignore one NaN (R138). -/
theorem minF_maxF_values :
    minF f32 0x80000000 0 = 0x80000000 ∧ maxF f32 0x80000000 0 = 0 ∧ minF f32 0x7FC00000 0x3F800000 = 0x3F800000 := by
  decide +kernel

/-- Infinities of opposite signs have no sum (R136), and 1 + 1 is exact (R137). -/
theorem faddF_values : faddF f32 0 0x7F800000 0xFF800000 = f32.nan ∧ faddF f32 0 0x3F800000 0x3F800000 = 0x40000000 := by
  decide +kernel

/-- (1 + 2⁻²³)² − (1 + 2⁻²²) is 2⁻⁴⁶, which a product rounded before the sum would lose (R137). -/
theorem fmaF_rounds_once : fmaF f32 0 0x3F800001 0x3F800001 0xBF800002 = 0x28800000 := by decide +kernel

/-! ### O14 -/

/-- Settles O14: each instruction runs one of the two shared operations, or FSCL, whose results are U where their sources are, since the lane's
value is then the same in every lane (R25); the write of results does the rest. -/
theorem floatArithmetic : Obligations.FloatArithmetic := by
  unfold Obligations.FloatArithmetic
  obtain ⟨minZero, maxZero, minNan⟩ := minF_maxF_values
  obtain ⟨infSum, oneSum⟩ := faddF_values
  refine ⟨⟨fun p hp d a b s clean => ?_, fscl_writesLanes⟩, fun p hp d a s clean => ?_,
    minZero, maxZero, minNan, infSum, oneSum, fmaF_rounds_once⟩
  · exact floatThree_writesLanes rfl rfl rfl clean (closesIdem_of_mem_floatThrees p hp d a b) (unread_of_mem_floatThrees p hp)
      (exec_of_mem_floatThrees p hp d a b s)
  · exact floatUnary_writesLanes clean (closesIdem_of_mem_floatUnaries p hp d a) (exec_of_mem_floatUnaries p hp d a s)

end Sys2Proof.Machine
end
